-- ==== Sys2Proof/Word.lean ====
section
/-! DEFINITION. The word types of the Corien Dyrek and the plainest conversions between them. -/
namespace Sys2Proof

/-- A scalar register, an address while it is computed, a control register value: 64 bits (R103). -/
abbrev Word := BitVec 64

/-- A vector element slot: 32 bits (R24). -/
abbrev Slot := BitVec 32

/-- One byte of memory (R4). -/
abbrev Byte := BitVec 8

/-- A scalar register number, s0 to s31 (R76). -/
abbrev Reg := BitVec 5

/-- A mask register's contents: bit i belongs to element i (R62). -/
abbrev Mask := BitVec 1024

/-- One bit as a word. -/
def Word.ofBool (b : Bool) : Word := if b then 1 else 0

/-- Bits hi:lo of a word as a number (R3). -/
def Word.field (w : Word) (hi lo : Nat) : Nat := (w.toNat >>> lo) % 2 ^ (hi + 1 - lo)

/-- A number placed in bits hi:lo of a word, cut to the field's width (R3). -/
def Word.place (v hi lo : Nat) : Word := BitVec.ofNat 64 ((v % 2 ^ (hi + 1 - lo)) <<< lo)

end Sys2Proof
end

