-- ==== Sys2Proof/Config.lean ====
section
/-! DEFINITION. What an implementation fixes and what the manual leaves open: free values, none of which has a
body, so a claim holds whatever they are. -/
namespace Sys2Proof.Config

/-- Arithmetic-clock cycles that the n-th step takes, where the manual states no time (R368). -/
opaque stepCycles : Nat → Nat

/-- The contents of an element that no rule gives: register r, element i, since the vcfg of the n-th step (R59; log 12). -/
opaque staleElem (n r i : Nat) : BitVec 32

/-- Cycles of the n-th step that a hart stalled on refresh, for the refresh field of R307. -/
opaque refreshCycles : Nat → Nat

/-- Cycles of the n-th step that a hart stalled on a link retry, for the retry field of R307. -/
opaque retryCycles : Nat → Nat

/-- Whether the verification of boot stage n succeeds (R363): the images and fuses are not in the manual. -/
opaque bootVerifies : Nat → Bool

/-- Whether firmware fixes tier port i in NVMe mode at boot (R360). -/
opaque tierNvme : Nat → Bool

/-- This device's own node number on Corien Link (R361). -/
opaque ownNode : BitVec 12

/-- The SHA-256 digest that is measurement n (R364), n from 1 to 4. -/
opaque measurement : Nat → BitVec 256

/-- The fused rollback counter, measurement 6 (R363, R364). -/
opaque rollback : Nat

/-- The module is an LC-DY40-M, and no LC-DY40-P (R1, R364). -/
opaque moduleM : Bool

/-- The bytes of the reply to an SPDM request that standards outside the manual fix (R364): the request's code and bytes. -/
opaque spdmReply : Nat → List (BitVec 8) → List (BitVec 8)

/-- Which of the classes of R64 that the sampled cycle has slots of the sample of the n-th step shows (R352). -/
opaque sampleClass : Nat → Nat

/-- An error or an activation that the surroundings of the machine bring in a step (R207, R349, R350): a corrected error in a stack (0 to 11 as BDSEL
counts them) or on a die, an uncorrectable one in the block or word at a key, a parity error in the control state of a cluster, of a die's stream controller or of a Cellar stack's
base die, the link of a Cellar stack to the
compute dies failing or working again, or an activation of a row of a bank of a stack by its memory controller. -/
inductive Event where
  | corrected (dram : Bool) (unit : Nat)
  | uncorrectable (key : Nat)
  | parity (cluster : Nat)
  | parityDie (die : Nat)
  | parityStack (stack : Nat)
  | link (stack : Nat) (fails : Bool)
  | activated (stack bank row : Nat)
  deriving DecidableEq, Repr

/-- What the surroundings bring in the n-th step, where anything. -/
opaque event : Nat → Option Event

/-- The bank, the subarray and the row of a Cellar address (R347, R349): the manual gives no map of them. -/
opaque bankOf : Nat → Nat
opaque subarrayOf : Nat → Nat
opaque rowOf : Nat → Nat

/-- The pager refuses the page that an engine waits for in the n-th step (R162, R333). -/
opaque refuses : Nat → Bool

/-- What a byte of a physical address that names no memory reads as to the device itself (R322; log 60). -/
opaque absentByte : Nat → BitVec 8

/-- The log of the number of records that a sample queue holds: R352 gives the queue R285's rule and no size. -/
opaque sampleLg : Nat

/-- The order in which two happenings of one cycle are taken where several orders are allowed: the n-th choice. -/
opaque choice : Nat → Nat

/-- Which of the turns that are possible the n-th step takes, where no rule orders them (R1, R74; log 4). -/
opaque turnChoice : Nat → Nat

end Sys2Proof.Config
end

