-- ==== Sys2Proof/Syntax.lean ====
section
/-! DEFINITION. The instruction set of the Corien Dyrek as syntax: one constructor for each row of the opcode
table. 147 constructors are scalar words (R76 to R83), 110 are vector words (R84 to R93), and 88 are the events
of the part that the table lists as its other steps: no word encodes them. The words with operands stand first:
compiled Lean can build no constructor with fields past the 244th, which leaves four words (Decode.lean says how). -/
namespace Sys2Proof

/-- The fields of an amo's fn that are not its operation (R80): size (true for 8 bytes), scope and order. -/
structure AmoForm where
  double : Bool
  scope  : BitVec 3
  order  : BitVec 2
  deriving DecidableEq, Repr

/-- The fields of a VR word beside its major and fn (R84). xm is the exception-mask bit and xd its destination;
wa, wb and wc are the wait bits of va, vb and vc. -/
structure VR where
  vd   : BitVec 7
  va   : BitVec 7
  vb   : BitVec 7
  vc   : BitVec 7
  mask : BitVec 5
  xm   : Bool
  xd   : BitVec 4
  wa   : Bool
  wb   : Bool
  wc   : Bool
  rnd  : BitVec 3
  sat  : BitVec 2
  deriving DecidableEq, Repr

/-- The fields of a VI word beside its major and fn (R84). -/
structure VI where
  vd   : BitVec 7
  va   : BitVec 7
  mask : BitVec 5
  wa   : Bool
  imm  : BitVec 32
  deriving DecidableEq, Repr

/-- The fields of a VM word beside its major (R84). vd is the source of a store; idx is the index, stride,
permutation or accumulator field. For a vamo, off is zero and the low bits hold operation and order (R93). -/
structure VM where
  vd    : BitVec 7
  base  : BitVec 5
  idx   : BitVec 7
  mask  : BitVec 5
  fmt   : BitVec 6
  cls   : BitVec 4
  scope : BitVec 3
  tok   : BitVec 8
  scale : BitVec 3
  off   : BitVec 8
  deriving DecidableEq, Repr

/-- The fields of a VQ word beside its major (R85). -/
structure VQ where
  vd   : BitVec 7
  co   : BitVec 7
  desc : BitVec 2
  mask : BitVec 5
  wait : Bool
  cls  : BitVec 4
  tok  : BitVec 8
  mode : BitVec 6
  k    : BitVec 10
  deriving DecidableEq, Repr

/-- What a Corien Link flit asks for at its destination (R361, R362). The manual gives the header's fields and
not its type codes, so a request is named by what it does. -/
inductive FlitOp where
  | read  (pa : Nat) (len : Nat)
  | write (pa : Nat) (data : List Byte)
  | amo   (pa : Nat) (op : Nat) (double : Bool) (operand compare : BitVec 64)
  | reply (data : List Byte)
  deriving DecidableEq, Repr

/-- A Corien Link flit as it arrives: destination and source node, tag, its request, and whether its CRC held (R361). -/
structure Flit where
  dst   : BitVec 12
  src   : BitVec 12
  tag   : BitVec 16
  op    : FlitOp
  crcOk : Bool
  deriving DecidableEq, Repr

/-- Every step of the part that the opcode table lists. -/
inductive Instr where
  /-- R104: Scalar integer add: d := a + b modulo 2^64. -/
  | add (d a b : Reg)
  /-- R104: Scalar integer subtract: d := a - b modulo 2^64. -/
  | sub (d a b : Reg)
  /-- R104: d := low 64 bits of a × b. -/
  | mul (d a b : Reg)
  /-- R104: d := high 64 bits of the signed 128-bit product of a and b. -/
  | mulh (d a b : Reg)
  /-- R104: d := high 64 bits of the unsigned 128-bit product of a and b. -/
  | mulhn (d a b : Reg)
  /-- R105: Signed division truncated toward zero; never traps, with fixed corner-case results. -/
  | div (d a b : Reg)
  /-- R105: Unsigned division; division by zero gives all ones. -/
  | divn (d a b : Reg)
  /-- R105: Signed remainder with the sign of a; remainder by zero gives a. -/
  | rem (d a b : Reg)
  /-- R105: Unsigned remainder; remainder by zero gives a. -/
  | remn (d a b : Reg)
  /-- R104: d := a AND b. -/
  | and (d a b : Reg)
  /-- R104: d := a OR b. -/
  | or (d a b : Reg)
  /-- R104: d := a XOR b. -/
  | xor (d a b : Reg)
  /-- R104: d := a AND NOT b. -/
  | andn (d a b : Reg)
  /-- R104: d := a shifted left by b mod 64. -/
  | shl (d a b : Reg)
  /-- R104: d := a shifted logically right by b mod 64. -/
  | shr (d a b : Reg)
  /-- R104: d := a shifted arithmetically right by b mod 64. -/
  | sra (d a b : Reg)
  /-- R104: d := a rotated right by b mod 64. -/
  | rotr (d a b : Reg)
  /-- R104: d := signed minimum of a and b. -/
  | min (d a b : Reg)
  /-- R104: d := signed maximum of a and b. -/
  | max (d a b : Reg)
  /-- R104: d := unsigned minimum of a and b. -/
  | minn (d a b : Reg)
  /-- R104: d := unsigned maximum of a and b. -/
  | maxn (d a b : Reg)
  /-- R104: d := 1 when a < b signed, else 0. -/
  | slt (d a b : Reg)
  /-- R104: d := 1 when a < b unsigned, else 0. -/
  | sltn (d a b : Reg)
  /-- R104: d := 1 when a = b, else 0. -/
  | seq (d a b : Reg)
  /-- R104: d := a when the old d is nonzero, else b. -/
  | csel (d a b : Reg)
  /-- R104: d := count of leading zero bits of a, 64 for zero. -/
  | clz (d a : Reg)
  /-- R104: d := count of trailing zero bits of a, 64 for zero. -/
  | ctz (d a : Reg)
  /-- R104: d := number of one bits of a. -/
  | popc (d a : Reg)
  /-- R104: d := a 7:0 sign-extended. -/
  | sextB (d a : Reg)
  /-- R104: d := a 15:0 sign-extended. -/
  | sextH (d a : Reg)
  /-- R104: d := a 31:0 sign-extended. -/
  | sextW (d a : Reg)
  /-- R104: d := a 7:0 zero-extended. -/
  | zextB (d a : Reg)
  /-- R104: d := a 15:0 zero-extended. -/
  | zextH (d a : Reg)
  /-- R104: d := a 31:0 zero-extended. -/
  | zextW (d a : Reg)
  /-- R107: Scalar FP32 add rounded with FROUND; may trap with cause 0x0E. -/
  | fadd (d a b : Reg)
  /-- R107: Scalar FP32 subtract rounded with FROUND. -/
  | fsub (d a b : Reg)
  /-- R107: Scalar FP32 multiply rounded with FROUND. -/
  | fmul (d a b : Reg)
  /-- R107: Scalar FP32 fused a × b + old d, rounded once. -/
  | ffma (d a b : Reg)
  /-- R107: Scalar FP32 minimum with -0 below +0, unrounded. -/
  | fmin (d a b : Reg)
  /-- R107: Scalar FP32 maximum with -0 below +0, unrounded. -/
  | fmax (d a b : Reg)
  /-- R108: d := 1 when a equals b as FP32, NaN giving 0. -/
  | fcmpEq (d a b : Reg)
  /-- R108: d := 1 when a < b as FP32; NV for any NaN. -/
  | fcmpLt (d a b : Reg)
  /-- R108: d := 1 when a <= b as FP32; NV for any NaN. -/
  | fcmpLe (d a b : Reg)
  /-- R108: Converts signed 64-bit a to FP32 with FROUND. -/
  | fcvtF32I64 (d a : Reg)
  /-- R108: Converts FP32 a to a saturating signed 64-bit integer toward zero. -/
  | fcvtI64F32 (d a : Reg)
  /-- R106: d := a + sign-extended imm. -/
  | addi (d a : Reg) (imm : BitVec 16)
  /-- R106: d := a AND zero-extended imm. -/
  | andi (d a : Reg) (imm : BitVec 16)
  /-- R106: d := a OR zero-extended imm. -/
  | ori (d a : Reg) (imm : BitVec 16)
  /-- R106: d := a XOR zero-extended imm. -/
  | xori (d a : Reg) (imm : BitVec 16)
  /-- R106: d := 1 when a < sign-extended imm, signed. -/
  | slti (d a : Reg) (imm : BitVec 16)
  /-- R106: d := 1 when a < sign-extended imm, compared unsigned. -/
  | sltni (d a : Reg) (imm : BitVec 16)
  /-- R106: d := a shifted left by an immediate amount. -/
  | shli (d a : Reg) (amount : BitVec 6)
  /-- R106: d := a shifted logically right by an immediate amount. -/
  | shri (d a : Reg) (amount : BitVec 6)
  /-- R106: d := a shifted arithmetically right by an immediate amount. -/
  | srai (d a : Reg) (amount : BitVec 6)
  /-- R106: d := a rotated right by an immediate amount. -/
  | rotri (d a : Reg) (amount : BitVec 6)
  /-- R106: Replaces halfword k of d with the immediate halfword. -/
  | lih (d : Reg) (k : BitVec 2) (half : BitVec 16)
  /-- R106: d := address of the pcadd + 4 × sign-extended imm. -/
  | pcadd (d : Reg) (imm : BitVec 16)
  /-- R109: Branches when a = b. -/
  | bEq (a b : Reg) (off : BitVec 13)
  /-- R109: Branches when a != b. -/
  | bNe (a b : Reg) (off : BitVec 13)
  /-- R109: Branches when a < b signed. -/
  | bLt (a b : Reg) (off : BitVec 13)
  /-- R109: Branches when a >= b signed. -/
  | bGe (a b : Reg) (off : BitVec 13)
  /-- R109: Branches when a < b unsigned. -/
  | bLtn (a b : Reg) (off : BitVec 13)
  /-- R109: Branches when a >= b unsigned. -/
  | bGen (a b : Reg) (off : BitVec 13)
  /-- R109: Writes s1 := address + 4 and jumps by a word offset. -/
  | jal (off : BitVec 26)
  /-- R109: Jumps by a word offset without linking. -/
  | jmp (off : BitVec 26)
  /-- R109: Jumps to a + 4 × imm and writes d := address + 4; misaligned target traps 0x03. -/
  | jalr (d a : Reg) (imm : BitVec 16)
  /-- R110: Loads a byte, sign-extended, per the page kind outcomes. -/
  | ldB (d base : Reg) (cls : BitVec 4) (off : BitVec 9)
  /-- R110: Loads a halfword, sign-extended. -/
  | ldH (d base : Reg) (cls : BitVec 4) (off : BitVec 9)
  /-- R110: Loads a word, sign-extended. -/
  | ldW (d base : Reg) (cls : BitVec 4) (off : BitVec 9)
  /-- R110: Loads a byte, zero-extended. -/
  | ldBn (d base : Reg) (cls : BitVec 4) (off : BitVec 9)
  /-- R110: Loads a halfword, zero-extended. -/
  | ldHn (d base : Reg) (cls : BitVec 4) (off : BitVec 9)
  /-- R110: Loads a word, zero-extended. -/
  | ldWn (d base : Reg) (cls : BitVec 4) (off : BitVec 9)
  /-- R110: Loads a doubleword. -/
  | ldD (d base : Reg) (cls : BitVec 4) (off : BitVec 9)
  /-- R110: Stores the low byte of the source register. -/
  | stB (src base : Reg) (cls : BitVec 4) (off : BitVec 9)
  /-- R110: Stores the low halfword of the source register. -/
  | stH (src base : Reg) (cls : BitVec 4) (off : BitVec 9)
  /-- R110: Stores the low word of the source register. -/
  | stW (src base : Reg) (cls : BitVec 4) (off : BitVec 9)
  /-- R110: Stores the source doubleword. -/
  | stD (src base : Reg) (cls : BitVec 4) (off : BitVec 9)
  /-- R113: Reads a control register into d, with the waits of R114. -/
  | crd (d : Reg) (cr : BitVec 12)
  /-- R113: Writes a control register field by field per the Kind column. -/
  | cwr (cr : BitVec 12) (a : Reg)
  /-- R113: Indivisibly sets bits of a control register and returns the old value. -/
  | crs (d : Reg) (cr : BitVec 12) (a : Reg)
  /-- R113: Indivisibly clears bits of a control register and returns the old value. -/
  | crc (d : Reg) (cr : BitVec 12) (a : Reg)
  /-- R60: Sets VL := min(a, b, MVL) and writes it to d. -/
  | vsetvl (d a b : Reg)
  /-- R115: Waits for earlier vector words, sets NREGS and MVL, clamps VL and writes d := MVL. -/
  | vcfg (d a : Reg)
  /-- R223: Atomic add at a scope and order, returning the old value. -/
  | amoAdd (d a b : Reg) (f : AmoForm)
  /-- R223: Atomic AND returning the old value. -/
  | amoAnd (d a b : Reg) (f : AmoForm)
  /-- R223: Atomic OR returning the old value. -/
  | amoOr (d a b : Reg) (f : AmoForm)
  /-- R223: Atomic XOR returning the old value. -/
  | amoXor (d a b : Reg) (f : AmoForm)
  /-- R223: Atomic signed minimum returning the old value. -/
  | amoMin (d a b : Reg) (f : AmoForm)
  /-- R223: Atomic signed maximum returning the old value. -/
  | amoMax (d a b : Reg) (f : AmoForm)
  /-- R223: Atomic unsigned minimum returning the old value. -/
  | amoMinn (d a b : Reg) (f : AmoForm)
  /-- R223: Atomic unsigned maximum returning the old value. -/
  | amoMaxn (d a b : Reg) (f : AmoForm)
  /-- R223: Atomic swap returning the old value. -/
  | amoSwap (d a b : Reg) (f : AmoForm)
  /-- R223: Atomic compare-and-swap against d, returning the old value. -/
  | amoCas (d a b : Reg) (f : AmoForm)
  /-- R219: Makes the hart a member of a group. -/
  | join (a : Reg)
  /-- R219: Removes the hart from a group, counting as an arrival in a step or gbar in progress. -/
  | leave (a : Reg)
  /-- R219: d := the hart's rank in a group, or -1. -/
  | grank (d a : Reg)
  /-- R215: Arrives at a group step and parks until every member has arrived. -/
  | step (a : Reg)
  /-- R209: Captures a plane record and binds a region to a group. -/
  | pbind (a b : Reg)
  /-- R216: Unbinds a plane region, discarding stores since the last step. -/
  | punbind (a : Reg)
  /-- R221: Arrives at a named barrier and waits for its phase to advance. -/
  | bar (j : BitVec 7) (a : Reg)
  /-- R221: Arrives at a named barrier and returns at once. -/
  | bara (j : BitVec 7) (a : Reg)
  /-- R221: Waits for the phase of a pending named-barrier arrival. -/
  | barw (j : BitVec 7)
  /-- R220: Waits until every current member of a group has arrived. -/
  | gbar (a : Reg)
  /-- R225: Orders the hart's accesses of the masked classes within a scope. -/
  | fenceC (scope : BitVec 3) (classes : BitVec 16)
  /-- R168: Starts a matrix program on the cluster's matrix control core with a claim mask. -/
  | forkM (a b : Reg)
  /-- R226: Starts a copy program on the cluster's copy sequencer. -/
  | forkC (a b : Reg)
  /-- R227: Creates a new hart of the kernel on the first qualifying cluster and returns its HARTID or -1. -/
  | forkH (d a b : Reg)
  /-- R159: Binds or unbinds a stream register to a pattern for reading or writing. -/
  | sbind (j : BitVec 3) (a b : Reg)
  /-- R162: Issues a pattern copy whose completion is shown in token kj. -/
  | scpy (j : BitVec 3) (a b : Reg)
  /-- R165: Waits until every named token is not busy, trapping on an error. -/
  | swait (tokens : BitVec 8)
  /-- R165: Stops the copy of a token, clears an error and makes it idle. -/
  | scancel (j : BitVec 3)
  /-- R165: Returns a token's state and performed element count without waiting. -/
  | squery (d : Reg) (j : BitVec 3)
  /-- R163: Issues a de-interleaving segment copy. -/
  | scpySeg (j : BitVec 3) (a b : Reg)
  /-- R192: Reads, checks and captures a query descriptor record into qdj. -/
  | qdesc (j : BitVec 2) (a b : Reg)
  /-- R204: Copies a Cellar page onto another between base dies, waiting until every piece is performed. -/
  | creloc (a b : Reg)
  /-- R246: Looks up an expert, chooses a replica, returns state and slot address and takes a hold. -/
  | xlook (d a : Reg)
  /-- R247: Parks an expert's masked tokens in the Vestibule and starts a fetch if absent. -/
  | xpark (d a : Reg) (m : BitVec 4)
  /-- R248: Waits for and removes the hart's oldest ready record, returning its expert and token mask. -/
  | xwake (d : Reg) (m : BitVec 4)
  /-- R249: Closes a layer: waits, drops holds, adopts staged replica sets and advances LAYER. -/
  | xlayer (d : Reg)
  /-- R250: Stages a replica set for an expert. -/
  | xrepl (a b : Reg)
  /-- R251: Writes an expert's reuse and next-use hints. -/
  | xhint (a b : Reg)
  /-- R173: Issues to the fill pipe a copy of a B image into Larder granules. -/
  | mldW (a b : Reg)
  /-- R174: Issues to the fill pipe the staging of an A tile into Larder granules. -/
  | mldA (a b : Reg)
  /-- R177: Issues a matrix multiply-accumulate into a claimed accumulator to the array pipe. -/
  | mma (j : BitVec 2) (a b : Reg)
  /-- R180: Issues zeroing of every cell of an accumulator. -/
  | mzero (j : BitVec 2)
  /-- R181: Issues a narrowing store of an accumulator to scratchpad through the matrix slot. -/
  | mst (j : BitVec 2) (a : Reg)
  /-- R180: Sets the promotion window W for later mma operations. -/
  | mcfg (a : Reg)
  /-- R180: Issues scaling of every accumulator cell by 2^n. -/
  | mscale (a b : Reg)
  /-- R297: Waits as vsync and raises cause 0x10 with info := a. -/
  | trap (a : Reg)
  /-- R330: Removes translations device-wide, stops pinning vector words and waits for other pins. -/
  | tlbinv (a : Reg)
  /-- R300: Stops a context at its commit fronts, codes its image and releases its on-die stores. -/
  | ctxsave (a : Reg)
  /-- R301: Checks, decodes and restores a saved context image to its slots. -/
  | ctxload (a : Reg)
  /-- R298: Appends a mark entry carrying a to Sillage. -/
  | logmark (a : Reg)
  /-- R316: Reads and checks a kernel record and launches the kernel, returning its KERNELID or an error. -/
  | klaunch (d a : Reg)
  /-- R317: Waits until a kernel is not live. -/
  | kwait (a : Reg)
  /-- R318: Kills a kernel and waits until its cleanup has completed. -/
  | kkill (a : Reg)
  /-- R319: Sets the base priority of a kernel. -/
  | kprio (a b : Reg)
  /-- R117: Loads a doubleword and waits while it equals b, returning the differing value. -/
  | waitm (d a b : Reg) (cls : BitVec 4)
  /-- R116: Hands a vector-fetch block to the vector stream, waiting when eight are outstanding. -/
  | vf (off : BitVec 26)
  /-- R123: Element-wise FP add in f32 or bf16. -/
  | vaddFp (bf : Bool) (f : VR)
  /-- R123: Element-wise FP subtract. -/
  | vsubFp (bf : Bool) (f : VR)
  /-- R123: Element-wise FP multiply. -/
  | vmulFp (bf : Bool) (f : VR)
  /-- R123: Element-wise fused a × b + c rounded once. -/
  | vfma (bf : Bool) (f : VR)
  /-- R123: Element-wise fused a × b - c rounded once. -/
  | vfms (bf : Bool) (f : VR)
  /-- R123: Element-wise fused c - a × b rounded once. -/
  | vfnma (bf : Bool) (f : VR)
  /-- R123: Element-wise FP divide. -/
  | vdiv (bf : Bool) (f : VR)
  /-- R123: Element-wise FP square root. -/
  | vsqrt (bf : Bool) (f : VR)
  /-- R124: Element-wise unrounded FP minimum. -/
  | vminFp (bf : Bool) (f : VR)
  /-- R124: Element-wise unrounded FP maximum. -/
  | vmaxFp (bf : Bool) (f : VR)
  /-- R124: Clears bit 31 of each active element. -/
  | vabs (bf : Bool) (f : VR)
  /-- R124: Inverts bit 31 of each active element. -/
  | vneg (bf : Bool) (f : VR)
  /-- R124: Copies bit 31 of b into a. -/
  | vcopysign (bf : Bool) (f : VR)
  /-- R125: Correctly rounded BF16 2^a. -/
  | vexp2 (f : VR)
  /-- R125: Correctly rounded BF16 log2 a. -/
  | vlog2 (f : VR)
  /-- R125: Correctly rounded BF16 reciprocal. -/
  | vrcp (f : VR)
  /-- R125: Correctly rounded BF16 reciprocal square root. -/
  | vrsqrt (f : VR)
  /-- R125: Correctly rounded BF16 tanh. -/
  | vtanh (f : VR)
  /-- R127: Rounds f32 elements to bf16 slots. -/
  | vcvtBf16F32 (f : VR)
  /-- R127: Converts i32 elements to f32. -/
  | vcvtF32I32 (f : VR)
  /-- R127: Converts f32 elements to i32 with range handling. -/
  | vcvtI32F32 (f : VR)
  /-- R127: Converts n32 elements to f32. -/
  | vcvtF32N32 (f : VR)
  /-- R127: Converts f32 elements to n32 with range handling. -/
  | vcvtN32F32 (f : VR)
  /-- R127: Rounds f32 elements to integral f32 values. -/
  | vround (f : VR)
  /-- R128: Writes the one-hot class of each f32 element. -/
  | vclass (f : VR)
  /-- R129: Element-wise integer add with optional saturation. -/
  | vaddI32 (f : VR)
  /-- R129: Element-wise integer subtract with optional saturation. -/
  | vsubI32 (f : VR)
  /-- R129: Element-wise integer multiply with optional saturation. -/
  | vmulI32 (f : VR)
  /-- R129: High 32 bits of signed products. -/
  | vmulh (f : VR)
  /-- R129: High 32 bits of unsigned products. -/
  | vmulhn (f : VR)
  /-- R129: Element-wise bitwise AND. -/
  | vand (f : VR)
  /-- R129: Element-wise bitwise OR. -/
  | vor (f : VR)
  /-- R129: Element-wise bitwise XOR. -/
  | vxor (f : VR)
  /-- R129: Element-wise shift left with optional saturation. -/
  | vshl (f : VR)
  /-- R129: Element-wise logical shift right. -/
  | vshr (f : VR)
  /-- R129: Element-wise arithmetic shift right. -/
  | vsra (f : VR)
  /-- R129: Element-wise signed minimum. -/
  | vminI32 (f : VR)
  /-- R129: Element-wise signed maximum. -/
  | vmaxI32 (f : VR)
  /-- R129: Element-wise unsigned minimum. -/
  | vminn (f : VR)
  /-- R129: Element-wise unsigned maximum. -/
  | vmaxn (f : VR)
  /-- R130: Adds a 32-bit immediate to each active element. -/
  | vaddi (f : VI)
  /-- R130: ANDs a 32-bit immediate into each active element. -/
  | vandi (f : VI)
  /-- R130: ORs a 32-bit immediate into each active element. -/
  | vori (f : VI)
  /-- R130: XORs a 32-bit immediate into each active element. -/
  | vxori (f : VI)
  /-- R130: Shifts each active element left by an immediate. -/
  | vshli (f : VI)
  /-- R130: Shifts each active element logically right by an immediate. -/
  | vshri (f : VI)
  /-- R130: Shifts each active element arithmetically right by an immediate. -/
  | vsrai (f : VI)
  /-- R131: Compares elements under a condition and type and writes a mask. -/
  | vcmp (ty : BitVec 2) (cond : BitVec 3) (f : VR)
  /-- R132: Mask AND. -/
  | mand (f : VR)
  /-- R132: Mask OR. -/
  | mor (f : VR)
  /-- R132: Mask XOR. -/
  | mxor (f : VR)
  /-- R132: Mask AND NOT. -/
  | mandn (f : VR)
  /-- R132: Mask NOT. -/
  | mnot (f : VR)
  /-- R132: Sets active mask bits to 1. -/
  | mset (f : VR)
  /-- R132: Sets active mask bits to 0. -/
  | mclr (f : VR)
  /-- R133: Counts the elements that count in a mask. -/
  | mpop (f : VR)
  /-- R133: Returns the lowest counting index or -1. -/
  | mfirst (f : VR)
  /-- R133: Writes a list register with the counting indices. -/
  | mlist (f : VR)
  /-- R132: Sets mask bits from nonzero vector elements. -/
  | mfromv (f : VR)
  /-- R132: Writes mask bits into vector elements as 1 or 0. -/
  | mtov (f : VR)
  /-- R137: Packs the active elements into the low elements. -/
  | vcompress (f : VR)
  /-- R137: Spreads low source elements to active positions. -/
  | vexpand (f : VR)
  /-- R137: Gathers elements by index within the register. -/
  | vperm (f : VR)
  /-- R137: Slides elements up by n. -/
  | vslideup (f : VR)
  /-- R137: Slides elements down by n. -/
  | vslidedn (f : VR)
  /-- R137: Broadcasts element n to active elements. -/
  | vbcast (f : VR)
  /-- R136: Writes each active element's index. -/
  | vid (f : VR)
  /-- R136: Copies a source into active elements. -/
  | vmv (f : VR)
  /-- R136: Selects a or b per bit of a mask. -/
  | vsel (f : VR)
  /-- R138: FP32 sum by the fixed adjacent-pair tree. -/
  | vredsumF32 (f : VR)
  /-- R138: BF16 sum by the fixed tree. -/
  | vredsumBf16 (f : VR)
  /-- R138: FP32 maximum reduction. -/
  | vredmax (f : VR)
  /-- R138: FP32 minimum reduction. -/
  | vredmin (f : VR)
  /-- R138: Integer sum modulo 2^32. -/
  | vredsumI32 (f : VR)
  /-- R139: Block-4 scaled FP32 sum with scales from register b. -/
  | vredsumb (f : VR)
  /-- R138: FP32 prefix sum over active elements. -/
  | vscanF32 (f : VR)
  /-- R138: Maximum value with its index. -/
  | vredmaxi (f : VR)
  /-- R141: Merges best-k entries of paired segments into keys and indices. -/
  | vmergek (f : VR)
  /-- R142: Writes the best k present key-index entries in rank order. -/
  | vtopk (f : VR)
  /-- R252: Counts tokens per expert into table counters and a histogram. -/
  | xcount (f : VR)
  /-- R253: Ranks tokens per expert and writes chosen ranks for the top k. -/
  | xcsel (f : VR)
  /-- R150: Unit-stride vector load with widening into a register or load queue. -/
  | vld (f : VM)
  /-- R150: Unit-stride vector store with narrowing. -/
  | vst (f : VM)
  /-- R150: Strided vector load. -/
  | vlds (f : VM)
  /-- R150: Strided vector store. -/
  | vsts (f : VM)
  /-- R153: Indexed gather probed by the page-sorting unit. -/
  | vldx (f : VM)
  /-- R153: Indexed scatter probed by the page-sorting unit. -/
  | vstx (f : VM)
  /-- R154: Fault-first unit-stride load that truncates VL at a later faulting element. -/
  | vldff (f : VM)
  /-- R155: Loads records of f fields into f registers under a permutation. -/
  | vldseg (f : VM)
  /-- R156: Appends active indices to a queue in working memory with atomic tail claims. -/
  | vappend (f : VM)
  /-- R183: Reads an accumulator row into a vector register after its chaining bit clears. -/
  | mdrain (f : VM)
  /-- R183: Writes a vector register into an accumulator row. -/
  | mfill (f : VM)
  /-- R224: Per-element atomic add with scope-miss detection. -/
  | vamoAdd (order : BitVec 2) (f : VM)
  /-- R224: Per-element atomic AND. -/
  | vamoAnd (order : BitVec 2) (f : VM)
  /-- R224: Per-element atomic OR. -/
  | vamoOr (order : BitVec 2) (f : VM)
  /-- R224: Per-element atomic XOR. -/
  | vamoXor (order : BitVec 2) (f : VM)
  /-- R224: Per-element atomic signed minimum. -/
  | vamoMin (order : BitVec 2) (f : VM)
  /-- R224: Per-element atomic signed maximum. -/
  | vamoMax (order : BitVec 2) (f : VM)
  /-- R224: Per-element atomic unsigned minimum. -/
  | vamoMinn (order : BitVec 2) (f : VM)
  /-- R224: Per-element atomic unsigned maximum. -/
  | vamoMaxn (order : BitVec 2) (f : VM)
  /-- R224: Per-element atomic swap returning old values. -/
  | vamoSwap (order : BitVec 2) (f : VM)
  /-- R203: Reduce-on-write: adds each active element into the Cellar indivisibly. -/
  | cadd (f : VM)
  /-- R157: Probes pages and warms the memory side, filing prefetch requests. -/
  | vpref (f : VM)
  /-- R198: Per-row dot product query, or select-exact with .sx. -/
  | qdot (f : VQ)
  /-- R200: Weighted sum of active rows. -/
  | qwsum (f : VQ)
  /-- R200: Filtered sum of rows whose key meets a condition. -/
  | qfsum (f : VQ)
  /-- R201: Best qdot score with its row index. -/
  | qmaxi (f : VQ)
  /-- R201: Best k scores with row indices. -/
  | qtopk (f : VQ)
  /-- R202: Histogram of active rows' keys into k bins. -/
  | qhist (f : VQ)
  /-- R115: Waits until every earlier vector word has committed and its registers are full. -/
  | vsync
  /-- R228: Waits until the forked matrix program has halted. -/
  | rdvM
  /-- R228: Waits until the forked copy program has halted. -/
  | rdvC
  /-- R228: Waits until both forked programs have halted. -/
  | rdvMc
  /-- R229: Waits as vsync, leaves groups, drops holds and records, and retires the hart or engine. -/
  | halt
  /-- R182: Waits until every earlier matrix operation has completed. -/
  | mwait
  /-- R299: Resumes the held hart named by TRHART, or sets TRHART.err. -/
  | eret
  /-- R297: Waits as vsync and raises breakpoint cause 0x0F. -/
  | brk
  /-- R73: Ends a vector-fetch block and closes the current convoy. -/
  | vstop
  /-- R73: The vector stream issues the next convoy once its grant and operands allow. -/
  | convoyIssue (slot : Nat)
  /-- R197: A query reply arrives from a Cellar stack and commits its element or combined result. -/
  | queryReply (slot : Nat)
  /-- R117: A store visible to a waiting hart makes waitm reload and possibly return. -/
  | waitmWake (slot : Nat)
  /-- R311: Every 1,024 cycles, or on placement, retire, trap or wait, a cluster regrants lanes. -/
  | regrant (cluster : Nat)
  /-- R310: Each whole millisecond raises the effective priority of waiting kernels and unissued harts. -/
  | priorityAging
  /-- R290: A kernel's cycle count reaches its budget and it is killed with cause 0x11. -/
  | budgetExceeded (ctx kid : Nat)
  /-- R355: At each 2^24 scalar words a hart writes a digest entry, checked against the log in replay. -/
  | intervalDigest (slot : Nat)
  /-- R352: Every 2^per cycles each placed hart of the context writes a sample. -/
  | dbgSample (slot : Nat)
  /-- R295: A register bank unaccessed for 4,096 cycles may enter retention. -/
  | retentionEntry (slot bank : Nat)
  /-- R309: The dispatcher places the harts of the kernel at the head of the order on free clusters. -/
  | hartPlacement
  /-- R316: A waiting klaunch finds a scoreboard place, receives its KERNELID and starts its transfers. -/
  | scoreboardAdmit (die : Nat)
  /-- R306: A kernel input transfer completes or fails. -/
  | inputTransferComplete (ctx kid n : Nat)
  /-- R308: A waiting kernel becomes ready when its predecessors have ended and transfers are performed. -/
  | kernelReady (ctx kid : Nat)
  /-- R314: The clock mode changes to match CLKMODE.req when no hart is placed. -/
  | clockModeChange
  /-- R168: A forked matrix program begins once earlier vector words of the forking hart have committed. -/
  | matrixProgramStart (cluster : Nat)
  /-- R226: A forked copy program begins on the copy sequencer. -/
  | copyProgramStart (cluster : Nat)
  /-- R170: A queued matrix operation begins once its pipe and dependencies allow. -/
  | matrixOperationStart (cluster : Nat) (fill : Bool)
  /-- R178: An mma row becomes final and, with release, its chaining bit clears. -/
  | rowFinal (cluster : Nat)
  /-- R178: A matrix operation completes, adding early promotions to MPROMO. -/
  | matrixOperationComplete (cluster : Nat) (fill : Bool)
  /-- R161: A queued copy command starts when its port has a free slot. -/
  | copyStart (cluster idx : Nat)
  /-- R164: A copy performs its last element and its token becomes idle. -/
  | copyComplete (cluster idx : Nat)
  /-- R162: A copy fails in flight after a prefix and its token enters error. -/
  | copyFail (cluster idx : Nat)
  /-- R159: A read stream fetches a pattern element. -/
  | readStreamFetch (slot q : Nat)
  /-- R159: A write stream performs a committed element. -/
  | writeStreamPerform (slot q : Nat)
  /-- R342: An expert fetch takes a free or victim slot and begins reading the tier. -/
  | expertFetchStart (ctx e : Nat)
  /-- R342: An expert fetch ends resident or failed, and its records become ready or fail. -/
  | expertFetchComplete (ctx e : Nat)
  /-- R342: A die or peer replica is filled from the resident home slot. -/
  | replicaFill (ctx e : Nat) (rep : BitVec 16)
  /-- R337: Tier command op 1: copies a page from a tier location into a frame. -/
  | tierPageIn (die idx : Nat)
  /-- R337: Tier command op 2: copies a frame out to a tier location. -/
  | tierPageOut (die idx : Nat)
  /-- R337: Tier command op 3: moves a Cellar page between stacks. -/
  | cellarMove (die idx : Nat)
  /-- R337: Tier command op 4: zeroes a frame. -/
  | zeroFrame (die idx : Nat)
  /-- R337: A tier command ends and its status is written as a release. -/
  | tierCommandDone (die idx : Nat)
  /-- R288: An uncorrectable Cellar error or base-die fault stops the context and discards its work. -/
  | contextFault (ctx stack : Nat) (baseDie : Bool) (pa : Nat)
  /-- R288: The discard of a context fault completes and CTXSTAT.disc clears. -/
  | discardComplete (ctx : Nat)
  /-- R6: A write to a control register field without behaviour of its own. -/
  | registerWrite (cr : BitVec 12) (v : BitVec 64)
  /-- R39: A write of SRSEED waits for earlier vector words and reseeds g0 to g64. -/
  | srseedWrite (v : BitVec 64)
  /-- R44: A write of FFLAGS waits for earlier vector words to commit, then writes. -/
  | fflagsWrite (v : BitVec 64)
  /-- R284: Opens a free context to state 1. -/
  | ctxcmdOpen (ctx : Nat)
  /-- R284: Closes a context, removing translations, cached images, records and on-die stores. -/
  | ctxcmdClose (ctx : Nat)
  /-- R284: Returns a faulted context to state 1. -/
  | ctxcmdReopen (ctx : Nat)
  /-- R304: A write of LPBASE sets the launch area and clears LPPOS and LPLIMIT. -/
  | lpbaseWrite (v : BitVec 64)
  /-- R305: A write of LPLIMIT publishes launch area words up to the limit. -/
  | lplimitWrite (die : Nat) (v : BitVec 64)
  /-- R313: Drops cached kernel image entries of a context or all contexts. -/
  | kcinv (v : BitVec 64)
  /-- R314: Requests locked-clock or normal mode and stops placement until the change. -/
  | clkmodeWrite (v : BitVec 64)
  /-- R333: Makes every engine of the context waiting on a page walk again. -/
  | pgwake (v : BitVec 64)
  /-- R341: A write of state 3 over 2 pins an expert. -/
  | xe0Pin (ctx e : Nat)
  /-- R341: A write of state 2 over 3 unpins an expert. -/
  | xe0Unpin (ctx e : Nat)
  /-- R343: A write of state 0 over 2 evicts the expert when it is a candidate. -/
  | xe0Evict (ctx e : Nat)
  /-- R341: A write of XE3 stages a replica set as xrepl does. -/
  | xe3Stage (v : BitVec 64)
  /-- R346: A write of a slot table or SLTDON is queued for the next turn of each selected channel. -/
  | sltWrite (cr : BitVec 12) (v : BitVec 64)
  /-- R346: At the start of a channel's turn, a pending slot-table write takes effect. -/
  | sltTurnApply (stack chan : Nat)
  /-- R348: Restarts a base die's management core with its signed firmware. -/
  | bdctlRestart (v : BitVec 64)
  /-- R350: Writing 1 to ERRLOG.valid clears valid and pa. -/
  | errlogClear (v : BitVec 64)
  /-- R353: Debug-stops every hart of a kernel at its next boundary. -/
  | dbghalt (v : BitVec 64)
  /-- R359: Mailbox op 0: completes with status 0. -/
  | mboxNop (host : Bool)
  /-- R359: Mailbox op 1: reads a debug register. -/
  | mboxReadDebug (host : Bool)
  /-- R359: Mailbox op 2: writes a debug register. -/
  | mboxWriteDebug (host : Bool)
  /-- R359: Mailbox op 3: reads a monitor register. -/
  | mboxReadMonitor (host : Bool)
  /-- R359: Mailbox op 4: writes a permitted monitor register. -/
  | mboxWriteMonitor (host : Bool)
  /-- R359: Mailbox op 5: returns MSTAT. -/
  | mboxReadStage (host : Bool)
  /-- R348: Every 1 µs a base die's management core sends a heartbeat with its refresh pointer. -/
  | heartbeat (die pointer : Nat)
  /-- R348: A row refresh issued in fixed order within each 32 ms window. -/
  | refresh (die : Nat)
  /-- R348: After two missed heartbeats the fallback sequencer takes refresh and pauses query expansion. -/
  | fallbackTakeover (die : Nat)
  /-- R348: After a restart and two heartbeats refresh returns to the management core. -/
  | refreshHandback (die : Nat)
  /-- R347: A subarray latch closes after 128 query-clock cycles without a hit. -/
  | subarrayClose (die bank latch : Nat)
  /-- R349: A row's activation counter reaches the threshold, inserting targeted refresh and throttling. -/
  | activationAlert (die bank row : Nat) (query : Bool)
  /-- R349: The 64 µs query activation throttle on a bank ends. -/
  | throttleEnd (die bank : Nat)
  /-- R350: Management cores scrub every DRAM row once per 24 hours. -/
  | scrub (die : Nat) (block : Nat)
  /-- R16: At the power or junction limit the arithmetic clock is lowered by 100 MHz. -/
  | clockLower
  /-- R16: Below the limit the arithmetic clock is raised by 100 MHz. -/
  | clockRaise
  /-- R366: A junction at 105 °C in locked-clock mode ends the mode and marks running counts. -/
  | heatBreak
  /-- R366: A junction at 115 °C resets the device. -/
  | thermalTrip
  /-- R363: After reset the boot ROM and monitor verify and load images through stages 1 to 5. -/
  | boot
  /-- R361: A Corien Link flit arrives; CRC failures are replayed and peer accesses are performed at home. -/
  | flitReceive (port : Nat) (f : Flit)
  /-- R361: After 16 failed replays a port goes down and its peer accesses fail with 0x14. -/
  | linkDown (port : Nat)
  /-- R360: Surprise removal or link loss of a tier port fails its commands with 0x14. -/
  | tierLinkLoss (port : Nat)
  /-- R357: A host CXL.mem access to the exposed working-memory range. -/
  | hostMemAccess (pa : Nat) (data : Option (List (BitVec 8)))
  /-- R364: SPDM GET_VERSION request over DOE. -/
  | getVersion (req : List (BitVec 8))
  /-- R364: SPDM GET_CAPABILITIES request. -/
  | getCapabilities (req : List (BitVec 8))
  /-- R364: SPDM NEGOTIATE_ALGORITHMS request. -/
  | negotiateAlgorithms (req : List (BitVec 8))
  /-- R364: SPDM GET_DIGESTS request. -/
  | getDigests (req : List (BitVec 8))
  /-- R364: SPDM GET_CERTIFICATE request. -/
  | getCertificate (req : List (BitVec 8))
  /-- R364: SPDM CHALLENGE request. -/
  | challenge (req : List (BitVec 8))
  /-- R364: SPDM GET_MEASUREMENTS request returning the six measurements. -/
  | getMeasurements (req : List (BitVec 8))
  /-- R94: A hart decodes a word that no rule makes an instruction (major 0x00, a reserved major, an unlisted fn, a reserved value or a nonzero unused bit) and traps with cause 0x01, performing nothing. -/
  | illegalInstruction
  /-- R116: Fetching the next scalar word, or a vector word of a block, fails with cause 0x04, 0x05 or 0x06, and the hart stops at that word. -/
  | instructionFetchFault (cause : Nat) (addr : Nat)
  /-- R287: Within 10 µs of a kill decision, every slot of the killed kernel is free and every zeroing has completed, which ends the kill in progress. -/
  | kernelKillComplete (ctx kid : Nat)
  /-- R284: A write of FQCTL (or PGQCTL) that changes en from 0 to 1 sets off to 0, and a write of lg while en = 1 is ignored. -/
  | fqctlWrite (cr : BitVec 12) (v : BitVec 64)
  deriving DecidableEq, Repr

end Sys2Proof
end

