-- ==== Sys2Proof/WellFormed.lean ====
section
/-! DEFINITION. Which terms of Instr are instructions of the part: the checks of R78, R81, R85, R86, R88, R90 to R94,
R33, R65, R152 and R194 that need the fields of the word alone. A word whose term fails one of them is no
instruction (R94). Checks that need the state (NREGS, a stream's binding, E of xcsel) stand with the meanings. -/
namespace Sys2Proof

/-- What a source operand field of a VR word may hold (R86, R90). -/
inductive SrcKind where
  | none    -- the word does not read the field: it holds 0
  | any     -- v, q, lq or a broadcast s16 to s31
  | vreg    -- a vector register
  | sreg    -- s16 to s31
  | mask    -- a mask register, m0 included
  | dmask   -- vcmp's destination mask, m1 to m15
  deriving DecidableEq, Repr

/-- What the destination field of a word may hold (R86, R90, R91). -/
inductive DstKind where
  | std      -- v, a stream register, or 127
  | whole    -- v or 127: a whole word
  | single   -- v, s16 to s31 or 127: a single-result word
  | vOrS     -- v or s16 to s31: mpop, mfirst
  | vOnly    -- v
  | vPair    -- v with a successor among v0 to v63
  | mask     -- m1 to m15
  | list     -- l0 to l3
  | none127  -- the field holds 127
  deriving DecidableEq, Repr

/-- Which rounding values a VR word admits (R88). -/
inductive RndKind where
  | zero | full | noSr
  deriving DecidableEq, Repr

/-- How a VR word uses its fields. -/
structure VRUse where
  dst : DstKind
  a   : SrcKind := .none
  b   : SrcKind := .none
  c   : SrcKind := .none
  rnd : RndKind := .zero
  sat : Bool := false
  xm  : Bool := false
  deriving DecidableEq, Repr

/-- The mask field selects a mask, or a list l0 to l3 (R62, R84). -/
def maskFieldOk (m : BitVec 5) : Bool := m.toNat < 16 || m.toNat < 20

/-- A 7-bit source operand field that R86 allows. -/
def srcFieldOk (k : SrcKind) (x : BitVec 7) : Bool :=
  match k with
  | .none => x.toNat == 0
  | .any => x.toNat < 76 || (80 ≤ x.toNat && x.toNat < 96)
  | .vreg => x.toNat < 64
  | .sreg => 80 ≤ x.toNat && x.toNat < 96
  | .mask => x.toNat < 16
  | .dmask => 1 ≤ x.toNat && x.toNat < 16

/-- A wait bit may be set only on a read field that names a vector register (R65). -/
def waitOk (k : SrcKind) (x : BitVec 7) (w : Bool) : Bool :=
  !w || ((k == .any || k == .vreg) && x.toNat < 64)

/-- A 7-bit destination field that R86, R90 and R91 allow. -/
def dstFieldOk (k : DstKind) (x : BitVec 7) : Bool :=
  match k with
  | .std => x.toNat < 72 || x.toNat == 127
  | .whole => x.toNat < 64 || x.toNat == 127
  | .single => x.toNat < 64 || (80 ≤ x.toNat && x.toNat < 96) || x.toNat == 127
  | .vOrS => x.toNat < 64 || (80 ≤ x.toNat && x.toNat < 96)
  | .vOnly => x.toNat < 64
  | .vPair => x.toNat < 63
  | .mask => 1 ≤ x.toNat && x.toNat < 16
  | .list => x.toNat < 4
  | .none127 => x.toNat == 127

/-- The rounding field (R37, R88). -/
def rndOk (k : RndKind) (r : BitVec 3) : Bool :=
  match k with
  | .zero => r.toNat == 0
  | .full => r.toNat != 6
  | .noSr => r.toNat < 5 || r.toNat == 7

/-- Every field of a VR word against its use (R86, R88, R90, R65, R120). -/
def VR.ok (f : VR) (u : VRUse) : Bool :=
  dstFieldOk u.dst f.vd && srcFieldOk u.a f.va && srcFieldOk u.b f.vb && srcFieldOk u.c f.vc &&
  waitOk u.a f.va f.wa && waitOk u.b f.vb f.wb && waitOk u.c f.vc f.wc &&
  maskFieldOk f.mask && rndOk u.rnd f.rnd &&
  (if u.sat then f.sat.toNat < 3 else f.sat.toNat == 0) &&
  (if f.xm then u.xm && f.xd.toNat != 0 else f.xd.toNat == 0)

/-- How each VR word uses its fields (R88, R90, R91, R123 to R142, R252, R253). -/
def vrUse : Instr → Option (VRUse × VR)
  | .vaddFp _ f | .vsubFp _ f | .vmulFp _ f | .vdiv _ f =>
    some (⟨.std, .any, .any, .none, .full, true, true⟩, f)
  | .vfma _ f | .vfms _ f | .vfnma _ f => some (⟨.std, .any, .any, .any, .full, true, true⟩, f)
  | .vsqrt _ f => some (⟨.std, .any, .none, .none, .full, true, true⟩, f)
  | .vminFp _ f | .vmaxFp _ f | .vcopysign _ f => some (⟨.std, .any, .any, .none, .full, false, true⟩, f)
  | .vabs _ f | .vneg _ f => some (⟨.std, .any, .none, .none, .full, false, true⟩, f)
  | .vexp2 f | .vlog2 f | .vrcp f | .vrsqrt f | .vtanh f | .vcvtBf16F32 f | .vcvtI32F32 f | .vcvtN32F32 f | .vround f =>
    some (⟨.std, .any, .none, .none, .full, true, true⟩, f)
  | .vcvtF32I32 f | .vcvtF32N32 f => some (⟨.std, .any, .none, .none, .full, false, true⟩, f)
  | .vclass f => some (⟨.std, .any, .none, .none, .zero, false, true⟩, f)
  | .vaddI32 f | .vsubI32 f | .vmulI32 f | .vshl f => some (⟨.std, .any, .any, .none, .zero, true, false⟩, f)
  | .vmulh f | .vmulhn f | .vand f | .vor f | .vxor f | .vshr f | .vsra f | .vminI32 f | .vmaxI32 f | .vminn f | .vmaxn f =>
    some (⟨.std, .any, .any, .none, .zero, false, false⟩, f)
  | .vcmp _ _ f => some (⟨.none127, .any, .any, .dmask, .zero, false, true⟩, f)
  | .mand f | .mor f | .mxor f | .mandn f => some (⟨.mask, .mask, .mask, .none, .zero, false, false⟩, f)
  | .mnot f => some (⟨.mask, .mask, .none, .none, .zero, false, false⟩, f)
  | .mset f | .mclr f => some (⟨.mask, .none, .none, .none, .zero, false, false⟩, f)
  | .mpop f | .mfirst f => some (⟨.vOrS, .mask, .none, .none, .zero, false, false⟩, f)
  | .mlist f => some (⟨.list, .mask, .none, .none, .zero, false, false⟩, f)
  | .mfromv f => some (⟨.mask, .vreg, .none, .none, .zero, false, false⟩, f)
  | .mtov f => some (⟨.vOnly, .mask, .none, .none, .zero, false, false⟩, f)
  | .vcompress f | .vexpand f => some (⟨.whole, .any, .none, .none, .zero, false, false⟩, f)
  | .vperm f => some (⟨.whole, .any, .any, .none, .zero, false, false⟩, f)
  | .vslideup f | .vslidedn f | .vbcast f => some (⟨.whole, .any, .sreg, .none, .zero, false, false⟩, f)
  | .vid f => some (⟨.std, .none, .none, .none, .zero, false, false⟩, f)
  | .vmv f => some (⟨.std, .any, .none, .none, .zero, false, false⟩, f)
  | .vsel f => some (⟨.std, .any, .any, .mask, .zero, false, false⟩, f)
  | .vredsumF32 f | .vredsumBf16 f => some (⟨.single, .any, .none, .none, .noSr, true, true⟩, f)
  | .vredsumb f => some (⟨.single, .any, .vreg, .none, .noSr, true, true⟩, f)
  | .vredmax f | .vredmin f => some (⟨.single, .any, .none, .none, .zero, false, true⟩, f)
  | .vredsumI32 f => some (⟨.single, .any, .none, .none, .zero, false, false⟩, f)
  | .vscanF32 f => some (⟨.whole, .any, .none, .none, .noSr, true, true⟩, f)
  | .vredmaxi f => some (⟨.whole, .any, .none, .none, .zero, false, true⟩, f)
  | .vmergek f | .vtopk f => some (⟨.vPair, .any, .any, .sreg, .zero, false, false⟩, f)
  | .xcount f => some (⟨.whole, .vreg, .sreg, .none, .zero, false, false⟩, f)
  | .xcsel f => some (⟨.vOnly, .vreg, .sreg, .none, .zero, false, false⟩, f)
  | _ => none

/-- A memory format code that R25 does not reserve. -/
def fmtCodeOk (c : BitVec 6) : Bool := c.toNat < 12 || (32 ≤ c.toNat && c.toNat % 8 != 0)

/-- A format that may carry block scales: e2m1 and the binary8 family (R33). -/
def fmtScalable (c : BitVec 6) : Bool := c.toNat == 3 || 32 ≤ c.toNat

/-- The scale mode field of a load or, with store, of a store, beside its format (R33). -/
def scaleOk (store : Bool) (sc : BitVec 3) (fmt : BitVec 6) : Bool :=
  sc.toNat == 0 || ((sc.toNat == 2 || sc.toNat == 3 || (!store && (sc.toNat == 4 || sc.toNat == 5))) && fmtScalable fmt)

/-- Under a scale mode the base is s1 to s14, and a kept-apart scale register follows a vector register (R152). -/
def scaleBaseOk (f : VM) : Bool :=
  f.scale.toNat == 0 ||
    (1 ≤ f.base.toNat && f.base.toNat ≤ 14 && (f.scale.toNat % 2 == 0 || f.vd.toNat < 63))

/-- What the 55:49 field of a VM word names (R92). -/
inductive VMField where
  | loadDst | source | vreg | none127
  deriving DecidableEq, Repr

/-- What the 43:37 field of a VM word names (R92). -/
inductive VMIndex where
  | zero | stride | index | indexOrNone | acc
  deriving DecidableEq, Repr

def VM.vdOk (f : VM) : VMField → Bool
  | .loadDst => f.vd.toNat < 64 || (72 ≤ f.vd.toNat && f.vd.toNat < 76)
  | .source => srcFieldOk .any f.vd
  | .vreg => f.vd.toNat < 64
  | .none127 => f.vd.toNat == 127

def VM.idxOk (f : VM) : VMIndex → Bool
  | .zero => f.idx.toNat == 0
  | .stride => f.idx.toNat < 32
  | .index => f.idx.toNat < 64
  | .indexOrNone => f.idx.toNat < 64 || f.idx.toNat == 127
  | .acc => f.idx.toNat < 4

/-- The common checks of a VM word (R92): its two register fields, its mask and its format. -/
def VM.common (f : VM) (d : VMField) (x : VMIndex) : Bool :=
  f.vdOk d && f.idxOk x && maskFieldOk f.mask && fmtCodeOk f.fmt

/-- vamo: the format is i32 or n32, a swap's register is a vector register, the low bits beside the order are zero (R93). -/
def VM.amoOk (f : VM) (swap : Bool) : Bool :=
  f.common (if swap then .vreg else .source) .index && (f.fmt.toNat == 7 || f.fmt.toNat == 11) &&
  f.scale.toNat == 0 && f.off.toNat == 0

/-- mdrain and mfill: format f32 or bf16; class, scope, scale and offset zero (R183). -/
def VM.rowOk (f : VM) : Bool :=
  f.common .vreg .acc && f.fmt.toNat < 2 && f.cls.toNat == 0 && f.scope.toNat == 0 && f.scale.toNat == 0 && f.off.toNat == 0

/-- A VQ word's common checks (R194): destination, coefficient, mask. -/
def VQ.common (f : VQ) (pair sco : Bool) : Bool :=
  (if pair then f.vd.toNat < 63 else f.vd.toNat < 64) &&
  srcFieldOk (if sco then .sreg else .vreg) f.co && waitOk (if sco then .sreg else .vreg) f.co f.wait && maskFieldOk f.mask

/-- qfsum: a condition, and its key in a scalar register (R194). -/
def VQ.fsumOk (f : VQ) : Bool := f.common false true && f.mode.toNat < 6 && f.k.toNat == 0

/-- qmaxi: no mode and no k (R194). -/
def VQ.maxiOk (f : VQ) : Bool := f.common false false && f.mode.toNat == 0 && f.k.toNat == 0

/-- qtopk: two vector registers and a k (R194). -/
def VQ.topkOk (f : VQ) : Bool := f.common true false && f.mode.toNat == 0 && f.k.toNat != 0

/-- qhist: a number of bins (R194). -/
def VQ.histOk (f : VQ) : Bool := f.common false false && f.mode.toNat == 0 && f.k.toNat != 0

/-- The well-formedness of a term: true exactly when R76 to R94 and R194 make its fields an instruction. The
events of the part carry no word and have no encoding check. -/
def Instr.wf (i : Instr) : Bool :=
  match i with
  | .bar j _ | .bara j _ | .barw j => j.toNat < 96
  | .xwake _ m => m.toNat != 0
  | .vaddi f | .vandi f | .vori f | .vxori f =>
    dstFieldOk .std f.vd && srcFieldOk .any f.va && waitOk .any f.va f.wa && maskFieldOk f.mask
  | .vshli f | .vshri f | .vsrai f =>
    dstFieldOk .std f.vd && srcFieldOk .any f.va && waitOk .any f.va f.wa && maskFieldOk f.mask && f.imm.toNat < 32
  | .vcmp ty cond f =>
    (cond.toNat < 6 || ty.toNat < 2) && (match vrUse i with | some (u, _) => f.ok u | none => false)
  | .vld f | .vldff f => f.common .loadDst .zero && f.scope.toNat == 0 && scaleOk false f.scale f.fmt && scaleBaseOk f
  | .vst f => f.common .source .zero && f.scope.toNat == 0 && scaleOk true f.scale f.fmt && scaleBaseOk f
  | .vlds f => f.common .loadDst .stride && f.scope.toNat == 0 && scaleOk false f.scale f.fmt && scaleBaseOk f
  | .vsts f => f.common .source .stride && f.scope.toNat == 0 && scaleOk true f.scale f.fmt && scaleBaseOk f
  | .vldx f => f.common .loadDst .index && f.scope.toNat == 0 && scaleOk false f.scale f.fmt && scaleBaseOk f
  | .vstx f => f.common .source .index && f.scope.toNat == 0 && scaleOk true f.scale f.fmt && scaleBaseOk f
  | .vldseg f => f.common .vreg .indexOrNone && f.scope.toNat != 0 && f.scale.toNat == 0
  | .vappend f =>
    f.common .none127 .zero && f.scope.toNat == 0 && f.scale.toNat == 0 && f.fmt.toNat == 11 &&
    1 ≤ f.base.toNat && f.base.toNat ≤ 30
  | .mdrain f | .mfill f => f.rowOk
  | .vamoAdd _ f | .vamoAnd _ f | .vamoOr _ f | .vamoXor _ f | .vamoMin _ f | .vamoMax _ f | .vamoMinn _ f | .vamoMaxn _ f =>
    f.amoOk false
  | .vamoSwap _ f => f.amoOk true
  | .cadd f =>
    f.common .source .indexOrNone && f.scale.toNat == 0 && 3 ≤ f.scope.toNat &&
    (f.fmt.toNat < 2 || f.fmt.toNat == 7 || f.fmt.toNat == 11)
  | .vpref f => f.common .none127 .zero && f.scope.toNat == 0 && f.scale.toNat == 0
  | .qdot f => f.common false false && f.mode.toNat < 2 && f.k.toNat == 0
  | .qwsum f => f.common false false && f.mode.toNat == 0 && f.k.toNat == 0
  | .qmaxi f => f.maxiOk
  | .qfsum f => f.fsumOk
  | .qtopk f => f.topkOk
  | .qhist f => f.histOk
  | _ => match vrUse i with
    | some (u, f) => f.ok u
    | none => true

end Sys2Proof
end

