-- ==== Sys2Proof/Decode.lean ====
section
/-! DEFINITION. From words to instructions and back (R76 to R94). The decoder is total: every word is an
instruction or is rejected by name, and each rejection is cause 0x01 (R94). The encoder stands below it, written
from the same tables. -/
namespace Sys2Proof

/-- Why a word is no instruction (R78, R94). -/
inductive DecodeError where
  | majorZero       -- major 0x00
  | reservedMajor   -- a major that R79 or R89 reserves
  | unlistedFn      -- an fn, op or cond value that is not listed
  | unusedField     -- a nonzero unused field
  | fieldValue      -- a field value outside its range
  | shortBytes      -- fewer bytes than the word has
  deriving DecidableEq, Repr

/-- Bits lo + n - 1 to lo of a word. -/
abbrev bits {m : Nat} (w : BitVec m) (lo n : Nat) : BitVec n := w.extractLsb' lo n

/-- One bit of a word. -/
def bitAt {m : Nat} (w : BitVec m) (i : Nat) : Bool := w.getLsbD i

/-- The word that bytes stored little-endian hold (R4): the first byte is bits 7:0. -/
def leNat : List Byte → Nat
  | [] => 0
  | b :: bs => b.toNat + 256 * leNat bs

/-- A number as n bytes stored little-endian (R4). -/
def leBytes : Nat → Nat → List Byte
  | 0, _ => []
  | n + 1, v => BitVec.ofNat 8 v :: leBytes n (v / 256)

/-- A check of a field: the instruction stands when it holds. -/
def need (ok : Bool) (e : DecodeError) (i : Instr) : Except DecodeError Instr := if ok then .ok i else .error e

/-- Major 0x01, integer register words (R104): fn 25 to 33 need b = 0. -/
def decodeAlu (fn : Nat) (d a b : Reg) : Except DecodeError Instr :=
  let z := need (b == 0) .unusedField
  match fn with
  | 0 => .ok (.add d a b)
  | 1 => .ok (.sub d a b)
  | 2 => .ok (.mul d a b)
  | 3 => .ok (.mulh d a b)
  | 4 => .ok (.mulhn d a b)
  | 5 => .ok (.div d a b)
  | 6 => .ok (.divn d a b)
  | 7 => .ok (.rem d a b)
  | 8 => .ok (.remn d a b)
  | 9 => .ok (.and d a b)
  | 10 => .ok (.or d a b)
  | 11 => .ok (.xor d a b)
  | 12 => .ok (.andn d a b)
  | 13 => .ok (.shl d a b)
  | 14 => .ok (.shr d a b)
  | 15 => .ok (.sra d a b)
  | 16 => .ok (.rotr d a b)
  | 17 => .ok (.min d a b)
  | 18 => .ok (.max d a b)
  | 19 => .ok (.minn d a b)
  | 20 => .ok (.maxn d a b)
  | 21 => .ok (.slt d a b)
  | 22 => .ok (.sltn d a b)
  | 23 => .ok (.seq d a b)
  | 24 => .ok (.csel d a b)
  | 25 => z (.clz d a)
  | 26 => z (.ctz d a)
  | 27 => z (.popc d a)
  | 28 => z (.sextB d a)
  | 29 => z (.sextH d a)
  | 30 => z (.sextW d a)
  | 31 => z (.zextB d a)
  | 32 => z (.zextH d a)
  | 33 => z (.zextW d a)
  | _ => .error .unlistedFn

/-- Major 0x02, scalar FP32 words (R107, R108): fn 9 and 10 need b = 0. -/
def decodeFp (fn : Nat) (d a b : Reg) : Except DecodeError Instr :=
  match fn with
  | 0 => .ok (.fadd d a b)
  | 1 => .ok (.fsub d a b)
  | 2 => .ok (.fmul d a b)
  | 3 => .ok (.ffma d a b)
  | 4 => .ok (.fmin d a b)
  | 5 => .ok (.fmax d a b)
  | 6 => .ok (.fcmpEq d a b)
  | 7 => .ok (.fcmpLt d a b)
  | 8 => .ok (.fcmpLe d a b)
  | 9 => need (b == 0) .unusedField (.fcvtF32I64 d a)
  | 10 => need (b == 0) .unusedField (.fcvtI64F32 d a)
  | _ => .error .unlistedFn

/-- Major 0x09, immediate shifts (R77): imm 15:14 is the kind, imm 13:6 is zero. -/
def decodeShift (d a : Reg) (imm : BitVec 16) : Except DecodeError Instr :=
  let n : BitVec 6 := bits imm 0 6
  if bits imm 6 8 != 0 then .error .unusedField else
  match (bits imm 14 2).toNat with
  | 0 => .ok (.shli d a n)
  | 1 => .ok (.shri d a n)
  | 2 => .ok (.srai d a n)
  | _ => .ok (.rotri d a n)

/-- Major 0x0C, branches (R79): cond 6 and 7 are no condition. -/
def decodeBranch (cond : Nat) (a b : Reg) (off : BitVec 13) : Except DecodeError Instr :=
  match cond with
  | 0 => .ok (.bEq a b off)
  | 1 => .ok (.bNe a b off)
  | 2 => .ok (.bLt a b off)
  | 3 => .ok (.bGe a b off)
  | 4 => .ok (.bLtn a b off)
  | 5 => .ok (.bGen a b off)
  | _ => .error .fieldValue

/-- Major 0x10, loads (R76, R78): sign 1 with size 3 is outside the ranges. -/
def decodeLoad (size : Nat) (sign : Bool) (d base : Reg) (cls : BitVec 4) (off : BitVec 9) : Except DecodeError Instr :=
  match size, sign with
  | 0, true => .ok (.ldB d base cls off)
  | 1, true => .ok (.ldH d base cls off)
  | 2, true => .ok (.ldW d base cls off)
  | 0, false => .ok (.ldBn d base cls off)
  | 1, false => .ok (.ldHn d base cls off)
  | 2, false => .ok (.ldWn d base cls off)
  | 3, false => .ok (.ldD d base cls off)
  | _, _ => .error .fieldValue

/-- Major 0x11, stores (R76, R78): sign is 0. -/
def decodeStore (size : Nat) (sign : Bool) (src base : Reg) (cls : BitVec 4) (off : BitVec 9) : Except DecodeError Instr :=
  if sign then .error .fieldValue else
  match size with
  | 0 => .ok (.stB src base cls off)
  | 1 => .ok (.stH src base cls off)
  | 2 => .ok (.stW src base cls off)
  | _ => .ok (.stD src base cls off)

/-- Major 0x12, control registers (R79, R113). -/
def decodeCtrl (op : Nat) (d a : Reg) (cr : BitVec 12) : Except DecodeError Instr :=
  match op with
  | 0 => need (a == 0) .unusedField (.crd d cr)
  | 1 => need (d == 0) .unusedField (.cwr cr a)
  | 2 => .ok (.crs d cr a)
  | 3 => .ok (.crc d cr a)
  | _ => .error .fieldValue

/-- Major 0x14, amo (R80): operation fn 10:7, size fn 6, scope fn 5:3, order fn 2:0. -/
def decodeAmo (fn : BitVec 11) (d a b : Reg) : Except DecodeError Instr :=
  let f : AmoForm := ⟨bitAt fn 6, bits fn 3 3, bits fn 0 2⟩
  if bitAt fn 2 then .error .fieldValue else
  match (bits fn 7 4).toNat with
  | 0 => .ok (.amoAdd d a b f)
  | 1 => .ok (.amoAnd d a b f)
  | 2 => .ok (.amoOr d a b f)
  | 3 => .ok (.amoXor d a b f)
  | 4 => .ok (.amoMin d a b f)
  | 5 => .ok (.amoMax d a b f)
  | 6 => .ok (.amoMinn d a b f)
  | 7 => .ok (.amoMaxn d a b f)
  | 8 => .ok (.amoSwap d a b f)
  | 9 => .ok (.amoCas d a b f)
  | _ => .error .fieldValue

/-- Major 0x15, groups, planes and barriers (R81). -/
def decodeGroup (fn : BitVec 11) (d a b : Reg) : Except DecodeError Instr :=
  let j : BitVec 7 := bits fn 4 7
  let dz := d == 0
  let bz := b == 0
  let jz := j == 0
  match (bits fn 0 4).toNat with
  | 0 => need (dz && bz && jz) .unusedField (.join a)
  | 1 => need (dz && bz && jz) .unusedField (.leave a)
  | 2 => need (bz && jz) .unusedField (.grank d a)
  | 3 => need (dz && bz && jz) .unusedField (.step a)
  | 4 => need (dz && jz) .unusedField (.pbind a b)
  | 5 => need (dz && bz && jz) .unusedField (.punbind a)
  | 6 => need (dz && bz) .unusedField (.bar j a)
  | 7 => need (dz && bz) .unusedField (.bara j a)
  | 8 => need (dz && a == 0 && bz) .unusedField (.barw j)
  | 9 => need (dz && bz && jz) .unusedField (.gbar a)
  | _ => .error .unlistedFn

/-- Major 0x17, forks, rendezvous and halt (R79, R82). -/
def decodeFork (fn : Nat) (d a b : Reg) : Except DecodeError Instr :=
  match fn with
  | 0 => need (d == 0) .unusedField (.forkM a b)
  | 1 => need (d == 0) .unusedField (.forkC a b)
  | 2 => if d == 0 && b == 0 then
      match a.toNat with
      | 1 => .ok .rdvM
      | 2 => .ok .rdvC
      | 3 => .ok .rdvMc
      | _ => .error .fieldValue
    else .error .unusedField
  | 3 => .ok (.forkH d a b)
  | 4 => need (d == 0 && a == 0 && b == 0) .unusedField .halt
  | _ => .error .unlistedFn

/-- Major 0x18, streams, copies and tokens (R82). -/
def decodeStream (fn : BitVec 11) (d a b : Reg) : Except DecodeError Instr :=
  let hi : BitVec 8 := bits fn 3 8
  let hz := hi == 0
  let dj : BitVec 3 := bits d 0 3
  let bj : BitVec 3 := bits b 0 3
  let dOk := d.toNat < 8
  let bOk := b.toNat < 8
  match (bits fn 0 3).toNat with
  | 0 => need (hz && dOk) .fieldValue (.sbind dj a b)
  | 1 => need (hz && dOk) .fieldValue (.scpy dj a b)
  | 2 => need (d == 0 && a == 0 && b == 0) .unusedField (.swait hi)
  | 3 => need (hz && dOk && a == 0 && b == 0) .unusedField (.scancel dj)
  | 4 => need (hz && bOk && a == 0) .unusedField (.squery d bj)
  | 5 => need (hz && dOk) .fieldValue (.scpySeg dj a b)
  | _ => .error .unlistedFn

/-- Major 0x19, Cellar words (R79, R192, R204). -/
def decodeCellar (fn : Nat) (d a b : Reg) : Except DecodeError Instr :=
  match fn with
  | 0 => need (d.toNat < 4) .fieldValue (.qdesc (bits d 0 2) a b)
  | 1 => need (d == 0) .unusedField (.creloc a b)
  | _ => .error .unlistedFn

/-- Major 0x1A, expert words (R79): mj is in the b field. -/
def decodeExpert (fn : Nat) (d a b : Reg) : Except DecodeError Instr :=
  match fn with
  | 0 => need (b == 0) .unusedField (.xlook d a)
  | 1 => need (b.toNat < 16) .fieldValue (.xpark d a (bits b 0 4))
  | 2 => need (a == 0 && b.toNat < 16) .fieldValue (.xwake d (bits b 0 4))
  | 3 => need (a == 0 && b == 0) .unusedField (.xlayer d)
  | 4 => need (d == 0) .unusedField (.xrepl a b)
  | 5 => need (d == 0) .unusedField (.xhint a b)
  | _ => .error .unlistedFn

/-- Major 0x1B, matrix words (R79): accj is in the d field. -/
def decodeMatrix (fn : Nat) (d a b : Reg) : Except DecodeError Instr :=
  let j : BitVec 2 := bits d 0 2
  let jOk := d.toNat < 4
  match fn with
  | 0 => need (d == 0) .unusedField (.mldW a b)
  | 1 => need (d == 0) .unusedField (.mldA a b)
  | 2 => need jOk .fieldValue (.mma j a b)
  | 3 => need (jOk && a == 0 && b == 0) .unusedField (.mzero j)
  | 4 => need (jOk && b == 0) .unusedField (.mst j a)
  | 5 => need (d == 0 && b == 0) .unusedField (.mcfg a)
  | 6 => need (d == 0 && a == 0 && b == 0) .unusedField .mwait
  | 7 => need (d == 0) .unusedField (.mscale a b)
  | _ => .error .unlistedFn

/-- Major 0x1C, system words (R79, R296, R315, R330). -/
def decodeSystem (fn : Nat) (d a b : Reg) : Except DecodeError Instr :=
  let dbz := d == 0 && b == 0
  match fn with
  | 0 => need dbz .unusedField (.trap a)
  | 1 => need (dbz && a == 0) .unusedField .eret
  | 2 => need dbz .unusedField (.tlbinv a)
  | 3 => need dbz .unusedField (.ctxsave a)
  | 4 => need dbz .unusedField (.ctxload a)
  | 5 => need dbz .unusedField (.logmark a)
  | 6 => need (dbz && a == 0) .unusedField .brk
  | 7 => need (b == 0) .unusedField (.klaunch d a)
  | 8 => need dbz .unusedField (.kwait a)
  | 9 => need dbz .unusedField (.kkill a)
  | 10 => need (d == 0) .unusedField (.kprio a b)
  | _ => .error .unlistedFn

/-- Major 0x13, vector control (R79, R115). -/
def decodeVctl (fn : Nat) (d a b : Reg) : Except DecodeError Instr :=
  match fn with
  | 0 => .ok (.vsetvl d a b)
  | 1 => need (b == 0) .unusedField (.vcfg d a)
  | 2 => need (d == 0 && a == 0 && b == 0) .unusedField .vsync
  | _ => .error .unlistedFn

/-- A scalar word by its major (R76 to R82), before the checks of WellFormed. -/
def decodeScalarRaw (w : BitVec 32) : Except DecodeError Instr :=
  let d : Reg := bits w 21 5
  let a : Reg := bits w 16 5
  let b : Reg := bits w 11 5
  let fn : BitVec 11 := bits w 0 11
  let imm : BitVec 16 := bits w 0 16
  let off : BitVec 26 := bits w 0 26
  match (bits w 26 6).toNat with
  | 0x00 => .error .majorZero
  | 0x01 => decodeAlu fn.toNat d a b
  | 0x02 => decodeFp fn.toNat d a b
  | 0x03 => .ok (.addi d a imm)
  | 0x04 => .ok (.andi d a imm)
  | 0x05 => .ok (.ori d a imm)
  | 0x06 => .ok (.xori d a imm)
  | 0x07 => .ok (.slti d a imm)
  | 0x08 => .ok (.sltni d a imm)
  | 0x09 => decodeShift d a imm
  | 0x0A => need (a.toNat < 4) .fieldValue (.lih d (bits a 0 2) imm)
  | 0x0B => need (a == 0) .unusedField (.pcadd d imm)
  | 0x0C => decodeBranch (bits w 13 3).toNat d a (bits w 0 13)
  | 0x0D => .ok (.jal off)
  | 0x0E => .ok (.jmp off)
  | 0x0F => .ok (.jalr d a imm)
  | 0x10 => decodeLoad (bits w 14 2).toNat (bitAt w 13) d a (bits w 9 4) (bits w 0 9)
  | 0x11 => decodeStore (bits w 14 2).toNat (bitAt w 13) d a (bits w 9 4) (bits w 0 9)
  | 0x12 => decodeCtrl (bits w 0 4).toNat d a (bits w 4 12)
  | 0x13 => decodeVctl fn.toNat d a b
  | 0x14 => decodeAmo fn d a b
  | 0x15 => decodeGroup fn d a b
  | 0x16 => need (d == 0 && a.toNat < 8) .unusedField (.fenceC (bits a 0 3) imm)
  | 0x17 => decodeFork fn.toNat d a b
  | 0x18 => decodeStream fn d a b
  | 0x19 => decodeCellar fn.toNat d a b
  | 0x1A => decodeExpert fn.toNat d a b
  | 0x1B => decodeMatrix fn.toNat d a b
  | 0x1C => decodeSystem fn.toNat d a b
  | 0x1D => need (fn.toNat < 16) .unusedField (.waitm d a b (bits w 0 4))
  | 0x1E => .ok (.vf off)
  | _ => .error .reservedMajor

/-- The last check of every word: the term is well formed. -/
def checked (r : Except DecodeError Instr) : Except DecodeError Instr :=
  match r with
  | .ok i => if i.wf then .ok i else .error .fieldValue
  | .error e => .error e

/-- A scalar word (R76 to R83, R94). -/
def decodeScalar (w : BitVec 32) : Except DecodeError Instr := checked (decodeScalarRaw w)

/-- The fields of a VR word (R84). -/
def VR.of (w : BitVec 64) : VR :=
  ⟨bits w 49 7, bits w 42 7, bits w 35 7, bits w 28 7, bits w 23 5, bitAt w 22, bits w 18 4, bitAt w 17, bitAt w 16, bitAt w 15,
    bits w 12 3, bits w 10 2⟩

/-- The fields of a VI word (R84). -/
def VI.of (w : BitVec 64) : VI := ⟨bits w 49 7, bits w 42 7, bits w 37 5, bitAt w 36, bits w 0 32⟩

/-- The fields of a VM word (R84). -/
def VM.of (w : BitVec 64) : VM :=
  ⟨bits w 49 7, bits w 44 5, bits w 37 7, bits w 32 5, bits w 26 6, bits w 22 4, bits w 19 3, bits w 11 8, bits w 8 3, bits w 0 8⟩

/-- The fields of a VQ word (R85). -/
def VQ.of (w : BitVec 64) : VQ :=
  ⟨bits w 49 7, bits w 42 7, bits w 40 2, bits w 35 5, bitAt w 34, bits w 30 4, bits w 22 8, bits w 16 6, bits w 0 10⟩

/-- Major 0x02 (R89, R123): fn 9 is the type. -/
def decodeVfp (bf : Bool) (fn : Nat) (f : VR) : Except DecodeError Instr :=
  match fn with
  | 0 => .ok (.vaddFp bf f)
  | 1 => .ok (.vsubFp bf f)
  | 2 => .ok (.vmulFp bf f)
  | 3 => .ok (.vfma bf f)
  | 4 => .ok (.vfms bf f)
  | 5 => .ok (.vfnma bf f)
  | 6 => .ok (.vdiv bf f)
  | 7 => .ok (.vsqrt bf f)
  | 8 => .ok (.vminFp bf f)
  | 9 => .ok (.vmaxFp bf f)
  | 10 => .ok (.vabs bf f)
  | 11 => .ok (.vneg bf f)
  | 12 => .ok (.vcopysign bf f)
  | _ => .error .unlistedFn

/-- Major 0x03 (R125): fn is given without bit 9, which is 1. -/
def decodeVfun (fn : Nat) (f : VR) : Except DecodeError Instr :=
  match fn with
  | 0 => .ok (.vexp2 f)
  | 1 => .ok (.vlog2 f)
  | 2 => .ok (.vrcp f)
  | 3 => .ok (.vrsqrt f)
  | 4 => .ok (.vtanh f)
  | _ => .error .unlistedFn

/-- Major 0x04 (R127). -/
def decodeVcvt (fn : Nat) (f : VR) : Except DecodeError Instr :=
  match fn with
  | 0 => .ok (.vcvtBf16F32 f)
  | 1 => .ok (.vcvtF32I32 f)
  | 2 => .ok (.vcvtI32F32 f)
  | 3 => .ok (.vcvtF32N32 f)
  | 4 => .ok (.vcvtN32F32 f)
  | 5 => .ok (.vround f)
  | 6 => .ok (.vclass f)
  | _ => .error .unlistedFn

/-- Major 0x05 (R129). -/
def decodeVint (fn : Nat) (f : VR) : Except DecodeError Instr :=
  match fn with
  | 0 => .ok (.vaddI32 f)
  | 1 => .ok (.vsubI32 f)
  | 2 => .ok (.vmulI32 f)
  | 3 => .ok (.vmulh f)
  | 4 => .ok (.vmulhn f)
  | 5 => .ok (.vand f)
  | 6 => .ok (.vor f)
  | 7 => .ok (.vxor f)
  | 8 => .ok (.vshl f)
  | 9 => .ok (.vshr f)
  | 10 => .ok (.vsra f)
  | 11 => .ok (.vminI32 f)
  | 12 => .ok (.vmaxI32 f)
  | 13 => .ok (.vminn f)
  | 14 => .ok (.vmaxn f)
  | _ => .error .unlistedFn

/-- Major 0x06 (R130). -/
def decodeVimm (fn : Nat) (f : VI) : Except DecodeError Instr :=
  match fn with
  | 0 => .ok (.vaddi f)
  | 1 => .ok (.vandi f)
  | 2 => .ok (.vori f)
  | 3 => .ok (.vxori f)
  | 4 => .ok (.vshli f)
  | 5 => .ok (.vshri f)
  | 6 => .ok (.vsrai f)
  | _ => .error .unlistedFn

/-- Major 0x08 (R132, R133). -/
def decodeVmask (fn : Nat) (f : VR) : Except DecodeError Instr :=
  match fn with
  | 0 => .ok (.mand f)
  | 1 => .ok (.mor f)
  | 2 => .ok (.mxor f)
  | 3 => .ok (.mandn f)
  | 4 => .ok (.mnot f)
  | 5 => .ok (.mset f)
  | 6 => .ok (.mclr f)
  | 7 => .ok (.mpop f)
  | 8 => .ok (.mfirst f)
  | 9 => .ok (.mlist f)
  | 10 => .ok (.mfromv f)
  | 11 => .ok (.mtov f)
  | _ => .error .unlistedFn

/-- Major 0x09 (R136, R137). -/
def decodeVperm (fn : Nat) (f : VR) : Except DecodeError Instr :=
  match fn with
  | 0 => .ok (.vcompress f)
  | 1 => .ok (.vexpand f)
  | 2 => .ok (.vperm f)
  | 3 => .ok (.vslideup f)
  | 4 => .ok (.vslidedn f)
  | 5 => .ok (.vbcast f)
  | 6 => .ok (.vid f)
  | 7 => .ok (.vmv f)
  | 8 => .ok (.vsel f)
  | _ => .error .unlistedFn

/-- Major 0x0A (R138). -/
def decodeVred (fn : Nat) (f : VR) : Except DecodeError Instr :=
  match fn with
  | 0 => .ok (.vredsumF32 f)
  | 1 => .ok (.vredsumBf16 f)
  | 2 => .ok (.vredmax f)
  | 3 => .ok (.vredmin f)
  | 4 => .ok (.vredsumI32 f)
  | 5 => .ok (.vredsumb f)
  | 6 => .ok (.vscanF32 f)
  | 7 => .ok (.vredmaxi f)
  | _ => .error .unlistedFn

/-- Major 0x1B, vamo (R93): operation bits 7:4, order bits 3:2. The rest of the low bits stay in off and must be zero. -/
def decodeVamo (f : VM) : Except DecodeError Instr :=
  let o : BitVec 2 := bits f.off 2 2
  let g : VM := ⟨f.vd, f.base, f.idx, f.mask, f.fmt, f.cls, f.scope, f.tok, f.scale, (bits f.off 0 2).setWidth 8⟩
  match (bits f.off 4 4).toNat with
  | 0 => .ok (.vamoAdd o g)
  | 1 => .ok (.vamoAnd o g)
  | 2 => .ok (.vamoOr o g)
  | 3 => .ok (.vamoXor o g)
  | 4 => .ok (.vamoMin o g)
  | 5 => .ok (.vamoMax o g)
  | 6 => .ok (.vamoMinn o g)
  | 7 => .ok (.vamoMaxn o g)
  | 8 => .ok (.vamoSwap o g)
  | _ => .error .fieldValue

/-- A decoded vector word. Compiled Lean can build no constructor with fields past the 244th of a type, and Instr has
more; a step runs the last four words (qfsum, qmaxi, qtopk, qhist) from here, without building their terms. -/
inductive VWord where
  | core (i : Instr)
  | qfsum (f : VQ)
  | qmaxi (f : VQ)
  | qtopk (f : VQ)
  | qhist (f : VQ)
  deriving DecidableEq, Repr

/-- The instruction a decoded vector word stands for. -/
noncomputable def VWord.instr : VWord → Instr
  | .core i => i
  | .qfsum f => .qfsum f
  | .qmaxi f => .qmaxi f
  | .qtopk f => .qtopk f
  | .qhist f => .qhist f

/-- Well-formedness of a decoded vector word: that of its instruction. -/
def VWord.wf : VWord → Bool
  | .core i => i.wf
  | .qfsum f => f.fsumOk
  | .qmaxi f => f.maxiOk
  | .qtopk f => f.topkOk
  | .qhist f => f.histOk

/-- A vector word by its major (R84 to R93) but for the last four query words, before the checks of WellFormed. In every
VR major but 0x07 the fn bits above those the row uses are zero (R89), so the whole of fn is compared. -/
def decodeVectorRaw (w : BitVec 64) : Except DecodeError Instr :=
  let r := VR.of w
  let m := VM.of w
  let q := VQ.of w
  let fn := (bits w 0 10).toNat
  match (bits w 56 8).toNat with
  | 0x00 => .error .majorZero
  | 0x01 => need (bits w 0 56 == 0) .unusedField .vstop
  | 0x02 => decodeVfp (bitAt w 9) (fn % 512) r
  | 0x03 => if bitAt w 9 then decodeVfun (fn % 512) r else .error .fieldValue
  | 0x04 => decodeVcvt fn r
  | 0x05 => decodeVint fn r
  | 0x06 => decodeVimm (bits w 32 4).toNat (VI.of w)
  | 0x07 => need (bits w 3 5 == 0) .unlistedFn (.vcmp (bits w 8 2) (bits w 0 3) r)
  | 0x08 => decodeVmask fn r
  | 0x09 => decodeVperm fn r
  | 0x0A => decodeVred fn r
  | 0x0B => match fn with
    | 0 => .ok (.vmergek r)
    | 1 => .ok (.vtopk r)
    | _ => .error .unlistedFn
  | 0x0C => match fn with
    | 0 => .ok (.xcount r)
    | 1 => .ok (.xcsel r)
    | _ => .error .unlistedFn
  | 0x10 => .ok (.vld m)
  | 0x11 => .ok (.vst m)
  | 0x12 => .ok (.vlds m)
  | 0x13 => .ok (.vsts m)
  | 0x14 => .ok (.vldx m)
  | 0x15 => .ok (.vstx m)
  | 0x16 => .ok (.vldff m)
  | 0x17 => .ok (.vldseg m)
  | 0x18 => .ok (.vappend m)
  | 0x19 => .ok (.mdrain m)
  | 0x1A => .ok (.mfill m)
  | 0x1B => decodeVamo m
  | 0x1C => .ok (.cadd m)
  | 0x1D => .ok (.vpref m)
  | 0x20 => need (bits w 10 6 == 0) .unusedField (.qdot q)
  | 0x21 => need (bits w 10 6 == 0) .unusedField (.qwsum q)
  | _ => .error .reservedMajor

/-- A vector word (R84 to R94), as a step runs it. -/
def decodeVWord (w : BitVec 64) : Except DecodeError VWord :=
  let q := VQ.of w
  let r : Except DecodeError VWord :=
    if 0x22 ≤ (bits w 56 8).toNat ∧ (bits w 56 8).toNat ≤ 0x25 then
      if bits w 10 6 != 0 then .error .unusedField else
      match (bits w 56 8).toNat with
      | 0x22 => .ok (.qfsum q)
      | 0x23 => .ok (.qmaxi q)
      | 0x24 => .ok (.qtopk q)
      | _ => .ok (.qhist q)
    else (decodeVectorRaw w).map .core
  match r with
  | .error e => .error e
  | .ok v => if v.wf then .ok v else .error .fieldValue

/-- A vector word (R84 to R94). -/
noncomputable def decodeVector (w : BitVec 64) : Except DecodeError Instr := (decodeVWord w).map VWord.instr

/-- A scalar word from the bytes that hold it, and the bytes after it (R4, R76). -/
def decodeScalarBytes : List Byte → Except DecodeError (Instr × List Byte)
  | b0 :: b1 :: b2 :: b3 :: rest => (decodeScalar (BitVec.ofNat 32 (leNat [b0, b1, b2, b3]))).map (·, rest)
  | _ => .error .shortBytes

/-- A vector word from the bytes that hold it, and the bytes after it (R4, R84). -/
noncomputable def decodeVectorBytes : List Byte → Except DecodeError (Instr × List Byte)
  | b0 :: b1 :: b2 :: b3 :: b4 :: b5 :: b6 :: b7 :: rest =>
    (decodeVector (BitVec.ofNat 64 (leNat [b0, b1, b2, b3, b4, b5, b6, b7]))).map (·, rest)
  | _ => .error .shortBytes

/-- The instruction the decoder reads from an instruction of nbits bits whose value is w: a scalar word up to 32 bits, a
vector word above, laid out as its bytes in memory. -/
noncomputable def decodeTableWord (nbits w : Nat) : Option Instr :=
  if nbits ≤ 32 then
    match decodeScalarBytes (leBytes 4 w) with
    | .ok (i, _) => some i
    | .error _ => none
  else
    match decodeVectorBytes (leBytes 8 w) with
    | .ok (i, _) => some i
    | .error _ => none

/-! ### The encoder -/

/-- Format S3 (R76). -/
def encS3 (major : BitVec 6) (d a b : Reg) (fn : BitVec 11) : BitVec 32 := major ++ d ++ a ++ b ++ fn

/-- Format S2I (R76). -/
def encS2I (major : BitVec 6) (d a : Reg) (imm : BitVec 16) : BitVec 32 := major ++ d ++ a ++ imm

/-- Format SB (R76). -/
def encSB (a b : Reg) (cond : BitVec 3) (off : BitVec 13) : BitVec 32 := (0x0C#6 : BitVec 6) ++ a ++ b ++ cond ++ off

/-- Format SJ (R76). -/
def encSJ (major : BitVec 6) (off : BitVec 26) : BitVec 32 := major ++ off

/-- Format SL (R76). -/
def encSL (major : BitVec 6) (d base : Reg) (size : BitVec 2) (sign : Bool) (cls : BitVec 4) (off : BitVec 9) : BitVec 32 :=
  major ++ d ++ base ++ size ++ BitVec.ofBool sign ++ cls ++ off

/-- Format SC (R76). -/
def encSC (d a : Reg) (cr : BitVec 12) (op : BitVec 4) : BitVec 32 := (0x12#6 : BitVec 6) ++ d ++ a ++ cr ++ op

/-- amo's fn (R80). -/
def encAmo (op : BitVec 4) (f : AmoForm) (d a b : Reg) : BitVec 32 :=
  encS3 0x14#6 d a b (op ++ BitVec.ofBool f.double ++ f.scope ++ (0#1 : BitVec 1) ++ f.order)

/-- A 3-bit, 4-bit or 2-bit number in a 5-bit field, zero above it. -/
def reg {n : Nat} (x : BitVec n) : Reg := x.setWidth 5

/-- Format VR (R84). -/
def encVR (major : BitVec 8) (fn : BitVec 10) (f : VR) : BitVec 64 :=
  major ++ f.vd ++ f.va ++ f.vb ++ f.vc ++ f.mask ++ BitVec.ofBool f.xm ++ f.xd ++ BitVec.ofBool f.wa ++ BitVec.ofBool f.wb ++
    BitVec.ofBool f.wc ++ f.rnd ++ f.sat ++ fn

/-- Format VI (R84). -/
def encVI (fn : BitVec 4) (f : VI) : BitVec 64 :=
  (0x06#8 : BitVec 8) ++ f.vd ++ f.va ++ f.mask ++ BitVec.ofBool f.wa ++ fn ++ f.imm

/-- Format VM (R84) with its low byte given. -/
def encVM (major : BitVec 8) (f : VM) (low : BitVec 8) : BitVec 64 :=
  major ++ f.vd ++ f.base ++ f.idx ++ f.mask ++ f.fmt ++ f.cls ++ f.scope ++ f.tok ++ f.scale ++ low

/-- vamo's low byte (R93). -/
def encVamo (op : BitVec 4) (o : BitVec 2) (f : VM) : BitVec 64 := encVM 0x1B#8 f (op ++ o ++ (0#2 : BitVec 2))

/-- Format VQ (R85). -/
def encVQ (major : BitVec 8) (f : VQ) : BitVec 64 :=
  major ++ f.vd ++ f.co ++ f.desc ++ f.mask ++ BitVec.ofBool f.wait ++ f.cls ++ f.tok ++ f.mode ++ (0#6 : BitVec 6) ++ f.k

/-- The encoding of a scalar word (R76 to R82); none for a vector word or an event. -/
def encodeScalar : Instr → Option (BitVec 32)
  | .add d a b => some (encS3 0x01#6 d a b 0#11)
  | .sub d a b => some (encS3 0x01#6 d a b 1#11)
  | .mul d a b => some (encS3 0x01#6 d a b 2#11)
  | .mulh d a b => some (encS3 0x01#6 d a b 3#11)
  | .mulhn d a b => some (encS3 0x01#6 d a b 4#11)
  | .div d a b => some (encS3 0x01#6 d a b 5#11)
  | .divn d a b => some (encS3 0x01#6 d a b 6#11)
  | .rem d a b => some (encS3 0x01#6 d a b 7#11)
  | .remn d a b => some (encS3 0x01#6 d a b 8#11)
  | .and d a b => some (encS3 0x01#6 d a b 9#11)
  | .or d a b => some (encS3 0x01#6 d a b 10#11)
  | .xor d a b => some (encS3 0x01#6 d a b 11#11)
  | .andn d a b => some (encS3 0x01#6 d a b 12#11)
  | .shl d a b => some (encS3 0x01#6 d a b 13#11)
  | .shr d a b => some (encS3 0x01#6 d a b 14#11)
  | .sra d a b => some (encS3 0x01#6 d a b 15#11)
  | .rotr d a b => some (encS3 0x01#6 d a b 16#11)
  | .min d a b => some (encS3 0x01#6 d a b 17#11)
  | .max d a b => some (encS3 0x01#6 d a b 18#11)
  | .minn d a b => some (encS3 0x01#6 d a b 19#11)
  | .maxn d a b => some (encS3 0x01#6 d a b 20#11)
  | .slt d a b => some (encS3 0x01#6 d a b 21#11)
  | .sltn d a b => some (encS3 0x01#6 d a b 22#11)
  | .seq d a b => some (encS3 0x01#6 d a b 23#11)
  | .csel d a b => some (encS3 0x01#6 d a b 24#11)
  | .clz d a => some (encS3 0x01#6 d a 0#5 25#11)
  | .ctz d a => some (encS3 0x01#6 d a 0#5 26#11)
  | .popc d a => some (encS3 0x01#6 d a 0#5 27#11)
  | .sextB d a => some (encS3 0x01#6 d a 0#5 28#11)
  | .sextH d a => some (encS3 0x01#6 d a 0#5 29#11)
  | .sextW d a => some (encS3 0x01#6 d a 0#5 30#11)
  | .zextB d a => some (encS3 0x01#6 d a 0#5 31#11)
  | .zextH d a => some (encS3 0x01#6 d a 0#5 32#11)
  | .zextW d a => some (encS3 0x01#6 d a 0#5 33#11)
  | .fadd d a b => some (encS3 0x02#6 d a b 0#11)
  | .fsub d a b => some (encS3 0x02#6 d a b 1#11)
  | .fmul d a b => some (encS3 0x02#6 d a b 2#11)
  | .ffma d a b => some (encS3 0x02#6 d a b 3#11)
  | .fmin d a b => some (encS3 0x02#6 d a b 4#11)
  | .fmax d a b => some (encS3 0x02#6 d a b 5#11)
  | .fcmpEq d a b => some (encS3 0x02#6 d a b 6#11)
  | .fcmpLt d a b => some (encS3 0x02#6 d a b 7#11)
  | .fcmpLe d a b => some (encS3 0x02#6 d a b 8#11)
  | .fcvtF32I64 d a => some (encS3 0x02#6 d a 0#5 9#11)
  | .fcvtI64F32 d a => some (encS3 0x02#6 d a 0#5 10#11)
  | .addi d a imm => some (encS2I 3#6 d a imm)
  | .andi d a imm => some (encS2I 4#6 d a imm)
  | .ori d a imm => some (encS2I 5#6 d a imm)
  | .xori d a imm => some (encS2I 6#6 d a imm)
  | .slti d a imm => some (encS2I 7#6 d a imm)
  | .sltni d a imm => some (encS2I 8#6 d a imm)
  | .shli d a n => some (encS2I 0x09#6 d a ((0#2 : BitVec 2) ++ (0#8 : BitVec 8) ++ n))
  | .shri d a n => some (encS2I 0x09#6 d a ((1#2 : BitVec 2) ++ (0#8 : BitVec 8) ++ n))
  | .srai d a n => some (encS2I 0x09#6 d a ((2#2 : BitVec 2) ++ (0#8 : BitVec 8) ++ n))
  | .rotri d a n => some (encS2I 0x09#6 d a ((3#2 : BitVec 2) ++ (0#8 : BitVec 8) ++ n))
  | .lih d k h => some (encS2I 0x0A#6 d (reg k) h)
  | .pcadd d imm => some (encS2I 0x0B#6 d 0#5 imm)
  | .bEq a b off => some (encSB a b 0#3 off)
  | .bNe a b off => some (encSB a b 1#3 off)
  | .bLt a b off => some (encSB a b 2#3 off)
  | .bGe a b off => some (encSB a b 3#3 off)
  | .bLtn a b off => some (encSB a b 4#3 off)
  | .bGen a b off => some (encSB a b 5#3 off)
  | .jal off => some (encSJ 0x0D#6 off)
  | .jmp off => some (encSJ 0x0E#6 off)
  | .jalr d a imm => some (encS2I 0x0F#6 d a imm)
  | .ldB d base cls off => some (encSL 0x10#6 d base 0#2 true cls off)
  | .ldH d base cls off => some (encSL 0x10#6 d base 1#2 true cls off)
  | .ldW d base cls off => some (encSL 0x10#6 d base 2#2 true cls off)
  | .ldBn d base cls off => some (encSL 0x10#6 d base 0#2 false cls off)
  | .ldHn d base cls off => some (encSL 0x10#6 d base 1#2 false cls off)
  | .ldWn d base cls off => some (encSL 0x10#6 d base 2#2 false cls off)
  | .ldD d base cls off => some (encSL 0x10#6 d base 3#2 false cls off)
  | .stB src base cls off => some (encSL 0x11#6 src base 0#2 false cls off)
  | .stH src base cls off => some (encSL 0x11#6 src base 1#2 false cls off)
  | .stW src base cls off => some (encSL 0x11#6 src base 2#2 false cls off)
  | .stD src base cls off => some (encSL 0x11#6 src base 3#2 false cls off)
  | .crd d cr => some (encSC d 0#5 cr 0#4)
  | .cwr cr a => some (encSC 0#5 a cr 1#4)
  | .crs d cr a => some (encSC d a cr 2#4)
  | .crc d cr a => some (encSC d a cr 3#4)
  | .vsetvl d a b => some (encS3 0x13#6 d a b 0#11)
  | .vcfg d a => some (encS3 0x13#6 d a 0#5 1#11)
  | .vsync => some (encS3 0x13#6 0#5 0#5 0#5 2#11)
  | .amoAdd d a b f => some (encAmo 0#4 f d a b)
  | .amoAnd d a b f => some (encAmo 1#4 f d a b)
  | .amoOr d a b f => some (encAmo 2#4 f d a b)
  | .amoXor d a b f => some (encAmo 3#4 f d a b)
  | .amoMin d a b f => some (encAmo 4#4 f d a b)
  | .amoMax d a b f => some (encAmo 5#4 f d a b)
  | .amoMinn d a b f => some (encAmo 6#4 f d a b)
  | .amoMaxn d a b f => some (encAmo 7#4 f d a b)
  | .amoSwap d a b f => some (encAmo 8#4 f d a b)
  | .amoCas d a b f => some (encAmo 9#4 f d a b)
  | .join a => some (encS3 0x15#6 0#5 a 0#5 0#11)
  | .leave a => some (encS3 0x15#6 0#5 a 0#5 1#11)
  | .grank d a => some (encS3 0x15#6 d a 0#5 2#11)
  | .step a => some (encS3 0x15#6 0#5 a 0#5 3#11)
  | .pbind a b => some (encS3 0x15#6 0#5 a b 4#11)
  | .punbind a => some (encS3 0x15#6 0#5 a 0#5 5#11)
  | .bar j a => some (encS3 0x15#6 0#5 a 0#5 (j ++ (6#4 : BitVec 4)))
  | .bara j a => some (encS3 0x15#6 0#5 a 0#5 (j ++ (7#4 : BitVec 4)))
  | .barw j => some (encS3 0x15#6 0#5 0#5 0#5 (j ++ (8#4 : BitVec 4)))
  | .gbar a => some (encS3 0x15#6 0#5 a 0#5 9#11)
  | .fenceC s m => some (encS2I 0x16#6 0#5 (reg s) m)
  | .forkM a b => some (encS3 0x17#6 0#5 a b 0#11)
  | .forkC a b => some (encS3 0x17#6 0#5 a b 1#11)
  | .rdvM => some (encS3 0x17#6 0#5 1#5 0#5 2#11)
  | .rdvC => some (encS3 0x17#6 0#5 2#5 0#5 2#11)
  | .rdvMc => some (encS3 0x17#6 0#5 3#5 0#5 2#11)
  | .forkH d a b => some (encS3 0x17#6 d a b 3#11)
  | .halt => some (encS3 0x17#6 0#5 0#5 0#5 4#11)
  | .sbind j a b => some (encS3 0x18#6 (reg j) a b 0#11)
  | .scpy j a b => some (encS3 0x18#6 (reg j) a b 1#11)
  | .swait t => some (encS3 0x18#6 0#5 0#5 0#5 (t ++ (2#3 : BitVec 3)))
  | .scancel j => some (encS3 0x18#6 (reg j) 0#5 0#5 3#11)
  | .squery d j => some (encS3 0x18#6 d 0#5 (reg j) 4#11)
  | .scpySeg j a b => some (encS3 0x18#6 (reg j) a b 5#11)
  | .qdesc j a b => some (encS3 0x19#6 (reg j) a b 0#11)
  | .creloc a b => some (encS3 0x19#6 0#5 a b 1#11)
  | .xlook d a => some (encS3 0x1A#6 d a 0#5 0#11)
  | .xpark d a m => some (encS3 0x1A#6 d a (reg m) 1#11)
  | .xwake d m => some (encS3 0x1A#6 d 0#5 (reg m) 2#11)
  | .xlayer d => some (encS3 0x1A#6 d 0#5 0#5 3#11)
  | .xrepl a b => some (encS3 0x1A#6 0#5 a b 4#11)
  | .xhint a b => some (encS3 0x1A#6 0#5 a b 5#11)
  | .mldW a b => some (encS3 0x1B#6 0#5 a b 0#11)
  | .mldA a b => some (encS3 0x1B#6 0#5 a b 1#11)
  | .mma j a b => some (encS3 0x1B#6 (reg j) a b 2#11)
  | .mzero j => some (encS3 0x1B#6 (reg j) 0#5 0#5 3#11)
  | .mst j a => some (encS3 0x1B#6 (reg j) a 0#5 4#11)
  | .mcfg a => some (encS3 0x1B#6 0#5 a 0#5 5#11)
  | .mwait => some (encS3 0x1B#6 0#5 0#5 0#5 6#11)
  | .mscale a b => some (encS3 0x1B#6 0#5 a b 7#11)
  | .trap a => some (encS3 0x1C#6 0#5 a 0#5 0#11)
  | .eret => some (encS3 0x1C#6 0#5 0#5 0#5 1#11)
  | .tlbinv a => some (encS3 0x1C#6 0#5 a 0#5 2#11)
  | .ctxsave a => some (encS3 0x1C#6 0#5 a 0#5 3#11)
  | .ctxload a => some (encS3 0x1C#6 0#5 a 0#5 4#11)
  | .logmark a => some (encS3 0x1C#6 0#5 a 0#5 5#11)
  | .brk => some (encS3 0x1C#6 0#5 0#5 0#5 6#11)
  | .klaunch d a => some (encS3 0x1C#6 d a 0#5 7#11)
  | .kwait a => some (encS3 0x1C#6 0#5 a 0#5 8#11)
  | .kkill a => some (encS3 0x1C#6 0#5 a 0#5 9#11)
  | .kprio a b => some (encS3 0x1C#6 0#5 a b 10#11)
  | .waitm d a b c => some (encS3 0x1D#6 d a b ((0#7 : BitVec 7) ++ c))
  | .vf off => some (encSJ 0x1E#6 off)
  | _ => none

/-- The encoding of a vector word (R84 to R93); none for a scalar word or an event. -/
def encodeVector : Instr → Option (BitVec 64)
  | .vstop => some 0x0100000000000000#64
  | .vaddFp bf f => some (encVR 0x02#8 (BitVec.ofBool bf ++ (0#9 : BitVec 9)) f)
  | .vsubFp bf f => some (encVR 0x02#8 (BitVec.ofBool bf ++ (1#9 : BitVec 9)) f)
  | .vmulFp bf f => some (encVR 0x02#8 (BitVec.ofBool bf ++ (2#9 : BitVec 9)) f)
  | .vfma bf f => some (encVR 0x02#8 (BitVec.ofBool bf ++ (3#9 : BitVec 9)) f)
  | .vfms bf f => some (encVR 0x02#8 (BitVec.ofBool bf ++ (4#9 : BitVec 9)) f)
  | .vfnma bf f => some (encVR 0x02#8 (BitVec.ofBool bf ++ (5#9 : BitVec 9)) f)
  | .vdiv bf f => some (encVR 0x02#8 (BitVec.ofBool bf ++ (6#9 : BitVec 9)) f)
  | .vsqrt bf f => some (encVR 0x02#8 (BitVec.ofBool bf ++ (7#9 : BitVec 9)) f)
  | .vminFp bf f => some (encVR 0x02#8 (BitVec.ofBool bf ++ (8#9 : BitVec 9)) f)
  | .vmaxFp bf f => some (encVR 0x02#8 (BitVec.ofBool bf ++ (9#9 : BitVec 9)) f)
  | .vabs bf f => some (encVR 0x02#8 (BitVec.ofBool bf ++ (10#9 : BitVec 9)) f)
  | .vneg bf f => some (encVR 0x02#8 (BitVec.ofBool bf ++ (11#9 : BitVec 9)) f)
  | .vcopysign bf f => some (encVR 0x02#8 (BitVec.ofBool bf ++ (12#9 : BitVec 9)) f)
  | .vexp2 f => some (encVR 0x03#8 512#10 f)
  | .vlog2 f => some (encVR 0x03#8 513#10 f)
  | .vrcp f => some (encVR 0x03#8 514#10 f)
  | .vrsqrt f => some (encVR 0x03#8 515#10 f)
  | .vtanh f => some (encVR 0x03#8 516#10 f)
  | .vcvtBf16F32 f => some (encVR 0x04#8 0#10 f)
  | .vcvtF32I32 f => some (encVR 0x04#8 1#10 f)
  | .vcvtI32F32 f => some (encVR 0x04#8 2#10 f)
  | .vcvtF32N32 f => some (encVR 0x04#8 3#10 f)
  | .vcvtN32F32 f => some (encVR 0x04#8 4#10 f)
  | .vround f => some (encVR 0x04#8 5#10 f)
  | .vclass f => some (encVR 0x04#8 6#10 f)
  | .vaddI32 f => some (encVR 0x05#8 0#10 f)
  | .vsubI32 f => some (encVR 0x05#8 1#10 f)
  | .vmulI32 f => some (encVR 0x05#8 2#10 f)
  | .vmulh f => some (encVR 0x05#8 3#10 f)
  | .vmulhn f => some (encVR 0x05#8 4#10 f)
  | .vand f => some (encVR 0x05#8 5#10 f)
  | .vor f => some (encVR 0x05#8 6#10 f)
  | .vxor f => some (encVR 0x05#8 7#10 f)
  | .vshl f => some (encVR 0x05#8 8#10 f)
  | .vshr f => some (encVR 0x05#8 9#10 f)
  | .vsra f => some (encVR 0x05#8 10#10 f)
  | .vminI32 f => some (encVR 0x05#8 11#10 f)
  | .vmaxI32 f => some (encVR 0x05#8 12#10 f)
  | .vminn f => some (encVR 0x05#8 13#10 f)
  | .vmaxn f => some (encVR 0x05#8 14#10 f)
  | .vaddi f => some (encVI 0#4 f)
  | .vandi f => some (encVI 1#4 f)
  | .vori f => some (encVI 2#4 f)
  | .vxori f => some (encVI 3#4 f)
  | .vshli f => some (encVI 4#4 f)
  | .vshri f => some (encVI 5#4 f)
  | .vsrai f => some (encVI 6#4 f)
  | .vcmp ty cond f => some (encVR 0x07#8 (ty ++ (0#5 : BitVec 5) ++ cond) f)
  | .mand f => some (encVR 0x08#8 0#10 f)
  | .mor f => some (encVR 0x08#8 1#10 f)
  | .mxor f => some (encVR 0x08#8 2#10 f)
  | .mandn f => some (encVR 0x08#8 3#10 f)
  | .mnot f => some (encVR 0x08#8 4#10 f)
  | .mset f => some (encVR 0x08#8 5#10 f)
  | .mclr f => some (encVR 0x08#8 6#10 f)
  | .mpop f => some (encVR 0x08#8 7#10 f)
  | .mfirst f => some (encVR 0x08#8 8#10 f)
  | .mlist f => some (encVR 0x08#8 9#10 f)
  | .mfromv f => some (encVR 0x08#8 10#10 f)
  | .mtov f => some (encVR 0x08#8 11#10 f)
  | .vcompress f => some (encVR 0x09#8 0#10 f)
  | .vexpand f => some (encVR 0x09#8 1#10 f)
  | .vperm f => some (encVR 0x09#8 2#10 f)
  | .vslideup f => some (encVR 0x09#8 3#10 f)
  | .vslidedn f => some (encVR 0x09#8 4#10 f)
  | .vbcast f => some (encVR 0x09#8 5#10 f)
  | .vid f => some (encVR 0x09#8 6#10 f)
  | .vmv f => some (encVR 0x09#8 7#10 f)
  | .vsel f => some (encVR 0x09#8 8#10 f)
  | .vredsumF32 f => some (encVR 0x0A#8 0#10 f)
  | .vredsumBf16 f => some (encVR 0x0A#8 1#10 f)
  | .vredmax f => some (encVR 0x0A#8 2#10 f)
  | .vredmin f => some (encVR 0x0A#8 3#10 f)
  | .vredsumI32 f => some (encVR 0x0A#8 4#10 f)
  | .vredsumb f => some (encVR 0x0A#8 5#10 f)
  | .vscanF32 f => some (encVR 0x0A#8 6#10 f)
  | .vredmaxi f => some (encVR 0x0A#8 7#10 f)
  | .vmergek f => some (encVR 0x0B#8 0#10 f)
  | .vtopk f => some (encVR 0x0B#8 1#10 f)
  | .xcount f => some (encVR 0x0C#8 0#10 f)
  | .xcsel f => some (encVR 0x0C#8 1#10 f)
  | .vld f => some (encVM 16#8 f f.off)
  | .vst f => some (encVM 17#8 f f.off)
  | .vlds f => some (encVM 18#8 f f.off)
  | .vsts f => some (encVM 19#8 f f.off)
  | .vldx f => some (encVM 20#8 f f.off)
  | .vstx f => some (encVM 21#8 f f.off)
  | .vldff f => some (encVM 22#8 f f.off)
  | .vldseg f => some (encVM 23#8 f f.off)
  | .vappend f => some (encVM 24#8 f f.off)
  | .mdrain f => some (encVM 25#8 f f.off)
  | .mfill f => some (encVM 26#8 f f.off)
  | .vamoAdd o f => some (encVamo 0#4 o f)
  | .vamoAnd o f => some (encVamo 1#4 o f)
  | .vamoOr o f => some (encVamo 2#4 o f)
  | .vamoXor o f => some (encVamo 3#4 o f)
  | .vamoMin o f => some (encVamo 4#4 o f)
  | .vamoMax o f => some (encVamo 5#4 o f)
  | .vamoMinn o f => some (encVamo 6#4 o f)
  | .vamoMaxn o f => some (encVamo 7#4 o f)
  | .vamoSwap o f => some (encVamo 8#4 o f)
  | .cadd f => some (encVM 0x1C#8 f f.off)
  | .vpref f => some (encVM 0x1D#8 f f.off)
  | .qdot f => some (encVQ 32#8 f)
  | .qwsum f => some (encVQ 33#8 f)
  | .qfsum f => some (encVQ 34#8 f)
  | .qmaxi f => some (encVQ 35#8 f)
  | .qtopk f => some (encVQ 36#8 f)
  | .qhist f => some (encVQ 37#8 f)
  | _ => none

/-- The words of an instruction as the bytes that hold them in memory (R4); none for an event of the part. -/
def encode (i : Instr) : Option (List Byte) :=
  match encodeScalar i with
  | some w => some (leBytes 4 w.toNat)
  | none => (encodeVector i).map fun w => leBytes 8 w.toNat

end Sys2Proof
end

