-- ==== Sys2Proof/Machine/Num.lean ====
section
/-! DEFINITION. Number formats and rounding (R24 to R41): exact values, the decoders of every format, and the one
function that rounds an exact value to a code. -/
namespace Sys2Proof.Machine

/-- An exact value: a NaN with its sign and its 23 fraction bits as FP32 holds them, an infinity, or (-1)^neg m 2^e. -/
inductive Num where
  | nan (neg : Bool) (frac : Nat)
  | inf (neg : Bool)
  | fin (neg : Bool) (m : Nat) (e : Int)
  deriving DecidableEq, Repr

/-- The five exception flags in FFLAGS order (R43): nv 4, dz 3, of 2, uf 1, nx 0. -/
abbrev Flags := BitVec 5

def flagNV : Flags := 16
def flagDZ : Flags := 8
def flagOF : Flags := 4
def flagUF : Flags := 2
def flagNX : Flags := 1

/-- A number format: IEEE with eb exponent and fb fraction bits, binary8 (unsigned, with infinities, precision), or
FP4 E2M1 (R25 to R30). -/
inductive Fmt where
  | ieee (eb fb : Nat)
  | b8 (unsgn inf : Bool) (p : Nat)
  | fp4
  deriving DecidableEq, Repr

def fp32 : Fmt := .ieee 8 23
def bf16 : Fmt := .ieee 8 7
def fp16 : Fmt := .ieee 5 10

/-- The exponent bias (R27, R28, R30). -/
def Fmt.bias : Fmt → Nat
  | .ieee eb _ => 2 ^ (eb - 1) - 1
  | .b8 u _ p => 2 ^ ((if u then 9 - p else 8 - p) - 1) - 1
  | .fp4 => 1

/-- The width of the trailing significand (R27, R28, R30). -/
def Fmt.t : Fmt → Nat
  | .ieee _ fb => fb
  | .b8 _ _ p => p - 1
  | .fp4 => 1

/-- The place of the sign bit; an unsigned format has none (R28). -/
def Fmt.signBit : Fmt → Nat
  | .ieee eb fb => eb + fb
  | .b8 .. => 7
  | .fp4 => 3

def Fmt.unsgn : Fmt → Bool
  | .b8 u _ _ => u
  | _ => false

/-- The format has infinities (R27, R28, R30). -/
def Fmt.hasInf : Fmt → Bool
  | .ieee .. => true
  | .b8 _ i _ => i
  | .fp4 => false

/-- The magnitude code of the largest finite value (R27 to R30). -/
def Fmt.maxMag : Fmt → Nat
  | .ieee eb fb => (2 ^ eb - 1) * 2 ^ fb - 1
  | .b8 false i _ => if i then 0x7E else 0x7F
  | .b8 true i _ => if i then 0xFD else 0xFE
  | .fp4 => 7

/-- The code of an infinity, for a format that has them. -/
def Fmt.infCode (f : Fmt) (neg : Bool) : Nat :=
  (if neg && !f.unsgn then 2 ^ f.signBit else 0) + f.maxMag + 1

/-- The code of the single NaN of a binary8 format; FP4 has none and takes its largest finite value (R28, R40). -/
def Fmt.nanCode (f : Fmt) (neg : Bool) : Nat :=
  match f with
  | .b8 u _ _ => if u then 0xFF else 0x80
  | .ieee eb fb => (2 ^ eb - 1) * 2 ^ fb + 2 ^ (fb - 1)
  | .fp4 => (if neg then 8 else 0) + 7

/-- The code of a magnitude code with a sign. -/
def Fmt.signed (f : Fmt) (neg : Bool) (mag : Nat) : Nat := (if neg && !f.unsgn then 2 ^ f.signBit else 0) + mag

/-- zero(f, sign): +0 where the format has no -0 (R38). -/
def Fmt.zero (f : Fmt) (neg : Bool) : Nat :=
  match f with
  | .b8 .. => 0
  | _ => f.signed neg 0

/-- emax: the exponent of the largest finite value of the finite variant (R29, R30). -/
def Fmt.emax : Fmt → Int
  | .b8 u _ p =>
    let mag : Nat := if u then 0xFE else 0x7F
    ((mag / 2 ^ (p - 1) : Nat) : Int) - ((Fmt.b8 u false p).bias : Int)
  | .fp4 => 2
  | .ieee eb _ => ((2 ^ (eb - 1) - 1 : Nat) : Int)

/-- The exact value of a code (R27, R28, R30). A NaN of FP16 or BF16 keeps its sign and payload in FP32 places (R36). -/
def Fmt.decode (f : Fmt) (code : Nat) : Num :=
  let neg := !f.unsgn && code.testBit f.signBit
  let mag := if f.unsgn then code else code % 2 ^ f.signBit
  let t := f.t
  let value : Num :=
    let e := mag / 2 ^ t
    let fr := mag % 2 ^ t
    if e = 0 then .fin neg fr (1 - (f.bias : Int) - t) else .fin neg (fr + 2 ^ t) ((e : Int) - f.bias - t)
  match f with
  | .ieee eb fb =>
    if mag / 2 ^ fb = 2 ^ eb - 1 then
      if mag % 2 ^ fb = 0 then .inf neg else .nan neg (mag % 2 ^ fb * 2 ^ (23 - fb))
    else value
  | .b8 u i _ =>
    if code = (if u then 0xFF else 0x80) then .nan false 0x400000
    else if i && code == 0x7F && !u then .inf false
    else if i && code == 0xFF && !u then .inf true
    else if i && code == 0xFE && u then .inf false
    else value
  | .fp4 => value

/-- A NaN is signalling when its most significant fraction bit is 0 (R27). -/
def Num.isSNaN : Num → Bool
  | .nan _ fr => !fr.testBit 22
  | _ => false

def Num.isNaN : Num → Bool
  | .nan .. => true
  | _ => false

def Num.neg : Num → Num
  | .nan s f => .nan (!s) f
  | .inf s => .inf (!s)
  | .fin s m e => .fin (!s) m e

/-- The canonical NaN 0x7FC0'0000 (R41). -/
def Num.canon : Num := .nan false 0x400000

/-- The value with its quiet bit set (R41). -/
def Num.quiet : Num → Num
  | .nan s f => .nan s (f ||| 0x400000)
  | x => x

/-- The value scaled by 2^k, exactly. -/
def Num.scale (x : Num) (k : Int) : Num :=
  match x with
  | .fin s m e => .fin s m (e + k)
  | y => y

/-- nan_to(f, x, sat) (R41). FP32 keeps the NaN: arithmetic has set its quiet bit, and the memory pipe moves it
unchanged. -/
def nanTo (f : Fmt) (neg : Bool) (frac : Nat) : Nat × Flags :=
  let sig : Flags := if frac.testBit 22 then 0 else flagNV
  match f with
  | .ieee eb fb =>
    let top := (2 ^ eb - 1) * 2 ^ fb
    if fb = 23 then (f.signed neg (top + frac % 2 ^ 23), sig)
    else (f.signed neg (top + ((frac % 2 ^ 23 / 2 ^ (23 - fb)) ||| 2 ^ (fb - 1))), sig)
  | .b8 .. => (f.nanCode neg, sig)
  | .fp4 => (0, flagNV)

/-- The rounding modes of R37. -/
def rne : Nat := 0
def rtz : Nat := 1
def rdn : Nat := 2
def rup : Nat := 3
def rna : Nat := 4
def rsr : Nat := 5

/-- Whether overflow goes to infinity under a mode, for a sign (R40, the row of sat 0). -/
def overflowsToInf (mode : Nat) (neg : Bool) : Bool :=
  if mode = rtz then false else if mode = rdn then neg else if mode = rup then !neg else true

/-- big(f, s, mode, sat, exact) (R40). -/
def big (f : Fmt) (neg : Bool) (mode sat : Nat) (exact : Bool) : Nat × Flags :=
  let fl : Flags := if exact then 0 else flagOF ||| flagNX
  let maxv := f.signed neg f.maxMag
  if f.hasInf then
    if sat = 1 then (if exact then f.infCode neg else maxv, fl)
    else (if overflowsToInf mode neg then f.infCode neg else maxv, fl)
  else if sat = 2 then (f.nanCode neg, fl)
  else (maxv, fl)

/-- Whether n + rem / den rounds up (R38). rnd is the drawn number of stochastic rounding. -/
def roundsUp (mode : Nat) (neg : Bool) (n rem den rnd : Nat) : Bool :=
  if mode = rne then 2 * rem > den || (2 * rem == den && n % 2 == 1)
  else if mode = rna then 2 * rem ≥ den && rem > 0
  else if mode = rup then rem > 0 && !neg
  else if mode = rdn then rem > 0 && neg
  else if mode = rsr then rem * 2 ^ 32 / den + rnd ≥ 2 ^ 32
  else false

/-- round_to(f, x, mode, sat) (R38): the code and the flags. rnd is what sr_next gave, drawn by the caller once for
every rounding under SR (R39). -/
def roundTo (f : Fmt) (x : Num) (mode sat rnd : Nat) : Nat × Flags :=
  match x with
  | .nan s fr => nanTo f s fr
  | .inf s =>
    if f.unsgn && s then (if sat = 2 then f.nanCode s else 0, flagNV)
    else big f s mode sat true
  | .fin s m e =>
    if m = 0 then (f.zero s, 0)
    else if f.unsgn && s then (if sat = 2 then f.nanCode s else 0, flagNV)
    else
      let emin : Int := 1 - (f.bias : Int)
      let lg : Int := (m.log2 : Int) + e
      let ex := if lg < emin then emin else lg
      let sh := e - (ex - (f.t : Int))            -- x / q = m 2^sh
      let n := if 0 ≤ sh then m * 2 ^ sh.toNat else m / 2 ^ (-sh).toNat
      let den := if 0 ≤ sh then 1 else 2 ^ (-sh).toNat
      let rem := if 0 ≤ sh then 0 else m % den
      let up := roundsUp mode s n rem den rnd
      let n' := if up then n + 1 else n
      let fl : Flags := if rem = 0 then 0 else if lg < emin then flagNX ||| flagUF else flagNX
      let mag := (ex + f.bias - 1).toNat * 2 ^ f.t + n'
      if mag > f.maxMag then
        let (c, fl') := big f s mode sat false
        (c, fl ||| fl')
      else if n' = 0 then (f.zero s, fl)
      else (f.signed s mag, fl)

/-! ### Exact arithmetic on values (R41, R123, R124) -/

/-- The first NaN of a list of sources with its quiet bit set, and NV when any source is signalling (R41). -/
def nanOf (xs : List Num) : Option (Num × Flags) :=
  match xs.find? Num.isNaN with
  | some x => some (x.quiet, if xs.any Num.isSNaN then flagNV else 0)
  | none => none

/-- The signed integer n scaled by 2^e; zero takes the sign given. -/
def Num.ofInt (n : Int) (e : Int) (zneg : Bool) : Num :=
  if n = 0 then .fin zneg 0 0 else .fin (n < 0) n.natAbs e

/-- m 2^e as an integer count of 2^lo, lo at most e. -/
def scaled (neg : Bool) (m : Nat) (e lo : Int) : Int :=
  let v : Int := ((m * 2 ^ (e - lo).toNat : Nat) : Int)
  if neg then -v else v

/-- The exact sum of two values. An exact zero from unlike signs is -0 under RDN and +0 otherwise (R124); like zeros
keep their sign. -/
def addNum (mode : Nat) (x y : Num) : Num × Flags :=
  match nanOf [x, y] with
  | some r => r
  | none =>
    match x, y with
    | .inf s, .inf t => if s = t then (.inf s, 0) else (Num.canon, flagNV)
    | .inf s, _ => (.inf s, 0)
    | _, .inf t => (.inf t, 0)
    | .fin s m e, .fin t n k =>
      let lo := if e ≤ k then e else k
      let v := scaled s m e lo + scaled t n k lo
      (Num.ofInt v lo (if s = t then s else mode == rdn), 0)
    | _, _ => (Num.canon, flagNV)

/-- The exact difference: a NaN source stays as it is, and y otherwise changes sign (R41, R124). -/
def subNum (mode : Nat) (x y : Num) : Num × Flags :=
  match nanOf [x, y] with
  | some r => r
  | none => addNum mode x y.neg

/-- The exact product of two values. -/
def mulNum (x y : Num) : Num × Flags :=
  match nanOf [x, y] with
  | some r => r
  | none =>
    match x, y with
    | .inf s, .inf t => (.inf (s != t), 0)
    | .inf s, .fin t n _ => if n = 0 then (Num.canon, flagNV) else (.inf (s != t), 0)
    | .fin s m _, .inf t => if m = 0 then (Num.canon, flagNV) else (.inf (s != t), 0)
    | .fin s m e, .fin t n k => (.fin (s != t) (m * n) (e + k), 0)
    | _, _ => (Num.canon, flagNV)

/-- a b + c, exact, with the NaN order a, b, c and an invalid product taken before the sum (R41, R123). -/
def fmaNum (mode : Nat) (a b c : Num) : Num × Flags :=
  match nanOf [a, b, c] with
  | some (r, fl) => (r, fl)
  | none =>
    match mulNum a b with
    | (.nan s f, fl) => (.nan s f, fl)
    | (p, _) => addNum mode p c

/-- The quotient of two values to 96 more bits than any format holds, with a last bit that stands for what remains: it
rounds as the exact quotient does. -/
def divNum (x y : Num) : Num × Flags :=
  match nanOf [x, y] with
  | some r => r
  | none =>
    match x, y with
    | .inf _, .inf _ => (Num.canon, flagNV)
    | .inf s, .fin t _ _ => (.inf (s != t), 0)
    | .fin s _ _, .inf t => (.fin (s != t) 0 0, 0)
    | .fin s m e, .fin t n k =>
      if n = 0 then (if m = 0 then (Num.canon, flagNV) else (.inf (s != t), flagDZ))
      else if m = 0 then (.fin (s != t) 0 0, 0)
      else
        let a := m * 2 ^ (160 + n.log2)
        (.fin (s != t) (2 * (a / n) + (if a % n = 0 then 0 else 1)) (e - k - 160 - n.log2 - 1), 0)
    | _, _ => (Num.canon, flagNV)

/-- The bits of an integer square root, from bit b - 1 down, above those found. -/
def isqrtGo (a : Nat) : Nat → Nat → Nat
  | 0, r => r
  | b + 1, r => isqrtGo a b (if (r + 2 ^ b) * (r + 2 ^ b) ≤ a then r + 2 ^ b else r)

/-- The largest integer whose square is at most a. -/
def isqrt (a : Nat) : Nat := isqrtGo a (a.log2 / 2 + 1) 0

/-- The square root of a value to 128 bits, with a last bit that stands for what remains. -/
def sqrtNum (x : Num) : Num × Flags :=
  match nanOf [x] with
  | some r => r
  | none =>
    match x with
    | .inf s => if s then (Num.canon, flagNV) else (.inf false, 0)
    | .fin s m e =>
      if m = 0 then (.fin s 0 0, 0)
      else if s then (Num.canon, flagNV)
      else
        let odd : Nat := (e % 2).toNat
        let a := m * 2 ^ odd * 2 ^ 256
        let r := isqrt a
        (.fin false (2 * r + (if r * r = a then 0 else 1)) ((e - odd) / 2 - 128 - 1), 0)
    | _ => (Num.canon, flagNV)

/-- The order of values: less, with -0 and +0 equal. NaNs are the caller's. -/
def ltNum (x y : Num) : Bool :=
  match x, y with
  | .nan .., _ => false
  | _, .nan .. => false
  | .inf s, .inf t => s && !t
  | .inf s, _ => s
  | _, .inf t => !t
  | .fin s m e, .fin t n k =>
    let lo := if e ≤ k then e else k
    scaled s m e lo < scaled t n k lo

/-- Equality of values, with -0 and +0 equal; a NaN equals nothing. -/
def eqNum (x y : Num) : Bool :=
  match x, y with
  | .nan .., _ => false
  | _, .nan .. => false
  | .inf s, .inf t => s == t
  | .fin s m e, .fin t n k =>
    let lo := if e ≤ k then e else k
    scaled s m e lo == scaled t n k lo
  | _, _ => false

/-- Round an exact finite value to an integer under a mode: the integer, and whether it is inexact (R126). -/
def roundInt (neg : Bool) (m : Nat) (e : Int) (mode rnd : Nat) : Int × Bool :=
  if 0 ≤ e then
    let v : Int := ((m * 2 ^ e.toNat : Nat) : Int)
    (if neg then -v else v, false)
  else
    let den := 2 ^ (-e).toNat
    let n := m / den
    let rem := m % den
    let n' : Int := ((if roundsUp mode neg n rem den rnd then n + 1 else n : Nat) : Int)
    (if neg then -n' else n', rem != 0)

/-- floor of an exact finite value. -/
def floorNum (neg : Bool) (m : Nat) (e : Int) : Int := (roundInt neg m e rdn 0).1

/-! ### FP32 and BF16 slots -/

/-- The value of an f32 slot. -/
def f32 (x : Slot) : Num := fp32.decode x.toNat

/-- The value of a bf16 slot: bits 15:0 read as zero (R24). -/
def bfv (x : Slot) : Num := bf16.decode (x.toNat / 65536)

/-- A rounding to FP32 as a slot. -/
def roundF32 (x : Num) (mode sat rnd : Nat) : Slot × Flags :=
  let (c, fl) := roundTo fp32 x mode sat rnd
  (BitVec.ofNat 32 c, fl)

/-- A rounding to BF16 as a slot, its code in bits 31:16 (R24). -/
def roundBf (x : Num) (mode sat rnd : Nat) : Slot × Flags :=
  let (c, fl) := roundTo bf16 x mode sat rnd
  (BitVec.ofNat 32 (c * 65536), fl)

/-- FP32 sum and product rounded to nearest even, as queries and matrix cells compute them; flags are the caller's. -/
def addRne (x y : Slot) : Slot := (roundF32 (addNum rne (f32 x) (f32 y)).1 rne 0 0).1
def mulRne (x y : Slot) : Slot := (roundF32 (mulNum (f32 x) (f32 y)).1 rne 0 0).1

/-! ### Memory formats (R25, R26, R31, R36, R40) -/

/-- Bits of one element of a format code (R25). -/
def fmtBits (c : BitVec 6) : Nat :=
  match c.toNat with
  | 0 | 7 | 11 => 32
  | 1 | 2 | 6 | 10 => 16
  | 3 | 4 | 8 => 4
  | _ => 8

/-- The number format of a floating-point code. -/
def fmtFloat (c : BitVec 6) : Option Fmt :=
  match c.toNat with
  | 0 => some fp32
  | 1 => some bf16
  | 2 => some fp16
  | 3 => some .fp4
  | n => if n < 32 then none else some (.b8 (n.testBit 4) (n.testBit 3) (n % 8))

/-- A signed integer code, i4 to i32. -/
def fmtSignedInt (c : BitVec 6) : Bool := 4 ≤ c.toNat && c.toNat < 8

/-- An integer code. -/
def fmtInt (c : BitVec 6) : Bool := 4 ≤ c.toNat && c.toNat < 12

/-- A value as the exact FP32 slot it widens to, or rounded to nearest when a factor carried it out (R36). -/
def slotOf (x : Num) : Slot := (roundF32 x rne 0 0).1

/-- Widen a code to its slot (R25, R31, R36). factor: the block scale's exponent S - 127; none: the scale is NaN. -/
def widen (c : BitVec 6) (code : Nat) (factor : Option Int) : Slot :=
  match fmtFloat c with
  | some f =>
    match factor with
    | none => 0x7FC00000
    | some k =>
      if f = fp32 then BitVec.ofNat 32 code
      else if f = bf16 then BitVec.ofNat 32 (code * 65536)
      else slotOf ((f.decode code).scale k)
  | none =>
    let b := fmtBits c
    if fmtSignedInt c && code.testBit (b - 1) then BitVec.ofInt 32 ((code : Int) - 2 ^ b) else BitVec.ofNat 32 code

/-- mem_sat(f) for a floating-point format (R40). -/
def memSat (vround : BitVec 5) : Nat := if vround.getLsbD 3 then 2 else 0

/-- Clamp an integer to a range. -/
def clampInt (lo hi v : Int) : Int := if v < lo then lo else if hi < v then hi else v

/-- Whether narrowing a slot to a format draws a number under SR: every floating-point narrowing does (R39, R150). A store
in f32 writes the slot bit for bit and narrows nothing. -/
def narrowDraws (c : BitVec 6) (mode : Nat) : Bool := mode = rsr && !fmtInt c && c.toNat != 0

/-- Narrow a slot to a code (R40, R150). scale: the exponent the value is scaled by first, for block scales. -/
def narrow (c : BitVec 6) (v : Slot) (vround : BitVec 5) (mode rnd : Nat) (scale : Int) : Nat :=
  match fmtFloat c with
  | some f =>
    if f = fp32 then v.toNat
    else if f = bf16 && v.toNat % 65536 == 0 then v.toNat / 65536
    else (roundTo f ((f32 v).scale scale) mode (memSat vround) rnd).1
  | none =>
    let b := fmtBits c
    if vround.getLsbD 4 && b < 32 then
      if fmtSignedInt c then
        let k := clampInt (-(2 ^ (b - 1))) (2 ^ (b - 1) - 1) v.toInt
        (k % 2 ^ b).toNat
      else if v.toNat < 2 ^ b then v.toNat else 2 ^ b - 1
    else v.toNat % 2 ^ b

/-- One step of a stochastic generator (R39). -/
def srStep (x : BitVec 32) : BitVec 32 :=
  let a := x ^^^ (x <<< 13)
  let b := a ^^^ (a >>> 17)
  b ^^^ (b <<< 5)

end Sys2Proof.Machine
end

