-- ==== Sys2Proof/Machine/Table.lean ====
section
/-! DEFINITION. Sparse tables: a sorted list of (key, value) pairs without repeats. They hold memory's blocks of
state that are mostly absent (harts, clusters, kernels, register elements). -/
namespace Sys2Proof.Machine

/-- A table from numbers to values: keys strictly rising, an absent key at its default. -/
abbrev Tbl (α : Type) := List (Nat × α)

/-- The value at a key, when the table lists it. -/
def tblFind {α : Type} (k : Nat) : Tbl α → Option α
  | [] => none
  | (a, v) :: t => if a = k then some v else tblFind k t

/-- The value at a key, or the default. -/
def tblGet {α : Type} (d : α) (k : Nat) (t : Tbl α) : α := (tblFind k t).getD d

/-- The table with a key's value replaced or entered in key order. -/
def tblPut {α : Type} (k : Nat) (v : α) : Tbl α → Tbl α
  | [] => [(k, v)]
  | (a, w) :: t => if k < a then (k, v) :: (a, w) :: t else if k = a then (k, v) :: t else (a, w) :: tblPut k v t

/-- The table without a key. -/
def tblDel {α : Type} (k : Nat) (t : Tbl α) : Tbl α := t.filter fun p => p.1 ≠ k

/-- The keys of a table. -/
def tblKeys {α : Type} (t : Tbl α) : List Nat := t.map Prod.fst

/-- Keys strictly rising from above a bound. -/
def tblSorted {α : Type} (lo : Nat) : Tbl α → Bool
  | [] => true
  | (a, _) :: t => lo ≤ a && tblSorted (a + 1) t

/-- The numbers from a up to, not including, a + n. -/
def upFrom (a : Nat) : Nat → List Nat
  | 0 => []
  | n + 1 => a :: upFrom (a + 1) n

/-- The i-th value of a list, or a default. -/
def nthD {α : Type} (d : α) : List α → Nat → α
  | [], _ => d
  | x :: _, 0 => x
  | _ :: t, n + 1 => nthD d t n

/-- Pairs of rising positions, from n on, and items. -/
def numbered {α : Type} (n : Nat) : List α → List (Nat × α)
  | [] => []
  | x :: t => (n, x) :: numbered (n + 1) t

/-- A list with its i-th value replaced. -/
def setNth {α : Type} (v : α) : List α → Nat → List α
  | [], _ => []
  | _ :: t, 0 => v :: t
  | x :: t, n + 1 => x :: setNth v t n

end Sys2Proof.Machine
end

