-- ==== Sys2Proof/Machine/State.lean ====
section
/-! DEFINITION. Everything the manual gives the Corien Dyrek to hold, as plain data, and the machine right after
reset. Parts that exist in numbers (harts, clusters, contexts, experts) are sparse tables whose absent entries
stand at their reset value. -/
namespace Sys2Proof.Machine

/-- Why the machine stops with a fault. -/
inductive Fault where
  /-- Raised by a meaning when the party on turn does not exist: no hart on the slot, no program on the engine. No step
  gives such a party a turn. Safe: the machine stops where the part would do nothing. -/
  | noParty
  deriving DecidableEq, Repr

/-- Why a step has no meaning. -/
inductive Refusal where
  /-- Raised by an arm of exec whose instruction is not modelled. Safe. -/
  | notModelled (mnemonic : String)
  deriving DecidableEq, Repr

/-- Who executes: a vector hart on its slot, the matrix control core or copy sequencer of a cluster, the stream
controller core of a die (R14, R83). -/
inductive Party where
  | vec (slot : Nat)
  | mcc (cluster : Nat)
  | seq (cluster : Nat)
  | scc (die : Nat)
  deriving DecidableEq, Repr

/-- One turn of the machine: a scalar stream, a vector stream, an event of the part that acts for a party, or an access of the host to BAR0. -/
inductive Turn where
  | scalar (p : Party)
  | vector (slot : Nat)
  | event (p : Party) (i : Instr)
  | bar (off : Nat) (data : Option (List Byte))   -- the host reads 8 bytes of BAR0, or writes bytes there (R358)
  deriving DecidableEq, Repr

/-- What a trap says of itself, as the fault record shows it (R286). kind: the source, where it is not the party itself (3 a copy, 4 a stream
register, 6 an expert fetch), else 0. -/
structure Trap where
  cause   : Nat
  kind    : Nat := 0
  under   : Nat := 0
  addr    : Nat := 0
  access  : Nat := 0
  hcount  : Nat := 0
  hstride : Int := 0
  info    : Nat := 0
  deriving DecidableEq, Repr

/-- The scalar side of any hart: program counter, registers, rounding registers, flags and the scalar generator (R53,
R43, R169). x holds s0 to s31; s0 reads as zero in the one function that reads registers. -/
structure Scalar where
  pc     : Word
  x      : Vector Word 32
  fround : BitVec 3
  vround : BitVec 5
  fflags : BitVec 10
  g64    : BitVec 32
  deriving DecidableEq, Repr

/-- A pattern record as captured (R158): dimensions 1 to 3, segment fields 0 or 2 to 8, strides signed. -/
structure Pattern where
  base    : Nat
  fmt     : BitVec 6
  dims    : Nat
  segs    : Nat
  count0  : Nat
  count1  : Nat
  count2  : Nat
  stride0 : Int
  stride1 : Int
  stride2 : Int
  perm    : Nat
  deriving DecidableEq, Repr

/-- A copy token's state (R162). -/
inductive TokState where
  | idle | busy | error
  deriving DecidableEq, Repr

/-- A copy token k0 to k7: its state, the elements its last copy performed, and the error's cause and address. -/
structure Token where
  state : TokState
  done  : Nat
  under : Nat
  addr  : Nat
  deriving DecidableEq, Repr

/-- A bound stream register (R159): its pattern, direction, captured VROUND, the port whose slot it holds, position
of the next element to pop or push, fetched and unconsumed elements, codes of committed and unperformed elements, elements
performed, and its error. -/
structure Stream where
  pat     : Pattern
  write   : Bool
  vround  : BitVec 5
  port    : Nat
  pos     : Nat
  fetched : List Slot
  pending : List Slot
  done    : Nat
  err     : Option (Nat × Nat)
  deriving DecidableEq, Repr

/-- A captured query descriptor (R191, R192). -/
structure QDesc where
  base   : Word
  fmt    : BitVec 6
  keycol : Nat
  len    : Nat
  rows   : Nat
  stride : Int
  deriving DecidableEq, Repr

/-- What a block executes under, fixed at its vf in program order (R54, R87, R193). s holds s0 to s15. -/
structure BlockEnv where
  vl     : Nat
  nregs  : Nat
  vround : BitVec 5
  s      : Vector Word 16
  qd     : Vector (Option QDesc) 4
  deriving DecidableEq, Repr

/-- Where a translated byte lies: the page kind of R324, its key, and its home: the die of a working byte, the cluster of
a scratchpad byte, the stack of a Cellar byte, the die of a plane store byte, the node of a peer byte. -/
structure Place where
  kind : Nat
  key  : Nat
  home : Nat
  deriving DecidableEq, Repr

/-- A read that a vector word performed before the element it belongs to commits (R68, R145, R235): the member of the convoy, the
nibble address read, where it lay, its bytes, and the cause and block of the error it met. -/
structure Ahead where
  no    : Nat
  nib   : Nat
  place : Place
  bytes : List Byte
  err   : Option (Nat × Nat)
  deriving DecidableEq, Repr

/-- A pin: the translation that an issued convoy, a query in flight, a scalar access between its pieces or a creloc under way keeps in use, as the
first address and the size of its page and its leaf entry, and whether a query word holds it (R328, R329). -/
structure Pin where
  va    : Nat
  lg    : Nat
  entry : Word
  query : Bool
  deriving DecidableEq, Repr

/-- A part still to come of a convoy that a trap of one of its members cut short (R72): how many members it has, the element at which they begin,
and that trap while it is still to be raised (bad: the uncorrectable block it met). -/
structure LaterPart where
  members : Nat
  elem    : Nat
  trap    : Option (Trap × Option Nat)
  deriving DecidableEq, Repr

/-- Cycles that a member of a convoy takes and the clock has still to pass (R63, R64, R264): how many, their slot-cycles in classes 0 to 3 and those that
no element takes; whether elements of their cycle are still to come, and the classes 0 to 2 of the slots of those elements if a stop lands before them. -/
structure Spent where
  member  : Nat
  cycles  : Nat
  useful  : Nat
  masked  : Nat
  beyond  : Nat
  startup : Nat
  idle    : Nat
  filling : Bool
  rest    : Nat × Nat × Nat
  deriving DecidableEq, Repr

/-- A block handed to the vector stream: its number in the hart's order, the address of its next word, the element at
which that word resumes, whether the convoy there has issued and waits inside, and its environment (R54, R55). cut: how many members the convoy
there has when it is a part of one that was cut short, 0 for a whole one; parts: the parts of it that follow (R72, R73); origin: the element at which
the convoy issued; sent: the requests the issued convoy has counted, by member and 64-byte block (R149). Of the issued convoy, as it issued: vls, the VL of
each member and whether it performs nothing (R154); perm, the places of its vldseg (R155); ahead, its reads performed early; pins, the pages its probes pinned (R328);
tied, that no turn of another party falls between its elements (log 10). -/
structure Block where
  seq    : Nat
  pc     : Word
  elem   : Nat
  issued : Bool
  ff     : Bool                       -- a vldff of the block has run (R154)
  cut    : Nat
  parts  : List LaterPart
  origin : Nat
  sent   : List (Nat × Nat)
  vls    : List (Nat × Bool)
  perm   : List Nat
  ahead  : List Ahead
  pins   : List Pin
  tied   : Bool
  env    : BlockEnv
  deriving DecidableEq, Repr

/-- A rewind record of a load queue: the producing load's address, its first unconsumed element and the environment it
loads under (R67, R71). A record to be restarted holds in vl the bound of the elements to load again. -/
structure Rewind where
  waddr : Word
  elem  : Nat
  env   : BlockEnv
  deriving DecidableEq, Repr

/-- A load queue: its arrived entries, oldest first, each with the producer it came from; and the producers still to be
restarted after a stop (R67, R71). -/
structure LoadQ where
  entries : List (Slot × Rewind)
  restart : List Rewind
  deriving DecidableEq, Repr

/-- A query word in flight: its destination, the register elements its replies will write in order, whether they
commit together, and the pages it pins (R197, R329). -/
structure Query where
  seq    : Nat
  vd     : Nat
  pair   : Bool
  whole  : Bool
  writes : List (Nat × Nat × Slot)
  pins   : List Pin
  deriving DecidableEq, Repr

/-- Whether a hart runs, is held in trap state with its cause, or stands stopped in a kernel that is being killed
(R282, R287). -/
inductive HartState where
  | running
  | held (cause : Nat)
  | stopped
  deriving DecidableEq, Repr

/-- A hart parked in a step or a gbar of a group (R215, R220). go: the step or gbar has completed. -/
structure Parked where
  group : Nat
  gbar  : Bool
  go    : Bool
  deriving DecidableEq, Repr

/-- A hart's pending arrival at a named barrier (R221): in a phase, in a phase that had ended when the barrier broke, or
in the phase that broke. -/
inductive Arrival where
  | phase (p : Nat)
  | ended
  | broken
  deriving DecidableEq, Repr

/-- A replica as a hart holds it: the home slot, or a staged field of xrepl (R245, R250). -/
inductive Replica where
  | home
  | field (f : BitVec 16)
  deriving DecidableEq, Repr

/-- A scalar access of two pieces between its two pieces (R111, R234): a store that has performed its first piece, or a load that has read it.
The second piece is n bytes at a place. bytes: what a store has still to write, or what a load has read; reg, bits and sign: a load's
register and how it extends; va and cls: its address and its class, for the record of a trap; reqs: its requests (R149); pins: the translations that it
holds (R329). -/
structure Half where
  store : Bool
  place : Place
  n     : Nat
  bytes : List Byte
  reg   : Reg
  bits  : Nat
  sign  : Bool
  va    : Nat
  cls   : Nat
  reqs  : Nat × Nat
  pins  : List Pin
  deriving DecidableEq, Repr

/-- A vector hart on its slot (R53 and the chapters that bind its registers). -/
structure Hart where
  ctx    : Nat
  kid    : Nat
  hartid : Nat
  sc     : Scalar
  state  : HartState
  waiting : Bool                      -- its scalar stream waits or is stalled (R74)
  vwait   : Bool                      -- its vector stream waits or is stalled (R74)
  half    : Option Half               -- a scalar access between its pieces (R111)
  reloc   : Nat                       -- bytes that the creloc at pc has copied (R204)
  relocPins : List Pin                -- the translations that a creloc under way holds (R204, R329)
  full   : BitVec 64                  -- full bits of v0 to v63 (R65)
  sfull  : BitVec 16                  -- full bits of s16 to s31
  v      : Tbl Slot                   -- element i of v(r) at key 1024 r + i
  stale  : Tbl (List (Nat × Nat))     -- of v(r): a bound from which elements are unstated, and the vcfg that names them (log 12)
  m      : Vector Mask 16
  l      : Vector (List Nat) 4
  q      : Vector (Option Stream) 8
  lq     : Vector LoadQ 4
  tok    : Vector Token 8
  qd     : Vector (Option QDesc) 4
  gen    : Vector (BitVec 32) 64      -- g0 to g63 (R39)
  srseed : BitVec 32
  vl     : Nat
  nregs  : Nat
  blocks : List Block                 -- at most 8 (R116)
  blockSeq : Nat
  queries : List Query                -- at most 8 (R197)
  grant  : Nat
  nextGrant : Option Nat              -- a grant that takes its place at the next boundary between convoys (R61, R311)
  lanes  : Nat                        -- the request of the image header (R101)
  cycle  : Word
  lanecyc : Vector Word 5
  layer  : BitVec 32
  hsat   : Bool
  csat   : Bool
  vfull  : Bool
  mpromo : Word
  localreq : Word
  remotereq : Word
  missCount : BitVec 32
  mreg   : BitVec 4
  args   : Word
  scrbase : Word
  groups : List Nat                   -- 1 to 1,023, at most 16 (R219)
  parked : Option Parked
  bars   : List (Nat × Arrival)       -- pending arrivals by barrier (R221)
  barIn  : Option Nat                 -- the bar word at pc has arrived and waits
  fences : List (Nat × BitVec 16)     -- fences passed: the number of the next block then, and the classes (R225)
  sets   : Tbl (BitVec 64)            -- current replica sets by expert (R249)
  holds  : List (Nat × Replica)       -- experts held (R245)
  words  : Nat                        -- performed scalar words (R355)
  digestDue : Bool                    -- an interval digest stands before the next scalar word (R355)
  due    : List Spent                 -- cycles of its convoys that the clock has still to pass (R63, R264)
  timed  : Option (Nat × Nat × Nat)   -- the convoy that they belong to: its head, how many members it has, and its VL (R352)
  stopDue : Option (Nat × Bool)       -- of a saved hart: the debug stop that it had not come to, as in Debug.stops (R353)
  placedAt : Nat
  lastIssue : Nat                     -- on the clock of wall
  aged : Nat                          -- whole milliseconds without an issue turn (R310)
  touched : Tbl Nat                   -- time of last access of a register bank (R295)
  retained : List Nat                 -- banks in retention
  deriving DecidableEq, Repr

/-- A matrix operation's kind and operands (R170 to R181), with the record or header it captured at issue. -/
inductive MatKind where
  | mldW (addr granule : Nat) (k fmt : Nat) (scaled sparse : Bool)
  | mldA (granule : Nat) (base k fmt : Nat) (scaled : Bool) (rowstride scalebase : Nat)
  | mma (j ga gb : Nat) (release : Bool) (w : Nat)
  | mzero (j : Nat)
  | mst (j base fmt rowstride : Nat) (vround : BitVec 5)
  | mscale (j : Nat) (n : Int)
  deriving DecidableEq, Repr

/-- A matrix operation in its pipe: its word's address, the place in issue order, whether it runs, the rows it has
finished (of an mst, the bytes of its cells it has stored) and the early promotions it has counted (R170, R178). due: once it runs, the time at which it
completes, or at which row 0 of an mma is final, where R178 or R180 states its cycles. -/
structure MatOp where
  kind    : MatKind
  pc      : Word
  order   : Nat
  started : Bool
  rows    : Nat
  promos  : Nat
  due     : Nat
  deriving DecidableEq, Repr

/-- A Larder run: its tag and its bytes, codes then scales (R171, R172, R174). -/
structure Run where
  granule : Nat
  count   : Nat
  isA     : Bool
  fmt     : Nat
  scaled  : Bool
  sparse  : Bool
  k       : Nat
  src     : Nat
  kind    : MatKind
  ctx     : Nat
  kid     : Nat
  codes   : List Byte
  scales  : List Byte
  deriving DecidableEq, Repr

/-- The matrix control core's program (R167 to R169): the forking hart's slot, whether the program has begun and the
vector blocks it waits for, its claims and the accumulators released, the window and the cycle it began. -/
structure Mcc where
  slot     : Nat
  ctx      : Nat
  kid      : Nat
  sc       : Scalar
  begun    : Bool
  after    : Nat
  claims   : BitVec 4
  released : BitVec 4
  w        : Nat
  start    : Nat
  ops      : Nat
  deriving DecidableEq, Repr

/-- The copy sequencer's program (R226). -/
structure CopySeq where
  slot  : Nat
  ctx   : Nat
  kid   : Nat
  sc    : Scalar
  begun : Bool
  after : Nat
  tok   : Vector Token 8
  q     : Vector (Option Stream) 8    -- the stream registers that its sbind words bind (R83, R159)
  start : Nat
  deriving DecidableEq, Repr

/-- A copy command in the cluster's engine (R161, R162): who issued it and its token, its patterns and captured
VROUND, its port, whether it has started, and the elements performed. -/
structure Copy where
  owner   : Party
  slot    : Nat
  ctx     : Nat
  kid     : Nat
  tok     : Nat
  port    : Nat
  src     : Pattern
  dst     : Pattern
  vround  : BitVec 5
  started : Bool
  pos     : Nat
  deriving DecidableEq, Repr

/-- A named barrier (R221). -/
structure Barrier where
  count   : Nat
  arrived : Nat
  phase   : Nat
  deriving DecidableEq, Repr

/-- A live scratchpad allocation (R146). -/
structure Alloc where
  ctx    : Nat
  kid    : Nat
  offset : Nat
  size   : Nat
  deriving DecidableEq, Repr

/-- A cluster (R13). Accumulator cell (row, col) of accj stands at key 12,288 j + 96 row + col. -/
structure Cluster where
  acc    : Tbl Slot
  accUser : Vector (Option (Nat × Nat)) 4   -- the kernel that last used an accumulator (R287, R294)
  chain  : Vector (BitVec 128) 4      -- chaining bits, one a row (R179)
  mcc    : Option Mcc
  fillq  : List MatOp
  arrq   : List MatOp
  larder : List Run
  refetch : List Run                  -- runs of a context that has come back, to be fetched again (R175, R301)
  copies : List Copy
  seq    : Option CopySeq
  bars   : Tbl Barrier
  dirty  : BitVec 512
  allocs : List Alloc
  granted : Word                      -- lane-cycles granted since reset (R351)
  deriving DecidableEq, Repr

/-- A store into a plane region in the step in progress: its offset in the region, its bytes, which part of them it changes (0 whole bytes, 1 the
lower nibble, 2 the upper nibble, R145), and the hart it counts as (R211, R212). -/
structure PlaneStore where
  off   : Nat
  bytes : List Byte
  part  : Nat
  kid   : Nat
  hart  : Nat
  deriving DecidableEq, Repr

/-- A bound plane region (R209): where it lies (a scratchpad of a cluster or the plane store of a die), its rule and
type, where its record's status word lies and the bits that the device writes there, its group, who bound it, the stores of the step in progress
in commit order, and the words that vector words in issue have claimed and not stored yet, by slot. dying: the kernel whose allocation it lies in
has ended, and it is released when the step in progress ends (R217). -/
structure Region where
  scratch : Bool
  home    : Nat
  off     : Nat
  size    : Nat
  rule    : Nat
  type    : Nat
  status  : Nat
  ctx     : Nat
  group   : Nat
  kid     : Nat
  va      : Nat
  stores  : List PlaneStore
  flags   : Nat
  held    : List (Nat × Nat)
  dying   : Bool
  deriving DecidableEq, Repr

/-- A controller's cached kernel image (R312, R313): the header and the first 16 KiB of text. -/
structure ImageEntry where
  ctx   : Nat
  image : Nat
  head  : List Byte
  text  : List Byte
  used  : Nat
  deriving DecidableEq, Repr

/-- A tier command in progress (R336, R337). -/
structure TierCmd where
  op     : Nat
  ctx    : Nat
  size   : Nat
  tier   : Nat
  frame  : Nat
  src    : Nat
  done   : Nat
  ended  : Option Nat                 -- status once its bytes are performed: 1 done, or 2 + 256 cause
  deriving DecidableEq, Repr

/-- An input transfer of a kernel (R306). -/
structure Transfer where
  src  : Nat
  dst  : Nat
  size : Nat
  pos  : Nat                          -- bytes performed
  done : Bool
  deriving DecidableEq, Repr

/-- The state of a live kernel (R308). -/
inductive KState where
  | waiting | ready | running
  | killing (state cause : Nat)       -- the end of R287 is under way: completion state and cause
  deriving DecidableEq, Repr

/-- A live kernel (R306 to R310): its record, its image header, and its counts. -/
structure Kernel where
  ctx     : Nat
  kid     : Nat
  die     : Nat
  state   : KState
  image   : Nat
  args    : Word
  n       : Nat
  prio    : Nat
  budget  : Nat
  after   : List Nat
  done    : Nat
  trans   : List Transfer
  nregs   : Nat
  lanes   : Nat
  scratch : Nat
  elastic : Bool
  entry   : Nat
  text    : List Byte                 -- the cached text its harts fetch (R313)
  placed  : Nat                       -- harts of the record placed so far
  nextHart : Nat                      -- the next HARTID (R57)
  count   : Nat                       -- budget count (R290)
  refresh : Nat
  retry   : Nat
  broken  : Bool                      -- marked by a heat break (R366)
  readyAt : Nat                       -- on the clock of wall
  aged    : Nat                       -- whole milliseconds ready and not fully placed (R310)
  order   : Nat                       -- its place among the klaunches, which no other kernel ever has
  launched : Nat                      -- the cycle of its klaunch (R309)
  doomed  : Option Nat                -- a trap of this cycle ends it: the cause (R282, R285, R303)
  deriving DecidableEq, Repr

/-- A stream controller core and its registers (R284, R304, R336, R341, R346, R349, R350). -/
structure Die where
  core    : Scalar
  running : Bool
  ctxsel  : Nat
  trErr   : Bool
  trCtx   : Nat
  trKernel : Nat
  trHart  : Nat
  lpVa    : Nat
  lpLg    : Nat
  lpLimit : Word
  lpPos   : Word
  tfVa    : Nat
  tfLg    : Nat
  tfLimit : Word
  tfPos   : Word
  cmds    : List TierCmd
  fetched : Bool                      -- the core has fetched its next word and waits with it (R305)
  saving  : Option Nat                -- the context whose save or load a waiting ctxsave or ctxload has begun (R291, R300)
  killing : Option Nat                -- the kernel, by its order, that a waiting kkill has killed (R318)
  tlbWait : Option (List (Nat × Nat × Nat))  -- the query pins that a waiting tlbinv waits for: slot, block, and register or word (R330)
  xsel    : Nat
  sltsel  : BitVec 10
  bdsel   : Nat
  diece   : Word
  images  : List ImageEntry
  pendingLaunch : Option (Reg × Kernel × Bool)  -- a klaunch waiting for a scoreboard place, the kernel it read, and whether it read its image (R313, R316)
  srseed  : BitVec 32                 -- the kernel-level registers a core has of its own (log 18)
  missCount : BitVec 32
  mreg    : BitVec 4
  localreq : Word
  remotereq : Word
  deriving DecidableEq, Repr

/-- A queue that the device fills: the registers FQBASE and FQCTL, or PGQBASE and PGQCTL (R284, R333). -/
structure QueueReg where
  pa  : Nat
  off : Nat
  en  : Bool
  lg  : Nat
  deriving DecidableEq, Repr

/-- A context's registers (R284, R322, R333, R339, R340, R343, R346, R369). saved: the vector blocks and queues of its
harts while its image stands in memory (log 20). -/
structure Context where
  fq     : QueueReg
  tdeleg : BitVec 21
  state  : Nat
  ckill  : Bool
  disc   : Bool
  ptPa   : Nat
  ptEn   : Bool
  pgq    : QueueReg
  xpol   : Bool
  slotlg : Nat
  nslots : Nat
  slotbase : Nat
  nexp   : Nat
  expbase : Nat
  xwin   : Nat
  vquota : Nat
  scrwin : Nat
  mpart  : BitVec 4
  nextKid : Nat
  saved  : Tbl Hart
  savedClusters : Tbl Cluster
  savedRegions : List Region
  deriving DecidableEq, Repr

/-- An expert's state (R244). -/
inductive XState where
  | absent | fetching | resident | pinned
  deriving DecidableEq, Repr

/-- An entry of the Expert Residency Table (R244, R341). filled: replicas that have been filled, with their slots. -/
structure Expert where
  state   : XState
  slot    : Nat
  tier    : Nat
  reuse   : BitVec 8
  cost    : BitVec 8
  nextuse : BitVec 32
  counter : BitVec 16
  csat    : Bool
  staged  : BitVec 64
  filled  : List (BitVec 16 × Nat)
  started : Bool                      -- the fetch has its slot (R342)
  deriving DecidableEq, Repr

/-- A Vestibule record (R247): its context, the hart's slot, the expert, the token base and bits, and its readiness. -/
structure VestRec where
  ctx    : Nat
  slot   : Nat
  expert : Nat
  t0     : BitVec 32
  bits   : Mask
  count  : Nat
  ready  : Bool
  failed : Option Nat
  deriving DecidableEq, Repr

/-- A cached translation (R327): the context, the page's virtual address and size, and the leaf entry. -/
structure TlbEntry where
  ctx   : Nat
  va    : Nat
  lg    : Nat
  entry : Word
  deriving DecidableEq, Repr

/-- A base die (R347 to R349). beatAt: when its last heartbeat came, on the clock of wall; beat: the pointer that heartbeat carried; opened: the
subarray latches open in each bank, with the row each holds, the one hit last standing last; alerts: the rows whose counters have reached the threshold and whose
targeted refresh is still to come, and whether the query sequencer's activation did it; throttled: the banks limited after an alert. -/
structure BaseDie where
  cecnt   : Nat
  fbcount : Nat
  qpause  : Bool
  fb      : Bool
  th      : Nat
  qthr    : Word
  pointer : Nat                       -- the next row of the refresh order
  beat    : Nat
  beatAt  : Nat
  restarted : Bool
  beats   : Nat                       -- heartbeats since a restart
  throttled : List Nat
  opened  : List (Nat × Nat × Nat)    -- bank, subarray, row
  alerts  : List (Nat × Nat × Bool)   -- bank, row
  acts    : Tbl Nat                   -- activation counters, by 2^20 bank + row
  deriving DecidableEq, Repr

/-- An algorithm that the SPDM responder supports (R364). -/
inductive SpdmAlg where
  | ecdsaNistP256 | sha256
  deriving DecidableEq, Repr

/-- What R364 gives of an SPDM reply's content: the version, the algorithms, the measurements by index, or nothing. -/
inductive SpdmFact where
  | version (major minor : Nat)
  | algorithms (l : List SpdmAlg)
  | measurements (l : List (Nat × Nat))
  | standard
  deriving DecidableEq, Repr

/-- A reply in the DOE mailbox: what R364 gives of it, and the bytes that the standard fixes. -/
structure SpdmReply where
  fact : SpdmFact
  rest : List Byte
  deriving DecidableEq, Repr

/-- The debug registers (R353) and Sillage (R354). -/
structure Debug where
  sel   : Nat
  bp    : Vector Word 4
  div   : Bool
  src   : Nat
  smpPa : Nat
  smpTrace : Bool
  smpPer : Nat
  cl    : Nat
  silLg : Nat
  silPa : Nat
  silMode : Nat
  silSeq : Tbl Nat
  stops : Tbl (Nat × Bool)            -- slots whose harts stop at their next boundary: the source, and whether a breakpoint has matched (R353, R356)
  smpDue : List Nat                   -- slots whose harts owe a sample (R352)
  deriving DecidableEq, Repr

/-- A slot-table write waiting for its channel's turn (R346). -/
structure SltPending where
  stack : Nat
  chan  : Nat
  reg   : Nat
  value : Word
  deriving DecidableEq, Repr

/-- The whole machine. -/
structure State where
  mem      : List Host.Cell           -- keys of log 1
  harts    : Tbl Hart
  clusters : Tbl Cluster
  dies     : Vector Die 4
  ctxs     : Tbl Context
  kernels  : List Kernel
  regions  : List Region
  experts  : Tbl Expert               -- by device entry
  slots    : Tbl Nat                  -- device slots in use, with the device entry that has them
  vest     : List VestRec             -- oldest first
  pageWaits : List (Nat × Nat × Nat × Nat)  -- pages that engines asked the pager for: context, cluster, engine, page (R333; log 58)
  tlb      : List TlbEntry
  stackDown : List Nat                -- Cellar stacks whose link to the compute dies fails (R207)
  owners   : Tbl Nat                  -- by 4 KiB block of a scratchpad or plane store: the context that last stored to it (R294; log 65)
  bad      : List Nat                 -- uncorrectable 64-byte blocks, by the key of their first byte
  clkCur   : Bool
  clkReq   : Bool
  clkMHz   : Nat                      -- the arithmetic clock (R16)
  slt      : Tbl Word                 -- SLT0 to SLT3 and SLTDON by 256 (32 stack + channel) + index
  sltWaits : List SltPending
  base     : Tbl BaseDie
  dbg      : Debug
  errValid : Bool
  errPa    : Nat
  msvcPa   : Nat
  msvcEn   : Bool
  rung     : List Bool                -- the mailboxes rung and not yet served, oldest first: true the host's, false the runtime's (R359)
  monIrq   : List Nat                 -- base dies that have interrupted the monitor, oldest first (R348)
  mbox     : Tbl Byte                 -- the host mailbox, 4 KiB (R359)
  sctrap   : BitVec 4
  lbrk     : Bool
  fail     : Bool
  tmode    : BitVec 2
  stage    : Nat
  mhdmBase : Nat
  mhdmGib  : Nat
  lnode    : Vector (Nat × Nat) 12    -- first and last node of each port (R367)
  portDown : List Nat
  replays  : Tbl Nat                  -- flits in a row on a port whose CRC failed: a transmission and its replays (R361)
  sent     : List Flit                -- replies sent to peers
  tierLost : List Nat
  msix     : List Nat                 -- MSI-X vectors raised to the host
  sideband : List Nat                 -- codes reported on the sideband
  doe      : Option SpdmReply         -- the SPDM reply that stands in the DOE mailbox
  doeWait  : List (Nat × List Byte)   -- the requests that wait while the mailbox is busy: code and bytes, oldest first (R364)
  hostReply : Option (List Byte)      -- the data of the host's last read, of its memory range or of BAR0 (R357, R358)
  launches : Nat                      -- klaunches so far, for the order of R309
  time     : Nat                      -- arithmetic-clock cycles since reset
  wall     : Nat                      -- time since reset, in units of which every clock of R16 has a whole number in a cycle (log 8)
  recent   : List (Nat × Nat × Nat × List Byte)  -- the fault records of this cycle: context, place in R285's order, position in the queue, bytes
  steps    : Nat                      -- names the free values of each step
  rr       : Tbl Nat                  -- the slot that issued last, by cluster, stream and priority (R74)
  agenda   : List Turn                -- the turns that come next
  cur      : Party                    -- the party on turn
  deriving DecidableEq, Repr

/-! ### Reset -/

/-- Generator j with seed s; a result of 0 is replaced by 1 (R39). -/
def genSeed (seed : BitVec 32) (j : Nat) : BitVec 32 :=
  let g := seed + BitVec.ofNat 32 ((j + 1) * 0x9E3779B9)
  if g = 0 then 1 else g

/-- A scalar side at launch: every register zero (R59, R43), at a program counter. -/
def Scalar.launch (pc : Word) : Scalar :=
  ⟨pc, Vector.replicate 32 0, 0, 0, 0, genSeed 0 64⟩

def Token.idle : Token := ⟨.idle, 0, 0, 0⟩

def LoadQ.empty : LoadQ := ⟨[], []⟩

/-- A hart as it is launched (R59, R43, R53, R257): registers zero and full, VL 0. Its current replica sets are the home slots alone until its
first xlayer (DESIGN CHOICE, log 59: R249 does not give them). Its generators are as a write of SRSEED's reset value 0 would seed them (DESIGN
CHOICE, log 77: R39 seeds them on a write alone). -/
def Hart.launch (ctx kid hartid nregs lanes : Nat) (pc args scrbase : Word) (now wall : Nat) : Hart :=
  { ctx := ctx, kid := kid, hartid := hartid, sc := Scalar.launch pc, state := .running, waiting := false, vwait := false, half := none, reloc := 0, relocPins := [],
    full := BitVec.allOnes 64, sfull := BitVec.allOnes 16, v := [], stale := [],
    m := Vector.replicate 16 0, l := Vector.replicate 4 [], q := Vector.replicate 8 none,
    lq := Vector.replicate 4 LoadQ.empty, tok := Vector.replicate 8 Token.idle, qd := Vector.replicate 4 none,
    gen := Vector.ofFn fun j => genSeed 0 j.val, srseed := 0, vl := 0, nregs := nregs, blocks := [], blockSeq := 0,
    queries := [], grant := 0, nextGrant := none, lanes := lanes, cycle := 0, lanecyc := Vector.replicate 5 0, layer := 0, hsat := false,
    csat := false, vfull := false, mpromo := 0, localreq := 0, remotereq := 0, missCount := 0, mreg := 15, args := args,
    scrbase := scrbase, groups := [], parked := none, bars := [], barIn := none, fences := [], sets := [], holds := [], words := 0, digestDue := false, due := [], timed := none, stopDue := none, placedAt := now,
    lastIssue := wall, aged := 0, touched := [], retained := [] }

def Cluster.reset : Cluster :=
  { acc := [], accUser := Vector.replicate 4 none, chain := Vector.replicate 4 0, mcc := none, fillq := [], arrq := [],
    larder := [], refetch := [], copies := [], seq := none, bars := [], dirty := 0, allocs := [], granted := 0 }

/-- A stream controller core at reset: not started, every register at R284's and R304's reset values; s1 to s31 and pc
are 0 (DESIGN CHOICE, log 3: the manual gives them no reset value). -/
def Die.reset : Die :=
  { core := Scalar.launch 0, running := false, ctxsel := 0, trErr := false, trCtx := 0, trKernel := 0, trHart := 0,
    lpVa := 0, lpLg := 12, lpLimit := 0, lpPos := 0, tfVa := 0, tfLg := 12, tfLimit := 0, tfPos := 0, cmds := [], fetched := false, saving := none, killing := none, tlbWait := none, xsel := 0,
    sltsel := 0, bdsel := 0, diece := 0, images := [], pendingLaunch := none,
    srseed := 0, missCount := 0, mreg := 15, localreq := 0, remotereq := 0 }

def QueueReg.reset : QueueReg := ⟨0, 0, false, 4⟩

/-- A context at reset (R284, R339 to R346): free, TDELEG 0x8010. -/
def Context.reset : Context :=
  { fq := QueueReg.reset, tdeleg := 0x8010, state := 0, ckill := false, disc := false, ptPa := 0, ptEn := false,
    pgq := QueueReg.reset, xpol := false, slotlg := 16, nslots := 0, slotbase := 0, nexp := 0, expbase := 0, xwin := 0,
    vquota := 0, scrwin := 0, mpart := 0, nextKid := 0, saved := [], savedClusters := [], savedRegions := [] }

def Expert.reset : Expert :=
  { state := .absent, slot := 0, tier := 0, reuse := 0, cost := 0, nextuse := 0, counter := 0, csat := false, staged := 0,
    filled := [], started := false }

def BaseDie.reset : BaseDie :=
  { cecnt := 0, fbcount := 0, qpause := false, fb := false, th := 4096, qthr := 0, pointer := 0, beat := 0, beatAt := 0,
    restarted := false, beats := 0, throttled := [], opened := [], alerts := [], acts := [] }

def Debug.reset : Debug :=
  { sel := 0, bp := Vector.replicate 4 0, div := false, src := 0, smpPa := 0, smpTrace := false, smpPer := 0, cl := 0,
    silLg := 4, silPa := 0, silMode := 0, silSeq := [], stops := [], smpDue := [] }

/-- The machine right after reset (R7, R363): boot stage 0, no hart placed, memory listing nothing. -/
def State.reset : State :=
  { mem := [], harts := [], clusters := [], dies := Vector.replicate 4 Die.reset, ctxs := [], kernels := [], regions := [],
    experts := [], slots := [], vest := [], pageWaits := [], tlb := [], stackDown := [], owners := [], bad := [], clkCur := false, clkReq := false, clkMHz := 2100, slt := [],
    sltWaits := [], base := [], dbg := Debug.reset, errValid := false, errPa := 0, msvcPa := 0, msvcEn := false, rung := [], monIrq := [], mbox := [],
    sctrap := 0, lbrk := false, fail := false, tmode := 0, stage := 0, mhdmBase := 0, mhdmGib := 0,
    lnode := Vector.replicate 12 (0, 0), portDown := [], replays := [], sent := [], tierLost := [], msix := [], sideband := [],
    doe := none, doeWait := [], hostReply := none, launches := 0, time := 0, wall := 0, recent := [], steps := 0, rr := [], agenda := [], cur := .scc 0 }

end Sys2Proof.Machine
end

