-- ==== Sys2Proof/Machine/Mem.lean ====
section
/-! DEFINITION. Memory as bytes, translation, and the checks of one access (R4, R144 to R149, R189, R210, R211, R322
to R327). -/
namespace Sys2Proof.Machine

/-! ### Bytes -/

/-- What a byte that memory does not list reads as (log 2). -/
def unlistedByte : Byte := 0

/-- The byte at a key. -/
def Memory.read (k : Nat) : List Host.Cell → Byte
  | [] => unlistedByte
  | (a, v) :: t => if a = k then v else if k < a then unlistedByte else Memory.read k t

/-- Memory with the byte at a key replaced: the one place that keeps the canonical form. -/
def Memory.write (k : Nat) (v : Byte) : List Host.Cell → List Host.Cell
  | [] => if v = unlistedByte then [] else [(k, v)]
  | (a, w) :: t =>
    if k < a then (if v = unlistedByte then (a, w) :: t else (k, v) :: (a, w) :: t)
    else if k = a then (if v = unlistedByte then t else (k, v) :: t)
    else (a, w) :: Memory.write k v t

/-- The canonical form from a bound: keys strictly rising, no entry at the unlisted value. -/
def Memory.wfFrom (lo : Nat) : List Host.Cell → Bool
  | [] => true
  | (a, v) :: t => lo ≤ a && v != unlistedByte && Memory.wfFrom (a + 1) t

/-- Memory is in its canonical form. -/
def Memory.wf (m : List Host.Cell) : Bool := Memory.wfFrom 0 m

/-- n bytes from a key upward. -/
def Memory.reads (m : List Host.Cell) (k n : Nat) : List Byte := (upFrom k n).map fun a => Memory.read a m

/-- Bytes written from a key upward. -/
def Memory.writes (m : List Host.Cell) (k : Nat) : List Byte → List Host.Cell
  | [] => m
  | b :: bs => Memory.writes (Memory.write k b m) (k + 1) bs

/-! ### Keys (log 1) -/

def scratchKey (cluster off : Nat) : Nat := 2 ^ 64 + cluster * 2 ^ 21 + off
def planeKey (die off : Nat) : Nat := 2 * 2 ^ 64 + die * 2 ^ 22 + off
def hostKey (pa : Nat) : Nat := 3 * 2 ^ 64 + pa
def peerKey (node pa : Nat) : Nat := 4 * 2 ^ 64 + node * 2 ^ 38 + pa
def tierKey (loc : Nat) : Nat := 5 * 2 ^ 64 + loc

/-- Keys of the other stores on the device that R350 protects: the accumulators, the Larder, the vector registers and the wide accumulators. They hold no bytes of
memory; they name where an uncorrectable error lies. -/
def accKey (cluster cell : Nat) : Nat := 6 * 2 ^ 64 + cluster * 2 ^ 18 + 4 * cell
def larderKey (cluster granule : Nat) : Nat := 7 * 2 ^ 64 + cluster * 2 ^ 21 + 4096 * granule
def vregKey (slot elem : Nat) : Nat := 8 * 2 ^ 64 + slot * 2 ^ 18 + 4 * elem
def wideKey (word : Nat) : Nat := 9 * 2 ^ 64 + word

/-- The cluster and offset of a scratchpad key. -/
def keyScratch (k : Nat) : Option (Nat × Nat) :=
  if 2 ^ 64 ≤ k ∧ k < 2 ^ 64 + 2 ^ 29 then some ((k - 2 ^ 64) / 2 ^ 21, (k - 2 ^ 64) % 2 ^ 21) else none

/-- A key of working memory, 256 GiB (R322). -/
def isWorking (k : Nat) : Bool := k < 2 ^ 38

/-- A key of the Cellar, 1 TiB (R322). -/
def isCellar (k : Nat) : Bool := 2 ^ 40 ≤ k && k < 2 ^ 41

/-- A physical address that names memory (R322). -/
def physOk (k n : Nat) : Bool := (k + n ≤ 2 ^ 38) || (2 ^ 40 ≤ k && k + n ≤ 2 ^ 41)

/-! ### State access -/

def State.cluster (s : State) (c : Nat) : Cluster := tblGet Cluster.reset c s.clusters
def State.setCluster (s : State) (c : Nat) (x : Cluster) : State := { s with clusters := tblPut c x s.clusters }
def State.context (s : State) (c : Nat) : Context := tblGet Context.reset c s.ctxs
def State.setContext (s : State) (c : Nat) (x : Context) : State := { s with ctxs := tblPut c x s.ctxs }
def State.hart (s : State) (slot : Nat) : Option Hart := tblFind slot s.harts
def State.setHart (s : State) (slot : Nat) (h : Hart) : State := { s with harts := tblPut slot h s.harts }
def State.die (s : State) (d : Nat) : Die := s.dies.getD d Die.reset
def State.setDie (s : State) (d : Nat) (x : Die) : State := { s with dies := s.dies.setIfInBounds d x }
def State.expert (s : State) (n : Nat) : Expert := tblGet Expert.reset n s.experts
def State.setExpert (s : State) (n : Nat) (x : Expert) : State := { s with experts := tblPut n x s.experts }
def State.baseDie (s : State) (n : Nat) : BaseDie := tblGet BaseDie.reset n s.base
def State.setBaseDie (s : State) (n : Nat) (x : BaseDie) : State := { s with base := tblPut n x s.base }

/-- Bytes written at a key; a write to a scratchpad marks its 4 KiB blocks dirty (R292, R293). -/
def State.poke (s : State) (k : Nat) (bs : List Byte) : State :=
  let s1 := { s with mem := Memory.writes s.mem k bs }
  match keyScratch k with
  | some (c, o) =>
    if bs.isEmpty then s1 else
    let cl := s1.cluster c
    let mark := cl.dirty ||| (1 <<< (o / 4096)) ||| (1 <<< ((o + (bs.length - 1)) / 4096))
    s1.setCluster c { cl with dirty := mark }
  | none => s1

/-- A block of a scratchpad or a plane store belongs to the context that stores to it (R294; log 65). -/
def State.own (s : State) (ctx k : Nat) : State :=
  if 2 ^ 64 ≤ k && k < 3 * 2 ^ 64 then { s with owners := tblPut (k / 4096) ctx s.owners } else s

/-- Bytes that a context writes at a key. -/
def State.pokeBy (s : State) (ctx k : Nat) (bs : List Byte) : State := (s.own ctx k).poke k bs

def State.peek (s : State) (k n : Nat) : List Byte := Memory.reads s.mem k n
def State.peekNat (s : State) (k n : Nat) : Nat := leNat (s.peek k n)
def State.pokeNat (s : State) (k n v : Nat) : State := s.poke k (leBytes n v)

/-- A range of bytes zeroed: every listed byte in it is removed. -/
def State.zeroRange (s : State) (k n : Nat) : State :=
  { s with mem := s.mem.filter fun c => !(k ≤ c.1 && c.1 < k + n) }

/-! ### Translation -/

/-- Who makes an access: its context, its cluster if it has one, its die, whether it runs at supervisor level, the
hart it counts as for plane regions (R111, R211), and which engine of its cluster it is, 0 for a hart (R333; log 58). -/
structure Who where
  ctx     : Nat
  cluster : Option Nat
  die     : Nat
  super   : Bool
  kid     : Nat
  hart    : Nat
  groups  : List Nat
  eng     : Nat
  deriving DecidableEq, Repr

/-- What an access does, as R326 and R189 distinguish it. -/
inductive Use where
  | load | store | atomic | query | fetch | cadd
  deriving DecidableEq, Repr

/-- The log of the page size of a size code (R323). -/
def pageLg (size : Nat) : Option Nat :=
  match size with
  | 0 => some 12
  | 1 => some 16
  | 2 => some 21
  | 3 => some 25
  | 4 => some 29
  | _ => none

/-- Bits hi:lo of a page entry. -/
def entryField (e : Word) (hi lo : Nat) : Nat := e.field hi lo

/-- Whether a leaf entry found at a level is well formed (R323 to R326): its page's size. -/
def leafOk (e : Word) (level : Nat) : Option Nat :=
  let kind := entryField e 61 59
  let size := entryField e 58 56
  let place := entryField e 55 54
  let die := entryField e 53 52
  let frame := entryField e 51 12 * 4096
  match pageLg size with
  | none => none
  | some lg =>
    let fits := (level == 0 && size ≤ 1) || (level == 1 && 2 ≤ size)
    let maxOk := !(kind == 2 || kind == 3 || kind == 7) || lg ≤ 21
    let aligned := frame % 2 ^ lg == 0
    let range :=
      match kind with
      | 0 => frame + 2 ^ lg ≤ 2 ^ 38
      | 1 => 2 ^ 40 ≤ frame && frame + 2 ^ lg ≤ 2 ^ 41
      | 2 => frame < 2 ^ 21
      | 3 => frame < 2 ^ 29
      | 5 => frame / 2 ^ 38 % 4 == 0
      | 7 => frame < 2 ^ 21
      | _ => true
    let dieOk := die == 0 || (kind == 0 && place == 1) || kind == 7 || (kind == 6 && die < 2)
    let placeOk := place == 0 || (kind == 0 && place < 3)
    if fits && maxOk && aligned && range && dieOk && placeOk && entryField e 7 0 == 0 then some lg else none

/-- The walk from a level's table down (R323): the leaf and its page size, or none (cause 0x04). -/
def walkFrom (s : State) (va : Nat) : Nat → Nat → Option (Word × Nat)
  | 0, _ => none
  | n + 1, table =>
    let e : Word := BitVec.ofNat 64 (s.peekNat (table + (va / 2 ^ (12 + 9 * n) % 512) * 8) 8)
    if entryField e 63 63 == 0 then none
    else if entryField e 62 62 == 1 then
      (if n ≤ 1 then (leafOk e n).map fun lg => (e, lg) else none)
    else if entryField e 61 52 != 0 || entryField e 11 0 != 0 || entryField e 51 38 != 0 then none
    else walkFrom s va n (entryField e 51 12 * 4096)

/-- The cached translation that covers an address (R327). -/
def tlbFind (ctx va : Nat) (t : List TlbEntry) : Option TlbEntry :=
  t.find? fun e => e.ctx == ctx && e.va ≤ va && va < e.va + 2 ^ e.lg

/-- The leaf entry for an address: the cached translation, or the walk's (R323, R327); none is cause 0x04. -/
def State.leaf (s : State) (ctx va : Nat) : Option (Word × Nat) :=
  if 2 ^ 57 ≤ va then none else
  match tlbFind ctx va s.tlb with
  | some e => some (e.entry, e.lg)
  | none =>
    let c := s.context ctx
    if c.ptEn && c.ptPa < 2 ^ 38 then walkFrom s va 5 c.ptPa else none

/-- The translation cache after a successful translation: a valid leaf entry is kept until a tlbinv (R327; log 9). -/
def State.touch (s : State) (ctx va : Nat) : State :=
  match tlbFind ctx va s.tlb with
  | some _ => s
  | none =>
    match s.leaf ctx va with
    | some (e, lg) => { s with tlb := ⟨ctx, va / 2 ^ lg * 2 ^ lg, lg, e⟩ :: s.tlb }
    | none => s

/-- The translation that a pin keeps, in the cache (R327, R329). -/
def State.keepPin (s : State) (ctx : Nat) (p : Pin) : State :=
  match tlbFind ctx p.va s.tlb with
  | some _ => s
  | none => { s with tlb := ⟨ctx, p.va, p.lg, p.entry⟩ :: s.tlb }

/-- The state as the holder of some pins translates: through them first, whatever a tlbinv has dropped since (R329, R330). -/
def State.withPins (s : State) (ctx : Nat) (ps : List Pin) : State :=
  { s with tlb := ps.map (fun p => ⟨ctx, p.va, p.lg, p.entry⟩) ++ s.tlb }

/-- The pin on the page of an address; none where it does not translate (R328). -/
def State.pinAt (s : State) (ctx va : Nat) (query : Bool) : Option Pin :=
  (s.leaf ctx va).map fun e => ⟨va / 2 ^ e.2 * 2 ^ e.2, e.2, e.1, query⟩

/-- The permission checks of a use on a page (R326, R189, R111): a cause, when it fails. -/
def useCause (u : Use) (super : Bool) (e : Word) : Option Nat :=
  let kind := entryField e 61 59
  let r := entryField e 11 11 == 1
  let w := entryField e 10 10 == 1
  let x := entryField e 9 9 == 1
  let sup := entryField e 8 8 == 1
  let cellar := kind == 1
  if cellar && (u == .load || u == .atomic || u == .fetch) then some 6
  else if sup && !super then some 5
  else if kind == 6 then some 5
  else match u with
    | .load => if r then none else some 5
    | .store => if w then none else some 5
    | .atomic => if w then none else some 5
    | .query => if cellar && r then none else some 5
    | .fetch => if x && r then none else some 5
    | .cadd => if cellar && w then none else some 5

/-- The home die of a working byte (R148). -/
def homeDie (e : Word) (pa : Nat) : Nat :=
  let b (i : Nat) : Nat := pa / 2 ^ i % 2
  match entryField e 55 54 with
  | 0 => 2 * ((b 13 + b 17 + b 22 + b 27 + b 33) % 2) + (b 12 + b 15 + b 19 + b 24 + b 30) % 2
  | 1 => entryField e 53 52
  | _ => pa / 2 ^ 21 % 4

/-- Where the byte of an address lies under its leaf entry (R325). A local scratchpad page names the accessor's own
cluster; none: the accessor has no scratchpad. -/
def placeOf (w : Who) (e : Word) (lg va : Nat) : Option Place :=
  let frame := entryField e 51 12 * 4096
  let a := frame + va % 2 ^ lg
  match entryField e 61 59 with
  | 0 => some ⟨0, a, homeDie e a⟩
  | 1 => some ⟨1, a, a / 2 ^ 37 % 8⟩
  | 2 => w.cluster.map fun c => ⟨2, scratchKey c (a % 2 ^ 21), c⟩
  | 3 => some ⟨3, scratchKey (a / 2 ^ 21 % 256) (a % 2 ^ 21), a / 2 ^ 21 % 256⟩
  | 4 => some ⟨4, hostKey a, 0⟩
  | 5 => some ⟨5, peerKey (a / 2 ^ 40) (a % 2 ^ 38), a / 2 ^ 40⟩
  | 7 => some ⟨7, planeKey (entryField e 53 52) (a % 2 ^ 21), entryField e 53 52⟩
  | _ => none

/-- The first key of a bound region. -/
def Region.key (r : Region) : Nat := if r.scratch then scratchKey r.home r.off else planeKey r.home r.off

/-- The 4 KiB blocks of a region and of its scratchpad shadow. -/
def Region.blocks (r : Region) : Nat := (if r.scratch then 2 * r.size else r.size) / 4096

/-- The bound region that holds a key (R209). -/
def regionAt (rs : List Region) (k : Nat) : Option Region := rs.find? fun r => r.key ≤ k && k < r.key + r.size

/-- The key lies in the scratchpad shadow of a bound region, or in a plane store outside every region (R210). -/
def unreachable (rs : List Region) (k : Nat) : Bool :=
  rs.any (fun r => r.scratch && r.key + r.size ≤ k && k < r.key + 2 * r.size) ||
  (2 * 2 ^ 64 ≤ k && k < 3 * 2 ^ 64 && (regionAt rs k).isNone)

/-- Translate one address for a use: its place, or the cause (R326, R111, R144, R210). -/
def State.xlate (s : State) (w : Who) (u : Use) (va : Nat) : Except Nat Place :=
  match s.leaf w.ctx va with
  | none => .error 4
  | some (e, lg) =>
    match useCause u w.super e with
    | some c => .error c
    | none =>
      match placeOf w e lg va with
      | none => .error 5
      | some p =>
        if unreachable s.regions p.key then .error 5
        else if u == .atomic && (regionAt s.regions p.key).isSome then .error 5
        else .ok p

/-- A peer node's port is absent or down (R361). -/
def State.peerLost (s : State) (node : Nat) : Bool :=
  match (List.range 12).find? fun j => let (a, b) := s.lnode.getD j (0, 0); a ≤ node && node ≤ b with
  | some j => s.portDown.contains j
  | none => true

/-- A store to a place cannot reach it: a peer port that is absent or down, or a Cellar stack whose link to the compute dies has failed (R207, R361). -/
def State.linkLost (s : State) (p : Place) : Bool := (p.kind == 5 && s.peerLost p.home) || (p.kind == 1 && s.stackDown.contains p.home)

/-- The uncorrectable block that holds a key (R350). -/
def State.badBlock (s : State) (k : Nat) : Option Nat := s.bad.find? fun b => b ≤ k && k < b + 64

/-- The first uncorrectable block that meets n bytes from a key on (R350). -/
def State.badIn (s : State) (k n : Nat) : Option Nat := s.bad.find? fun b => b < k + n && k < b + 64

/-- ERRLOG after an uncorrectable block is met: pa names its block (R350). Stores without a physical address leave pa. -/
def State.logError (s : State) (k : Nat) : State :=
  if k < 2 ^ 52 then { s with errValid := true, errPa := k / 64 * 64 } else { s with errValid := true }

/-- The pieces of an access: the parts that lie in one aligned 16-byte block each (R111, R145). -/
def pieces (va n : Nat) : List (Nat × Nat) :=
  let first := 16 - va % 16
  if n ≤ first then [(va, n)] else [(va, first), (va + first, n - first)]

/-- The request counts of touched working blocks (R149): local and remote. Blocks are given as places. -/
def countReqs (die : Nat) (ps : List Place) : Nat × Nat :=
  let bs := (ps.filter fun p => p.kind == 0).map fun p => (p.key / 64, p.home)
  let ds := bs.eraseDups
  ((ds.filter fun b => b.2 == die).length, (ds.filter fun b => b.2 != die).length)

/-! ### Plane regions: stores and their claims (R211 to R214) -/

/-- The aligned 4-byte words of a region that a store touches, as offsets (R211). -/
def claimWords (off n : Nat) : List Nat := (upFrom (off / 4) ((off + n + 3) / 4 - off / 4)).map (4 * ·)

/-- The words of a region already claimed in the step in progress: those stored to, and those that vector words in issue hold (R211). -/
def Region.claimed (r : Region) : List Nat :=
  ((r.stores.flatMap fun p => claimWords p.off p.bytes.length) ++ r.held.map (·.2)).eraseDups

/-- The die of a region (R210). -/
def Region.die (r : Region) : Nat := if r.scratch then r.home / 64 else r.home

/-- Wide accumulators that the regions of a die have drawn (R213): the words claimed under SUM. -/
def State.poolUsed (s : State) (die : Nat) : Nat :=
  ((s.regions.filter fun r => r.rule == 1 && r.die == die).map fun r => r.claimed.length).sum

/-- A store's form, as SUM admits it (R213): an aligned scalar word of 4 bytes, any other scalar store or a stream's element, or a vector or copy
format. -/
inductive StoreForm where
  | word4
  | other
  | fmt (code : Nat)
  deriving DecidableEq, Repr

/-- Whether a region's SUM type admits the form of a store (R213). -/
def sumAdmits (type : Nat) (f : StoreForm) : Bool :=
  match f with
  | .word4 => true
  | .other => false
  | .fmt c => c == (if type == 0 then 0 else if type == 1 then 7 else 11)

/-- Whether a hart is a member of a group; group 0 is its own kernel's (R58). -/
def Who.member (w : Who) (r : Region) : Bool :=
  w.ctx == r.ctx && (if r.group == 0 then w.kid == r.kid else w.groups.contains r.group)

/-- Words claimed by earlier pieces or elements of the same word, by the first key of their region. -/
abbrev Extra := List (Nat × Nat)

/-- Accumulators that words claimed by the same word have drawn from a die's pool beside those that the regions hold (R213). -/
def State.extraDrawn (s : State) (die : Nat) (extra : Extra) : Nat :=
  (extra.eraseDups.filter fun x => match s.regions.find? fun r => r.key == x.1 with
    | some r => r.rule == 1 && r.die == die && !r.claimed.contains x.2
    | none => false).length

/-- The cause a store to a region meets at its claim (R211, R213, R214): extra are words claimed earlier by the same word. R211 and R213 give
no order of their causes: membership is tested before the form (DESIGN CHOICE, log 54). -/
def planeCause (s : State) (w : Who) (r : Region) (off n : Nat) (f : StoreForm) (extra : Extra) : Option Nat :=
  let ws := claimWords off n
  let had := r.claimed ++ (extra.filter fun x => x.1 == r.key).map (·.2)
  if !w.member r then some 12
  else match r.rule with
    | 1 =>
      if !sumAdmits r.type f then some 5
      else
        let fresh := (ws.filter fun x => !had.contains x).length
        if 0 < fresh && 8192 < s.poolUsed r.die + s.extraDrawn r.die extra + fresh then some 11 else none
    | 2 => if ws.any fun x => had.contains x then some 10 else none
    | _ => none

/-- The state with a store added to the step in progress of the region that holds a key. -/
def State.planeStore (s : State) (w : Who) (k : Nat) (bs : List Byte) (part : Nat) : State :=
  { s with regions := s.regions.map fun r =>
      if r.key ≤ k && k < r.key + r.size
      then { r with stores := r.stores ++ [⟨k - r.key, bs, part, w.kid, w.hart⟩] } else r }

/-- Bytes stored at a place: into the next plane of a bound region, else into memory (R111, R211). -/
def State.storeAt (s : State) (w : Who) (k : Nat) (bs : List Byte) : State :=
  match regionAt s.regions k with
  | some _ => s.planeStore w k bs 0
  | none => s.pokeBy w.ctx k bs

/-- A byte with one of its nibbles replaced (R145). -/
def nibMerge (old : Byte) (upper : Bool) (code : Nat) : Byte :=
  BitVec.ofNat 8 (if upper then old.toNat % 16 + code % 16 * 16 else old.toNat / 16 * 16 + code % 16)

/-- A nibble stored into the byte at a key: merged into memory's byte, or kept as a nibble of a region's next plane (R145, R211). -/
def State.storeNib (s : State) (w : Who) (k : Nat) (upper : Bool) (code : Nat) : State :=
  match regionAt s.regions k with
  | some _ => s.planeStore w k [nibMerge 0 upper code] (if upper then 2 else 1)
  | none => s.pokeBy w.ctx k [nibMerge (Memory.read k s.mem) upper code]

/-- A store of the step in progress made present: its bytes, or its nibble merged into the byte as it then stands (R145, R212). -/
def State.perform (s : State) (base : Nat) (p : PlaneStore) : State :=
  let k := base + p.off
  match p.part, p.bytes with
  | 0, bs => s.poke k bs
  | n, b :: _ => s.poke k [nibMerge (Memory.read k s.mem) (n == 2) (if n == 2 then b.toNat / 16 else b.toNat)]
  | _, [] => s

/-- Words of regions claimed for a slot's vector word in issue, and given up again (R211). -/
def State.holdClaims (s : State) (slot : Nat) (xs : Extra) : State :=
  if xs.isEmpty then s else
  { s with regions := s.regions.map fun r =>
      { r with held := r.held ++ (xs.filter fun x => x.1 == r.key).map fun x => (slot, x.2) } }

def State.releaseClaims (s : State) (slot : Nat) : State :=
  if s.regions.all fun r => r.held.isEmpty then s else
  { s with regions := s.regions.map fun r => { r with held := r.held.filter fun x => x.1 != slot } }

/-- A slot's word in issue holds a claim of every word of a store (R211). -/
def Region.holds (r : Region) (slot : Nat) (ws : List Nat) : Bool := ws.all fun x => r.held.contains (slot, x)

/-- The claims of a store that is performed are no longer held: the store itself stands for them. -/
def State.useClaims (s : State) (slot key : Nat) (ws : List Nat) : State :=
  { s with regions := s.regions.map fun r =>
      if r.key == key then { r with held := ws.foldl (fun l x => l.erase (slot, x)) r.held } else r }

/-! ### Scalar accesses (R110, R111) -/

/-- The access field of a fault record (R286). -/
def accessField (kind cls fmt : Nat) (indexed : Bool) : Nat :=
  kind + cls * 16 + fmt * 256 + (if indexed then 2 ^ 14 else 0)

/-- Translate each piece of an access, in ascending address: the places, or the trap of the first that fails. -/
def State.xlatePieces (s : State) (w : Who) (u : Use) (kind cls : Nat) (ps : List (Nat × Nat)) :
    Except Trap (List (Place × Nat)) :=
  ps.mapM fun (va, n) =>
    match s.xlate w u va with
    | .ok p => .ok (p, n)
    | .error c => .error { cause := c, addr := va, access := accessField kind cls 0 false }

/-- A host or peer access of two pieces (R111). -/
def twoPieceOutside (ps : List (Place × Nat)) : Bool :=
  1 < ps.length && ps.any fun p => p.1.kind == 4 || p.1.kind == 5

/-- An error met by a read at its places: a lost peer link or an uncorrectable block (R111, R350, R361). -/
def State.readError (s : State) (ps : List (Place × Nat)) : Option (Nat × Nat) :=
  ps.findSome? fun (p, n) =>
    if p.kind == 5 && s.peerLost p.home then some (0x14, p.key)
    else if s.bad.any fun b => b < p.key + n && p.key < b + 64 then some (9, p.key)
    else none

/-- The state that translated the pages of an access. -/
def State.touchAll (s : State) (ctx : Nat) (ps : List (Nat × Nat)) : State :=
  ps.foldl (fun t p => t.touch ctx p.1) s

/-- A load of n bytes (R110, R111): the value and the places read, or the trap. The state keeps the translations, and
ERRLOG when an error is met. -/
def State.load (s : State) (w : Who) (kind cls va n : Nat) : State × Except Trap (Nat × List Place) :=
  let tr (c : Nat) : Trap := { cause := c, addr := va, access := accessField kind cls 0 false }
  if 2 ^ 57 ≤ va then (s, .error (tr 4)) else
  let ps := pieces va n
  match s.xlatePieces w .load kind cls ps with
  | .error t => (s, .error t)
  | .ok pl =>
    let s1 := s.touchAll w.ctx ps
    if twoPieceOutside pl then (s, .error (tr 3))
    else match s.readError pl with
      | some (c, k) => (if c == 9 then s1.logError k else s1, .error (tr c))
      | none => (s1, .ok (leNat (pl.flatMap fun (p, m) => s.peek p.key m), pl.map (·.1)))

/-- The claims of a store's pieces, decided before any byte is performed (R211). -/
def State.claims (s : State) (w : Who) (f : StoreForm) (ps : List (Place × Nat)) : Option Nat :=
  (ps.foldl (fun (acc : Option Nat × Extra) p =>
    match acc.1 with
    | some _ => acc
    | none =>
      match regionAt s.regions p.1.key with
      | none => acc
      | some r =>
        let off := p.1.key - r.key
        (planeCause s w r off p.2 f acc.2, acc.2 ++ (claimWords off p.2).map fun x => (r.key, x)))
    (none, [])).1

/-- A store of n bytes (R110, R111, R211): nothing of a store that traps is performed. -/
def State.store (s : State) (w : Who) (kind cls va n v : Nat) (f : StoreForm) : State × Except Trap (List Place) :=
  let tr (c : Nat) : Trap := { cause := c, addr := va, access := accessField kind cls 0 false }
  if 2 ^ 57 ≤ va then (s, .error (tr 4)) else
  let ps := pieces va n
  match s.xlatePieces w .store kind cls ps with
  | .error t => (s, .error t)
  | .ok pl =>
    let s1 := s.touchAll w.ctx ps
    if twoPieceOutside pl then (s, .error (tr 3))
    else if pl.any fun p => s.linkLost p.1 then (s1, .error (tr 0x14))
    else match s.claims w f pl with
      | some c => (s1, .error (tr c))
      | none =>
        let bytes := leBytes n v
        (((pl.foldl (fun (acc : State × List Byte) p =>
            (acc.1.storeAt w p.1.key (acc.2.take p.2), acc.2.drop p.2)) (s1, bytes))).1, .ok (pl.map (·.1)))

end Sys2Proof.Machine
end

