-- ==== Sys2Proof/Machine/Ops.lean ====
section
/-! DEFINITION. The operations every meaning shares: the scalar side of each party, waiting and trapping, the fault
queue and its record, taking a trap and returning from one, and the decision that kills a kernel (R282 to R290,
R299). -/
namespace Sys2Proof.Machine

/-- What a step answers. -/
abbrev Out := Host.Outcome State Fault Refusal

/-- Why a word is not performed: it waits, it traps, or the device met an address that is no memory. -/
inductive Stop where
  | wait
  | trap (t : Trap)
  | fault (f : Fault)
  deriving DecidableEq, Repr

/-- A result that may stop, with the state as it then stands. -/
abbrev Res (α : Type) := Except (State × Stop) α

/-! ### Scalar registers -/

/-- A register read: s0 reads as zero (R103). -/
def Scalar.get (c : Scalar) (r : Reg) : Word := if r = 0 then 0 else c.x.get r.toFin

/-- A register write: a write to s0 is discarded (R103). -/
def Scalar.set (c : Scalar) (r : Reg) (v : Word) : Scalar := if r = 0 then c else { c with x := c.x.set r.toNat v r.isLt }

/-- The next scalar word. -/
def Scalar.advance (c : Scalar) : Scalar := { c with pc := c.pc + 4 }

/-! ### Parties -/

/-- The cluster of a slot (R13) and the die of a cluster (R11). -/
def slotCluster (slot : Nat) : Nat := slot / 8
def clusterDie (c : Nat) : Nat := c / 64

/-- The scalar side of a party, when the party exists. -/
def State.scalar (s : State) : Party → Option Scalar
  | .vec slot => (s.hart slot).map (·.sc)
  | .mcc c => (s.cluster c).mcc.map (·.sc)
  | .seq c => (s.cluster c).seq.map (·.sc)
  | .scc d => if d < 4 then some (s.die d).core else none

/-- The state with a party's scalar side replaced. -/
def State.setScalar (s : State) (p : Party) (c : Scalar) : State :=
  match p with
  | .vec slot => match s.hart slot with
    | some h => s.setHart slot { h with sc := c }
    | none => s
  | .mcc k =>
    let cl := s.cluster k
    match cl.mcc with
    | some m => s.setCluster k { cl with mcc := some { m with sc := c } }
    | none => s
  | .seq k =>
    let cl := s.cluster k
    match cl.seq with
    | some q => s.setCluster k { cl with seq := some { q with sc := c } }
    | none => s
  | .scc d => s.setDie d { s.die d with core := c }

/-- The slot of the hart that a party is or was forked by. -/
def State.ownerSlot (s : State) : Party → Option Nat
  | .vec slot => some slot
  | .mcc c => (s.cluster c).mcc.map (·.slot)
  | .seq c => (s.cluster c).seq.map (·.slot)
  | .scc _ => none

/-- A hart as the one that makes an access (R111, R211). -/
def Hart.who (h : Hart) (slot : Nat) : Who :=
  ⟨h.ctx, some (slotCluster slot), clusterDie (slotCluster slot), false, h.kid, h.hartid, h.groups, 0⟩

/-- Who makes a party's accesses. A forked program counts as its forking hart; a stream controller core translates
through context 0 (DESIGN CHOICE, log 6). -/
def State.who (s : State) (p : Party) : Who :=
  match p with
  | .scc d => ⟨0, none, d, true, 0xFFFF, 0xFFFFFFFF, [], 0⟩
  | q =>
    match (s.ownerSlot q).bind fun slot => (s.hart slot).map fun h => h.who slot with
    | some w => { w with eng := match q with
        | .mcc _ => 4
        | .seq _ => 5
        | _ => 0 }
    | none => ⟨0, none, 0, false, 0xFFFF, 0xFFFFFFFF, [], 0⟩

/-- Add to a hart's request registers (R149). -/
def State.countFor (s : State) (p : Party) (n : Nat × Nat) : State :=
  match s.ownerSlot p with
  | none =>
    match p with
    | .scc d =>
      let x := s.die d
      s.setDie d { x with localreq := x.localreq + BitVec.ofNat 64 n.1, remotereq := x.remotereq + BitVec.ofNat 64 n.2 }
    | _ => s
  | some slot => match s.hart slot with
    | none => s
    | some h => s.setHart slot
        { h with localreq := h.localreq + BitVec.ofNat 64 n.1, remotereq := h.remotereq + BitVec.ofNat 64 n.2 }

/-- The cycles of its convoys that a hart's clock has still to pass (R63): those of cycles that no element joins any more. -/
def Hart.lead (h : Hart) : Nat := ((h.due.filter fun x => !x.filling).map (·.cycles)).sum

/-- Every earlier vector word of the hart has committed, in its time, and every register it marked empty is full (R63, R115). A producer of a load queue
that is still to be restarted after a stop has committed, so a read of the request counts does not wait for it (DESIGN CHOICE, log 53: R149 counts its
requests again, and R266 asks that earlier words have committed). -/
def Hart.quiet (h : Hart) : Bool := h.blocks.isEmpty && h.queries.isEmpty && h.due.isEmpty

/-- VIDX (R55): the position at which the vector stream resumes, 0 when it has no unfinished word. -/
def Hart.vidx (h : Hart) : Word :=
  match h.blocks with
  | [] => 0
  | b :: _ => ((b.pc >>> 3) <<< 10) ||| Word.place b.elem 9 0

/-! ### Registers of the vector side -/

/-- The key of element i of v(r). -/
def elemKey (r i : Nat) : Nat := 1024 * r + i

/-- An element of a vector register (R59): what was written, zero where nothing was, and an unstated value where the
register's contents are not given (log 12). -/
def Hart.elem (h : Hart) (r i : Nat) : Slot :=
  match tblFind (elemKey r i) h.v with
  | some x => x
  | none =>
    match (tblGet [] r h.stale).find? fun b => b.1 ≤ i with
    | some b => Config.staleElem b.2 r i
    | none => 0

/-- An element written. -/
def Hart.setElem (h : Hart) (r i : Nat) (x : Slot) : Hart := { h with v := tblPut (elemKey r i) x h.v }

/-- A mask register's contents; m0 reads all ones (R62). -/
def Hart.mask (h : Hart) (j : Nat) : Mask := if j = 0 then BitVec.allOnes 1024 else h.m.getD j 0

/-- MVL (R59). -/
def mvlOf (nregs : Nat) : Nat := 8192 / nregs

/-- The register elements of a query's remaining replies written, and its destination full (R65, R197). -/
def Hart.commitQuery (h : Hart) (q : Query) : Hart :=
  let h1 := q.writes.foldl (fun g w => g.setElem w.1 w.2.1 w.2.2) h
  { h1 with full := h1.full ||| (1 <<< q.vd) ||| (if q.pair then 1 <<< (q.vd + 1) else 0) }

/-- The producers of discarded entries, oldest first: each with its first entry's element and, as the VL of its environment,
the bound of its entries (R71). Entries of one producer stand next to each other in rising elements. -/
def rewindRuns : List Rewind → List Rewind
  | [] => []
  | r :: t =>
    match rewindRuns t with
    | x :: xs =>
      if x.waddr == r.waddr && x.elem == r.elem + 1 && x.env == { r.env with vl := x.env.vl } then { r with env := x.env } :: xs
      else { r with env := { r.env with vl := r.elem + 1 } } :: x :: xs
    | [] => [{ r with env := { r.env with vl := r.elem + 1 } }]

/-- A queue at a stop: its entries are discarded and their producers recorded (R71). Producers still to be restarted are younger than any
producer whose entries stand in the queue, since nothing else pushes before they have restarted. -/
def LoadQ.rewound (q : LoadQ) : LoadQ := ⟨[], rewindRuns (q.entries.map (·.2)) ++ q.restart⟩

/-- A stream at a stop: its unconsumed fetched elements are discarded, and a fetch that failed is tried again from the first of them
(R71, R160). -/
def Stream.rewound (t : Stream) : Stream := if t.write then t else { t with fetched := [], err := none }

/-- A part of a cut convoy after a stop: its first word probes afresh (R72), so of its trap only cause 0x01, which its words alone decide (R135),
is still to be raised. -/
def LaterPart.afresh (p : LaterPart) : LaterPart := { p with trap := p.trap.filter fun t => t.1.cause == 1 }

/-- A block whose convoy is not in issue: what the convoy read early is discarded, and its pins are released (R70, R329). -/
def Block.unissued (b : Block) : Block :=
  { b with issued := false, sent := [], vls := [], perm := [], ahead := [], pins := [], tied := false, parts := b.parts.map LaterPart.afresh }

/-- A block whose convoy has completed: the next word begins whole at element 0, or the next part of a cut convoy at the element where that issued
(R72). -/
def Block.moveOn (b : Block) (next : Word) : Block :=
  match b.parts with
  | [] => { b.unissued with pc := next, elem := 0, cut := 0 }
  | p :: ps => { ({ b with parts := ps } : Block).unissued with pc := next, elem := p.elem, cut := p.members }

/-- The trap to be raised when the convoy of a block has completed: that of the word it was cut short before (R72). -/
def Block.trapNext (b : Block) : Option (Trap × Option Nat) := b.parts.head?.bind (·.trap)

/-- A cycle that a stop leaves open ends with the slots of its elements to come in their classes; the lanes of a member that does not come to them stand
idle (R64, R264). -/
def Spent.close (x : Spent) (grant : Nat) : Spent :=
  if !x.filling then x else
  let u := x.useful + x.rest.1
  let m := x.masked + x.rest.2.1
  let b := x.beyond + x.rest.2.2
  { x with useful := u, masked := m, beyond := b, idle := grant * x.cycles - (u + m + b), filling := false, rest := (0, 0, 0) }

/-- The blocks at a stop: the front one stands at its resume position, not issued. -/
def blocksAtFront : List Block → List Block
  | [] => []
  | b :: t => b.unissued :: t

/-- The hart's streams at a stop (R66, R70, R71): issued queries are committed, every register is full, unconsumed queue
entries are discarded and their producers recorded, a creloc is abandoned (R204), and the cycle in which the stop lands ends (R264). -/
def Hart.atFront (h : Hart) (awaitQueries : Bool) : Hart :=
  let h1 := if awaitQueries then h.queries.foldl (fun g q => g.commitQuery q) h else h
  { h1 with queries := [], reloc := 0, relocPins := [], blocks := blocksAtFront h1.blocks, full := BitVec.allOnes 64, sfull := BitVec.allOnes 16,
            due := h1.due.map fun x => x.close h1.grant, lq := h1.lq.map LoadQ.rewound, q := h1.q.map (·.map Stream.rewound) }

/-! ### Pins (R328, R329) -/

/-- The pins that a hart holds: those of its convoy in issue, of its queries in flight, of a scalar access between its pieces, and of a creloc under
way. -/
def Hart.pins (h : Hart) : List Pin :=
  (h.blocks.flatMap fun b => if b.issued then b.pins else []) ++ h.queries.flatMap (·.pins) ++ (optPins h.half) ++ h.relocPins
where
  /-- The pins of a scalar access between its pieces. -/
  optPins : Option Half → List Pin
    | some x => x.pins
    | none => []

/-- A pin keeps a translation of some of n addresses in use. -/
def Pin.meets (p : Pin) (va n : Nat) : Bool := p.va < va + n && va < p.va + 2 ^ p.lg

/-- A vector word of a context holds a pin on some of n addresses. -/
def State.pinsOn (s : State) (ctx va n : Nat) : Bool := s.harts.any fun e => e.2.ctx == ctx && e.2.pins.any fun p => p.meets va n

/-! ### Rows of the stacks (R347, R349) -/

/-- A row of a bank activated: its counter counts, and from the threshold on an alert is due until its targeted refresh clears the counter (R349).
Counters stand at 2^20 bank + row. -/
def BaseDie.activate (b : BaseDie) (bank row : Nat) (query : Bool) : BaseDie :=
  let n := tblGet 0 (2 ^ 20 * bank + row) b.acts + 1
  let b1 := { b with acts := tblPut (2 ^ 20 * bank + row) n b.acts }
  if b.th ≤ n && !b.alerts.any (fun x => x.1 == bank && x.2.1 == row) then { b1 with alerts := b1.alerts ++ [(bank, row, query)] } else b1

/-- A bank command of the query sequencer (R347): a row that no latch of its subarray holds is activated; its latch is the one hit last; a fifth
subarray of the bank closes the one hit longest ago. Which commands a query sends is not in the manual: one for each row (log 62). -/
def BaseDie.command (b : BaseDie) (bank sub row : Nat) : BaseDie :=
  let b1 := if b.opened.contains (bank, sub, row) then b else b.activate bank row true
  let others := b1.opened.filter fun x => !(x.1 == bank && x.2.1 == sub)
  let mine := others.filter fun x => x.1 == bank
  let kept := match mine with
    | x :: _ => if mine.length < 4 then others else others.erase x
    | [] => others
  { b1 with opened := kept ++ [(bank, sub, row)] }

/-- The bank command by which a query reads the row at a key of a stack. -/
def State.queryCommand (s : State) (stack key : Nat) : State :=
  s.setBaseDie stack ((s.baseDie stack).command (Config.bankOf key) (Config.subarrayOf key) (Config.rowOf key % 2 ^ 20))

/-! ### Queues that the device fills (R285, R333, R352, R354) -/

/-- A number that the device itself reads at a physical address; where no memory is named it is a free value (R322; log 60). -/
def State.physNat (s : State) (k n : Nat) : Nat :=
  if physOk k n then s.peekNat k n else leNat ((upFrom k n).map Config.absentByte)

/-- Bytes that the device itself reads at a physical address. -/
def State.physBytes (s : State) (k n : Nat) : List Byte := if physOk k n then s.peek k n else (upFrom k n).map Config.absentByte

/-- Bytes that the device itself writes at a physical address; where no memory is named nothing is written (R322; log 60). -/
def State.physPut (s : State) (k : Nat) (bs : List Byte) : State := if physOk k bs.length then s.poke k bs else s

/-- A record appended to a queue of 2^lg records of n bytes whose header stands at pa: the new state, and whether there was
room; a full queue counts in dropped (R285). -/
def State.queuePut (s : State) (pa lg n : Nat) (rec : List Byte) : State × Bool :=
  let tail := s.physNat pa 8
  let head := s.physNat (pa + 8) 8
  if (tail + 2 ^ 64 - head) % 2 ^ 64 < 2 ^ lg then
    ((s.physPut (pa + 64 + n * (tail % 2 ^ lg)) rec).physPut pa (leBytes 8 (tail + 1)), true)
  else (s.physPut (pa + 16) (leBytes 8 (s.physNat (pa + 16) 8 + 1)), false)

/-- The fields of a fault record that name its source (R286). -/
structure Source where
  kind    : Nat
  ctx     : Nat
  die     : Nat
  cluster : Nat
  kid     : Nat
  hart    : Nat
  pc      : Nat
  vidx    : Nat
  deriving DecidableEq, Repr

/-- A fault record's 64 bytes (R286). A trap that names its own source kind keeps it. -/
def faultRecord (src : Source) (t : Trap) (flags : Nat) : List Byte :=
  leBytes 1 t.cause ++ leBytes 1 (if t.kind = 0 then src.kind else t.kind) ++ leBytes 1 flags ++ leBytes 1 t.under ++ leBytes 1 src.ctx ++ leBytes 1 src.die ++
  leBytes 2 src.cluster ++ leBytes 2 src.kid ++ leBytes 2 0 ++ leBytes 4 src.hart ++ leBytes 8 src.pc ++ leBytes 8 src.vidx ++
  leBytes 8 t.addr ++ leBytes 4 t.access ++ leBytes 4 t.hcount ++ leBytes 8 ((t.hstride % 2 ^ 64).toNat) ++ leBytes 8 t.info

/-- Whether the context's fault queue has room for a record (R285). -/
def State.faultRoom (s : State) (ctx : Nat) : Bool :=
  let q := (s.context ctx).fq
  q.en && (s.physNat q.pa 8 + 2 ^ 64 - s.physNat (q.pa + 8) 8) % 2 ^ 64 < 2 ^ q.lg

/-- Write a fault record, or count it: in FQCTL.off while en is 0, in the header's dropped when the queue is full (R285). -/
def State.faultPut (s : State) (ctx : Nat) (rec : List Byte) : State :=
  let c := s.context ctx
  if c.fq.en then (s.queuePut c.fq.pa c.fq.lg 64 rec).1
  else s.setContext ctx { c with fq := { c.fq with off := min (c.fq.off + 1) (2 ^ 32 - 1) } }

/-- A source's place in the order of R285: its die, cluster and hart. -/
def Source.place (x : Source) : Nat := (x.die * 2 ^ 16 + x.cluster) * 2 ^ 32 + x.hart

/-- A record among those of a cycle, in rising place; records of one place stay in their order. -/
def placeRecord (x : Nat × List Byte) : List (Nat × List Byte) → List (Nat × List Byte)
  | [] => [x]
  | y :: t => if x.1 < y.1 then x :: y :: t else y :: placeRecord x t

/-- The fault record of a trap put into its context's queue, among the trap records of this cycle in the order of die, cluster and hart: they take the
positions that they have had, in that order (R285). Another record put between them keeps its position. -/
def State.faultPutTrap (s : State) (src : Source) (t : Trap) (flags : Nat) : State :=
  let rec' := faultRecord src t flags
  if !s.faultRoom src.ctx then s.faultPut src.ctx rec' else
  let q := (s.context src.ctx).fq
  let mine := s.recent.filter fun x => x.1 == src.ctx
  let places := mine.map (·.2.2.1) ++ [s.physNat q.pa 8]
  let sorted := (placeRecord (src.place, rec') (mine.map fun x => (x.2.1, x.2.2.2))).zip places
  let s1 : State := { s.faultPut src.ctx rec' with
    recent := (s.recent.filter fun x => x.1 != src.ctx) ++ sorted.map fun x => (src.ctx, x.1.1, x.2, x.1.2) }
  if mine.isEmpty then s1 else sorted.foldl (fun u x => u.physPut (q.pa + 64 + 64 * (x.2 % 2 ^ q.lg)) x.1.2) s1

/-! ### The end of a scalar word -/

/-- An address lies in a core's launch program area (R304, R305). -/
def Die.inArea (d : Die) (va : Nat) : Bool := d.lpVa ≤ va && va < d.lpVa + 2 ^ d.lpLg

/-- The address of the area word at position LPPOS (R305). -/
def Die.areaAddr (d : Die) : Nat := d.lpVa + d.lpPos.toNat % 2 ^ d.lpLg

/-- What performing a word does beside its effect: the hart's count of performed words and its last turn (R310, R355), a
controller's LPPOS, with the area's first word after its last (R305; log 27). pc0 is the word's address; before: the state in which it was fetched, whose
area says whether it is an area word. -/
def State.retire (s : State) (p : Party) (pc0 : Word) (before : State := s) : State :=
  match p with
  | .vec slot => match s.hart slot with
    | some h => s.setHart slot { h with words := h.words + 1, digestDue := (h.words + 1) % 2 ^ 24 == 0 && s.dbg.silMode != 0 && s.dbg.sel == h.ctx,
                                        lastIssue := s.wall, aged := 0, waiting := false }
    | none => s
  | .scc d =>
    let x := s.die d
    let y := before.die d
    if y.inArea pc0.toNat then
      let c := x.core
      let c1 := if c.pc = pc0 + 4 && !y.inArea c.pc.toNat then { c with pc := BitVec.ofNat 64 y.lpVa } else c
      s.setDie d { x with lpPos := x.lpPos + 4, core := c1, fetched := false }
    else s.setDie d { x with fetched := false }
  | _ => s

/-- What a scalar access that stands between its two pieces comes to when its hart stops there (R111, R289): a store is performed whole and its
word is done; a load is dropped, and its word is performed again. -/
def State.settleHalf (s : State) (slot : Nat) : State :=
  match s.hart slot with
  | none => s
  | some h =>
    match h.half with
    | none => s
    | some x =>
      let s1 := s.setHart slot { h with half := none }
      if !x.store then s1 else
      let s2 := ((s1.storeAt (h.who slot) x.place.key x.bytes).countFor (.vec slot) x.reqs).setScalar (.vec slot) h.sc.advance
      s2.retire (.vec slot) h.sc.pc

/-! ### Accumulators that change hands (R287, R294) -/

/-- An accumulator was last used by another context than one. -/
def Cluster.foreignAcc (c : Cluster) (ctx j : Nat) : Bool := match c.accUser.getD j none with
  | some (x, _) => x != ctx
  | none => false

/-- An accumulator taken into use by a kernel: another context's contents are zeroed (R287, R294). -/
def Cluster.takeAcc (c : Cluster) (ctx kid j : Nat) : Cluster :=
  { c with acc := if c.foreignAcc ctx j then c.acc.filter fun e => e.1 / 12288 != j else c.acc,
           accUser := c.accUser.setIfInBounds j (some (ctx, kid)) }

/-! ### Groups, regions and barriers of a dying kernel -/

/-- A copy is one of a kernel's. -/
def Copy.ofKernel (c : Copy) (ctx kid : Nat) : Bool := c.ctx == ctx && c.kid == kid

/-- A hart is a kernel's. -/
def Hart.ofKernel (h : Hart) (ctx kid : Nat) : Bool := h.ctx == ctx && h.kid == kid

/-- A hart belongs to a group; group 0 is its kernel's (R58). kid is the kernel whose group 0 is meant. -/
def Hart.inGroup (h : Hart) (ctx group kid : Nat) : Bool :=
  h.ctx == ctx && (if group == 0 then h.kid == kid else h.groups.contains group)

/-- Update every hart that meets a condition. -/
def State.mapHarts (s : State) (p : Nat → Hart → Bool) (f : Hart → Hart) : State :=
  { s with harts := s.harts.map fun e => if p e.1 e.2 then (e.1, f e.2) else e }

/-- A hart of a context stands on a cluster. -/
def State.onCluster (s : State) (ctx c : Nat) : Bool := s.harts.any fun e => e.2.ctx == ctx && slotCluster e.1 == c

/-- Bytes of a 4 KiB block of a scratchpad lie in a live allocation, in a bound region or in its shadow. -/
def State.blockInUse (s : State) (b : Nat) : Bool :=
  let k := 4096 * b
  (match keyScratch k with
    | some (c, o) => (s.cluster c).allocs.any fun a => a.offset ≤ o && o < a.offset + a.size
    | none => false) ||
  s.regions.any fun r => r.key ≤ k && k < r.key + (if r.scratch then 2 * r.size else r.size)

/-- A block of a scratchpad or plane store zeroed, of no owner and not dirty (R293, R294). -/
def State.freshBlock (s : State) (b : Nat) : State :=
  let s1 : State := { s.zeroRange (4096 * b) 4096 with owners := tblDel b s.owners }
  match keyScratch (4096 * b) with
  | some (c, o) => let cl := s1.cluster c; s1.setCluster c { cl with dirty := cl.dirty &&& ~~~((1 : BitVec 512) <<< (o / 4096)) }
  | none => s1

/-- The blocks of n bytes from a key on zeroed. -/
def State.freshRange (s : State) (k n : Nat) : State := (upFrom (k / 4096) (n / 4096)).foldl (fun t b => t.freshBlock b) s

/-- Blocks of a context that it releases are zeroed: those that meet a condition and that no allocation or region keeps (R294; log 65). -/
def State.freeBlocks (s : State) (ctx : Nat) (p : Nat → Bool) : State :=
  ((s.owners.filter fun e => e.2 == ctx && p e.1).map (·.1)).foldl (fun t b => if t.blockInUse b then t else t.freshBlock b) s

/-- The cluster of a scratchpad block. -/
def blockCluster (b : Nat) : Option Nat := (keyScratch (4096 * b)).map (·.1)

/-- A context that has no hart left on a cluster releases its blocks of the scratchpad there (R294; log 65). -/
def State.leaveCluster (s : State) (ctx c : Nat) : State :=
  if s.onCluster ctx c then s else s.freeBlocks ctx fun b => blockCluster b == some c

/-- Blocks that serve a context now: those of another owner are zeroed first, unless an allocation or a region keeps them (R294; log 65). -/
def State.serveBlocks (s : State) (ctx b n : Nat) : State :=
  (upFrom b n).foldl (fun t i => match tblFind i t.owners with
    | some o => if o == ctx || t.blockInUse i then t else t.freshBlock i
    | none => t) s

/-- A region released as punbind releases it (R216, R217): its stores discarded, a scratchpad shadow zeroed; zero: the
region itself is zeroed too. -/
def State.releaseRegion (s : State) (r : Region) (zero : Bool) : State :=
  let s1 := { s with regions := s.regions.filter fun x => x != r }
  let s2 := if r.scratch then s1.zeroRange (r.key + r.size) r.size else s1
  let s3 := if zero then s2.zeroRange r.key r.size else s2
  if r.scratch && zero then s3.leaveCluster r.ctx r.home else s3

/-- A region's status word written by the device, whole (R209, R215): its flags so far and those of new. -/
def State.writeStatus (s : State) (r : Region) (new : Nat) : State :=
  let flags := r.flags ||| new
  let s1 : State := { s with regions := s.regions.map fun (x : Region) => if x.key == r.key then { x with flags := flags } else x }
  s1.pokeNat r.status 4 flags

/-- A region is bound to a group; group 0 is a kernel's (R58). -/
def Region.inGroup (r : Region) (ctx group kid : Nat) : Bool :=
  r.ctx == ctx && r.group == group && (group != 0 || r.kid == kid)

/-- The regions bound to a group. -/
def State.groupRegions (s : State) (ctx group kid : Nat) : List Region := s.regions.filter fun r => r.inGroup ctx group kid

/-- The members of a group; kid is the kernel whose group 0 is meant (R58). -/
def State.members (s : State) (ctx group kid : Nat) : List (Nat × Hart) :=
  s.harts.filter fun e => e.2.inGroup ctx group kid

/-- Every current member has arrived in the step (or the gbar) of a group (R215, R220). -/
def State.allArrived (s : State) (ctx group kid : Nat) (gbar : Bool) : Bool :=
  let ms := s.members ctx group kid
  !ms.isEmpty && ms.all fun e => e.2.parked == some ⟨group, gbar, false⟩

/-- The members parked in a group's step or gbar let go (R215, R218, R220). -/
def State.letGo (s : State) (ctx group kid : Nat) (gbar : Bool) : State :=
  s.mapHarts (fun _ h => h.inGroup ctx group kid && h.parked == some ⟨group, gbar, false⟩)
    fun h => { h with parked := some ⟨group, gbar, true⟩, waiting := false }

/-- A gbar that every current member has reached ends (R220). -/
def State.endGbar (s : State) (ctx group kid : Nat) : State :=
  if s.allArrived ctx group kid true then s.letGo ctx group kid true else s

/-- An allocation of a kernel that has ended is kept, under a number that no kernel has, while a region in it waits for the step in
progress on it (R217). -/
def endedKid (kid : Nat) : Nat := kid + 2 ^ 16

/-- A region lies in an allocation of its cluster. -/
def Alloc.holds (a : Alloc) (r : Region) : Bool := a.offset ≤ r.off && r.off < a.offset + a.size

/-- A region of a cluster that waits for its step's end lies in an allocation (R217). -/
def State.dyingIn (s : State) (c : Nat) (a : Alloc) : Bool := s.regions.any fun r => r.dying && r.scratch && r.home == c && a.holds r

/-- The kept allocations of ended kernels that no region waits in any more are zeroed and freed (R217). -/
def State.dropEnded (s : State) (c : Nat) : State :=
  let cl := s.cluster c
  let freed (a : Alloc) : Bool := 2 ^ 16 ≤ a.kid && !s.dyingIn c a
  if !cl.allocs.any freed then s else
  let s1 := (cl.allocs.filter freed).foldl (fun t a => t.freshRange (scratchKey c a.offset) a.size) s
  s1.setCluster c { s1.cluster c with allocs := cl.allocs.filter fun a => !freed a }

/-- The regions of a group that waited for its step's end are released (R217). -/
def State.releaseDying (s : State) (ctx group kid : Nat) : State :=
  ((s.groupRegions ctx group kid).filter (·.dying)).foldl
    (fun t r => let u := t.releaseRegion r (!r.scratch); if r.scratch then u.dropEnded r.home else u) s

/-- A member's step word returns though the step did not complete (R218). -/
def State.leaveStep (s : State) (slot : Nat) : State :=
  match s.hart slot with
  | some h => (s.setHart slot { h with parked := none, sc := h.sc.advance }).retire (.vec slot) h.sc.pc
  | none => s

/-- The step in progress on a group abandoned (R218): its stores are discarded, the regions that remain bound keep their present planes
and have status bit 1 set, and the parked members' step words return: they have taken part in no completion, so they write no digest (R355). -/
def State.abandonStep (s : State) (ctx group kid : Nat) : State :=
  let s1 := s.releaseDying ctx group kid
  let s2 := (s1.groupRegions ctx group kid).foldl (fun t r => t.writeStatus r 2) s1
  let s3 : State := { s2 with regions := s2.regions.map fun (r : Region) => if r.inGroup ctx group kid then { r with stores := [] } else r }
  let parked := (s3.members ctx group kid).filter fun e => e.2.parked == some ⟨group, false, false⟩
  parked.foldl (fun t e => t.leaveStep e.1) s3

/-- Whether a step is in progress on a group: a member is parked in it (R215). -/
def State.stepInProgress (s : State) (ctx group kid : Nat) : Bool :=
  s.harts.any fun e => e.2.inGroup ctx group kid && e.2.parked == some ⟨group, false, false⟩

/-- A region released at one of the moments of R217 or R218: at once, or, while a step is in progress on its group, when that step has
completed or is abandoned. -/
def State.retireRegion (s : State) (r : Region) (zero : Bool) : State :=
  if s.stepInProgress r.ctx r.group r.kid
  then { s with regions := s.regions.map fun (x : Region) => if x.key == r.key then { x with dying := true } else x }
  else s.releaseRegion r zero

/-- A region lies in a live allocation of a kernel's (R217). -/
def State.inAllocation (s : State) (r : Region) (ctx kid : Nat) : Bool :=
  r.scratch && (s.cluster r.home).allocs.any fun a =>
    a.ctx == ctx && a.kid == kid && a.holds r

/-- The phase of a cluster's barrier. -/
def Cluster.phaseOf (c : Cluster) (j : Nat) : Nat := (tblGet (⟨0, 0, 0⟩ : Barrier) j c.bars).phase

/-- The barriers, with their clusters, at which harts of a kernel have arrived in the current phase (R221). -/
def arrivedAt (harts : Tbl Hart) (phase : Nat → Nat → Nat) (ctx kid : Nat) : List (Nat × Nat) :=
  harts.flatMap fun e =>
    if e.2.ofKernel ctx kid then e.2.bars.filterMap fun b =>
      if b.2 == .phase (phase (slotCluster e.1) b.1) then some (slotCluster e.1, b.1) else none
    else []

/-- The arrivals of a hart on a cluster when barriers break (R221): those of phases that had ended stay ended; those of the phase that breaks are
broken, a bara's too, so that its barw traps (DESIGN CHOICE, log 66: R221 speaks of the waiting harts only). -/
def Hart.barsBroken (h : Hart) (c : Nat) (phase : Nat → Nat → Nat) (hit : List (Nat × Nat)) : Hart :=
  { h with bars := h.bars.map fun (b : Nat × Arrival) =>
      if hit.contains (c, b.1) then
        (b.1, match b.2 with
          | .phase p => if p < phase c b.1 then .ended else .broken
          | x => x)
      else b }

/-- Barriers at which harts of a kernel have arrived in the current phase break (R221): they return to reset, and the
harts that wait there trap when they next look. A hart that has arrived by bara and does not wait yet keeps its arrival as a broken one, and its later
barw traps (DESIGN CHOICE, log 66: R221 speaks of the waiting harts only). -/
def State.breakBarriers (s : State) (ctx kid : Nat) : State :=
  let phase (c j : Nat) : Nat := (s.cluster c).phaseOf j
  let hit := arrivedAt s.harts phase ctx kid
  let s1 := { s with harts := s.harts.map fun e => (e.1, e.2.barsBroken (slotCluster e.1) phase hit) }
  hit.foldl (fun t b => let cl := t.cluster b.1; t.setCluster b.1 { cl with bars := tblDel b.2 cl.bars }) s1

/-- The kernel of a context with a KERNELID. -/
def State.kernel (s : State) (ctx kid : Nat) : Option Kernel := s.kernels.find? fun k => k.ctx == ctx && k.kid == kid

/-- A kernel replaced. -/
def State.setKernel (s : State) (k : Kernel) : State :=
  { s with kernels := s.kernels.map fun x => if x.ctx == k.ctx && x.kid == k.kid then k else x }

/-- The programs and operations of a kernel on a cluster stop, and its copies are cancelled (R164, R187, R287). -/
def Cluster.stopKernel (c : Cluster) (ctx kid : Nat) : Cluster :=
  let mine := match c.mcc with
    | some m => m.ctx == ctx && m.kid == kid
    | none => false
  let c1 := if mine then { c with mcc := none, fillq := [], arrq := [], chain := Vector.replicate 4 0 } else c
  let c2 := match c1.seq with
    | some q => if q.ctx == ctx && q.kid == kid then { c1 with seq := none } else c1
    | none => c1
  { c2 with copies := c2.copies.filter fun k => !k.ofKernel ctx kid, refetch := c2.refetch.filter fun r => !(r.ctx == ctx && r.kid == kid) }

/-- A kernel in which a trap of this cycle is a kernel fault: the cycle ends it (R282, R285). The other traps of the cycle still write their
records, and it is killed once (R303). -/
def State.doom (s : State) (ctx kid cause : Nat) : State :=
  match s.kernel ctx kid with
  | some k => if k.doomed.isNone then s.setKernel { k with doomed := some cause } else s
  | none => s

/-- The decision to kill a kernel, steps 1 to 3 of R287: its harts stop at their fronts and leave their groups, its
copies and programs stop, its steps are abandoned, its barriers break, its regions are released, its Vestibule records and
holds end (R218, R221, R256). The zeroing and the freeing of slots are kernelKillComplete's. -/
def State.killKernel (s : State) (ctx kid final cause : Nat) : State :=
  match s.kernel ctx kid with
  | none => s
  | some k =>
    match k.state with
    | .killing .. => s
    | _ =>
      let s1 : State := s.breakBarriers ctx kid
      let groups := (s1.harts.flatMap fun e => if e.2.ofKernel ctx kid then 0 :: e.2.groups else []).eraseDups
      let stepping := groups.filter fun g => s1.stepInProgress ctx g kid
      let s2 : State := { s1 with clusters := s1.clusters.map fun e => (e.1, e.2.stopKernel ctx kid) }
      let mine := s2.harts.filterMap fun e => if e.2.ofKernel ctx kid then some e.1 else none
      let s3 : State := (mine.foldl (fun t i => t.settleHalf i) s2).mapHarts (fun _ h => h.ofKernel ctx kid) fun h =>
        { h.atFront false with state := .stopped, waiting := true, vwait := true, groups := [], parked := none, bars := [], barIn := none, holds := [],
                               tok := h.tok.map fun _ => Token.idle }
      let dead := s3.harts.filterMap fun e => if e.2.ofKernel ctx kid then some e.1 else none
      let s4 : State := dead.foldl (fun t i => t.releaseClaims i) { s3 with vest := s3.vest.filter fun v => !(v.ctx == ctx && dead.contains v.slot) }
      let gone (r : Region) : Bool := r.ctx == ctx && (r.kid == kid || s4.inAllocation r ctx kid ||
        (r.group != 0 && !s4.harts.any fun e => e.2.inGroup ctx r.group r.kid))
      let s5 : State := (s4.regions.filter gone).foldl (fun t r => t.retireRegion r (!r.scratch || t.inAllocation r ctx kid)) s4
      let s6 : State := stepping.foldl (fun t g => t.abandonStep ctx g kid) s5
      let s7 : State := groups.foldl (fun t g => t.endGbar ctx g kid) s6
      s7.setKernel { k with state := .killing final cause, doomed := none }

/-- The kernels that traps of a cycle have doomed are killed as it ends (R282, R287, R303). -/
def State.killDoomed (s : State) : State :=
  s.kernels.foldl (fun t k => match k.doomed with
    | some c => t.killKernel k.ctx k.kid 3 c
    | none => t) s

/-! ### Taking a trap -/

/-- The source of a trap on a party (R286). -/
def State.source (s : State) (p : Party) (pc : Word) : Source :=
  let w := s.who p
  let kind := match p with
    | .vec _ => 0
    | .mcc _ => 1
    | .seq _ => 2
    | .scc _ => 0
  let vidx := match p with
    | .vec slot => match s.hart slot with
      | some h => h.vidx.toNat
      | none => 0
    | _ => 0
  ⟨kind, w.ctx, w.die, w.cluster.getD 0xFFFF, w.kid, w.hart, pc.toNat, vidx⟩

/-- A hart whose scalar access stands between its pieces, with the access settled: the state, and the hart (R111, R282). -/
def State.halved (s : State) (slot : Nat) (h : Hart) : State × Hart :=
  if h.half.isNone then (s, h) else
  let t := (s.setHart slot h).settleHalf slot
  (t, (t.hart slot).getD h)

/-- A stop of a slot's hart that was due is over: the hart has stopped (R353, R356). -/
def State.stopServed (s : State) (slot : Nat) : State := { s with dbg := { s.dbg with stops := tblDel slot s.dbg.stops } }

/-- A vector hart takes a trap (R282, R285, R286): its streams stop at their front, the claims of its word in issue are given up (R211), a
debug stop that was due is over (R353), the record is written, and the hart is held, its lanes returned, when TDELEG holds the cause and the record was
written, and otherwise its kernel ends with the cycle. -/
def State.trapHart (s : State) (slot : Nat) (h : Hart) (t : Trap) (pc : Word) : Out :=
  let (s0, h0) := s.halved slot h
  let h1 := h0.atFront true
  let c := s.context h.ctx
  let held := s.faultRoom h.ctx && t.cause != 0x11 && c.tdeleg.getLsbD t.cause
  let h2 := { h1 with state := if held then .held t.cause else .stopped, waiting := true, vwait := true, nextGrant := if held then some 0 else h1.nextGrant }
  let s1 := ((s0.releaseClaims slot).stopServed slot).setHart slot h2
  let s2 := s1.faultPutTrap (s1.source (.vec slot) (if h.half.isNone then pc else h0.sc.pc)) t (if held then 1 else 4)
  .next (if held then s2 else s2.doom h.ctx h.kid t.cause)

/-- The second piece of the access performed, and its word done (R111, R234). A load whose second piece meets an error there traps with d unwritten, as one
that meets it at once does; a store goes on, since its first piece has been performed (log 10). -/
def State.finishHalf (s : State) (slot : Nat) : Out :=
  match s.hart slot with
  | none => .next s
  | some h =>
    match h.half with
    | none => .next s
    | some x =>
      if x.store then .next (s.settleHalf slot) else
      let h1 := { h with half := none }
      let s1 := (s.setHart slot h1).countFor (.vec slot) x.reqs
      match s.readError [(x.place, x.n)] with
      | some (c, k) =>
        (if c = 9 then s1.logError k else s1).trapHart slot ((s1.hart slot).getD h1)
          { cause := c, addr := x.va, access := accessField 1 x.cls 0 false } h.sc.pc
      | none =>
        let v := leNat (x.bytes ++ s.peek x.place.key x.n)
        let r : Word := if x.sign then (BitVec.ofNat x.bits v).signExtend 64 else BitVec.ofNat 64 v
        .next ((s1.setScalar (.vec slot) (h.sc.set x.reg r).advance).retire (.vec slot) h.sc.pc)

/-- A trap on an engine of a hart: always a kernel fault (R186, R226, R282). -/
def State.trapEngine (s : State) (p : Party) (t : Trap) (pc : Word) : Out :=
  let w := s.who p
  .next ((s.faultPutTrap (s.source p pc) t 4).killKernel w.ctx w.kid 3 t.cause)

/-- A trap on a stream controller core goes to the monitor (R283, R365): MSTAT.sctrap is set, MSI-X vector 1 is raised and the
sideband reports; the core stops. -/
def State.trapCore (s : State) (d : Nat) : Out :=
  .next { s.setDie d { s.die d with running := false, fetched := false } with
    sctrap := s.sctrap ||| (1 <<< d), msix := s.msix ++ [1], sideband := s.sideband ++ [0x100 + d] }

/-- Take a trap on a party (R282, R283). pcStop is the scalar program counter at the stop, pcRec the one in the record. -/
def State.takeTrap (s : State) (p : Party) (t : Trap) (pcStop pcRec : Word) : Out :=
  match p with
  | .vec slot =>
    match s.hart slot with
    | none => .fault .noParty
    | some h => s.trapHart slot { h with sc := { h.sc with pc := pcStop } } t pcRec
  | .scc d =>
    (s.setDie d { s.die d with core := { (s.die d).core with pc := pcStop } }).trapCore d
  | q => s.trapEngine q t pcRec

/-- Return from a trap: the hart that TRHART names leaves trap state, and both its streams resume at their held positions
(R299). Its discarded queue producers stand first (R71). In locked-clock mode, where no regrant follows, it asks for its lanes again (R314; log 73). None: no such hart is held. -/
def State.resumeHart (s : State) (ctx kid hartid : Nat) : Option State :=
  match s.harts.find? fun e => e.2.ofKernel ctx kid && e.2.hartid == hartid with
  | some (slot, h) =>
    match h.state with
    | .held _ => some (s.setHart slot { h with state := .running, waiting := false, vwait := false,
                                                nextGrant := if s.clkCur then some h.lanes else h.nextGrant })
    | _ => none
  | none => none

/-! ### Performing a scalar word -/

/-- Which words a hart executes (R83). -/
inductive Unit83 where
  | common        -- majors 0x01 to 0x12 and 0x16, halt, trap, logmark, brk: every kind of hart but the controllers' halt
  | vecOnly       -- 0x13, 0x15, 0x17 but halt, 0x19, 0x1A, 0x1E
  | haltWord      -- 0x17 fn 4
  | amo           -- 0x14
  | waitm         -- 0x1D
  | stream        -- 0x18
  | matrix        -- 0x1B
  | traps         -- 0x1C fn 0, 5, 6
  | super         -- the supervisor functions of 0x1C
  deriving DecidableEq, Repr

/-- The cause with which R83 refuses a word on a party, if it does. -/
def unitCause (p : Party) (u : Unit83) : Option Nat :=
  match p with
  | .vec _ => match u with
    | .matrix => some 1
    | .super => some 2
    | _ => none
  | .mcc _ => match u with
    | .common | .haltWord | .matrix | .traps => none
    | _ => some 1
  | .seq _ => match u with
    | .common | .haltWord | .stream | .traps => none
    | _ => some 1
  | .scc _ => match u with
    | .common | .amo | .waitm | .traps | .super => none
    | _ => some 1

/-- A scalar word in execution: the state, the party, and the party's scalar side apart from it. -/
structure Ctx where
  st : State
  p  : Party
  c  : Scalar
  deriving DecidableEq, Repr

/-- The hart of a vector party's word. -/
def Ctx.slot (k : Ctx) : Nat := match k.p with
  | .vec n => n
  | _ => 0

/-- The word waits. -/
def Ctx.wait {α : Type} (k : Ctx) : Res α := .error (k.st, .wait)

/-- The word traps. -/
def Ctx.trap {α : Type} (k : Ctx) (t : Trap) : Res α := .error (k.st, .trap t)

/-- The word traps with a cause alone. -/
def Ctx.cause {α : Type} (k : Ctx) (c : Nat) : Res α := .error (k.st, .trap { cause := c })

/-- The party's hart, for a word that only vector harts execute. -/
def Ctx.hart (k : Ctx) : Res Hart :=
  match k.st.hart k.slot with
  | some h => .ok h
  | none => .error (k.st, .fault .noParty)

/-- The word's state with the hart replaced. -/
def Ctx.setHart (k : Ctx) (h : Hart) : Ctx := { k with st := k.st.setHart k.slot h }

/-- The word writes a register and the next word follows. -/
def Ctx.write (k : Ctx) (d : Reg) (v : Word) : Ctx := { k with c := (k.c.set d v).advance }

/-- The word writes nothing and the next word follows. -/
def Ctx.done (k : Ctx) : Ctx := { k with c := k.c.advance }

/-- A vector hart. -/
def Party.isVec : Party → Bool
  | .vec _ => true
  | _ => false

/-- A party waits: its word is not performed, and the hart takes no issue turn until it can (R74). A core keeps the word it has fetched (R305). -/
def State.markWaiting (s : State) (p : Party) : State :=
  match p with
  | .vec slot => match s.hart slot with
    | some h => s.setHart slot { h with waiting := true }
    | none => s
  | .scc d => s.setDie d { s.die d with fetched := true }
  | _ => s

/-- The outcome of a stop at a word. -/
def State.stopped (s : State) (p : Party) (pc : Word) (w : Stop) : Out :=
  match w with
  | .wait => .next (s.markWaiting p)
  | .fault f => .fault f
  | .trap t => s.takeTrap p t pc pc

/-- The state after a word is performed whole; before: the state in which it was fetched. -/
def Ctx.finish (k : Ctx) (pc0 : Word) (before : State := k.st) : State := (k.st.setScalar k.p k.c).retire k.p pc0 before

/-- Perform a scalar word on the party on turn (R118): the party must exist, its kind must execute the word (R83), and the
body answers the word's effect or its stop. -/
def State.scalarWord (s : State) (u : Unit83) (body : Ctx → Res Ctx) : Out :=
  match s.scalar s.cur with
  | none => .fault .noParty
  | some c =>
    match unitCause s.cur u with
    | some n => s.takeTrap s.cur { cause := n } c.pc c.pc
    | none =>
      match body ⟨s, s.cur, c⟩ with
      | .ok k => .next (k.finish c.pc s)
      | .error (t, w) => t.stopped s.cur c.pc w

end Sys2Proof.Machine
end

