-- ==== Sys2Proof/Machine/Operands.lean ====
section
/-! DEFINITION. What a vector word names: the registers, masks, lists and queues it reads and writes, its pipe and its
class (R65, R67, R73, R86, R134, R135), and the waits of scalar words on the vector words still to run (R65, R87, R112,
R154). -/
namespace Sys2Proof.Machine

/-- A register that a vector word reads or writes. -/
inductive RegId where
  | v (r : Nat) | s (r : Nat) | m (j : Nat) | l (j : Nat) | q (j : Nat) | lq (j : Nat)
  deriving DecidableEq, Repr

/-- The kind of a word for the start-up times of R63. -/
inductive WordKind where
  | plain | convert | reduce | memory
  deriving DecidableEq, Repr

/-- What a vector word names and how it takes part in a convoy. -/
structure WordUse where
  kind   : WordKind := .plain
  load   : Bool := false            -- a load-pipe word (R73)
  store  : Bool := false            -- a store-pipe word (R73)
  query  : Bool := false
  whole  : Bool := false            -- a whole word (R134)
  reads  : List RegId := []         -- sources, the mask, and the destination where the word also reads it
  writes : List RegId := []
  waits  : List RegId := []         -- sources whose wait bit is set
  empties : List RegId := []        -- destinations that its issue marks empty (R65, R224)
  apart  : Bool := false            -- readers of its result stand in a later convoy (R73, condition 3)
  perm   : Bool := false            -- a whole permute (R135)
  index  : Option Nat := none       -- a register its probe reads whole (R73, condition 6)
  cls    : Option Nat := none       -- its ordering class, for a word that accesses memory
  ff     : Bool := false            -- vldff
  tokens : BitVec 8 := 0
  deriving DecidableEq, Repr

/-- The register a 7-bit operand names (R86). -/
def operandReg (x : BitVec 7) : Option RegId :=
  let n := x.toNat
  if n < 64 then some (.v n)
  else if n < 72 then some (.q (n - 64))
  else if n < 76 then some (.lq (n - 72))
  else if 80 ≤ n && n < 96 then some (.s (n - 64))
  else none

/-- The mask or list that a word's mask field names (R62, R84); m0 is no register. -/
def maskReg (m : BitVec 5) : List RegId :=
  let n := m.toNat
  if n < 16 then (if n = 0 then [] else [.m n]) else [.l (n - 16)]

def optList {α : Type} (o : Option α) : List α := match o with
  | some a => [a]
  | none => []

/-- A source field of a VR word as a register, by its kind (R90). -/
def sourceReg (k : SrcKind) (x : BitVec 7) : List RegId :=
  match k with
  | .none => []
  | .mask => if x.toNat = 0 then [] else [.m x.toNat]
  | .dmask => []
  | _ => optList (operandReg x)

/-- A destination field of a VR word as registers (R86, R90, R91). -/
def destReg (k : DstKind) (x : BitVec 7) : List RegId :=
  match k with
  | .mask => [.m x.toNat]
  | .list => [.l x.toNat]
  | .none127 => []
  | .vPair => [.v x.toNat, .v (x.toNat + 1)]
  | _ => optList (operandReg x)

/-- The scalar register s16 to s31 that a 5-bit field names. -/
def highReg (r : Reg) : List RegId := if 16 ≤ r.toNat then [.s r.toNat] else []

/-- A word reads memory, or the Cellar, in its class. -/
def WordUse.readsMem (u : WordUse) : Bool := u.query || (u.load && u.cls.isSome)

/-- A word writes memory in its class. -/
def WordUse.writesMem (u : WordUse) : Bool := u.store && u.cls.isSome

/-- The registers v(a) to v(a + n - 1). -/
def vregs (a n : Nat) : List RegId := (upFrom a n).map .v

end Sys2Proof.Machine

namespace Sys2Proof

open Sys2Proof.Machine

/-- The registers of a VR word from its use. -/
def VR.uses (f : VR) (u : VRUse) : WordUse :=
  let d := destReg u.dst f.vd
  { empties := d.filter fun r => match r with
      | .s _ => true
      | _ => false
    reads := sourceReg u.a f.va ++ sourceReg u.b f.vb ++ sourceReg u.c f.vc ++ maskReg f.mask,
    writes := d ++ (if u.c == .dmask then [.m f.vc.toNat] else []) ++ (if f.xm then [.m f.xd.toNat] else []),
    waits := (if f.wa then sourceReg u.a f.va else []) ++ (if f.wb then sourceReg u.b f.vb else []) ++
      (if f.wc then sourceReg u.c f.vc else []) }

/-- What a VM word names beside its destination or source. -/
def VM.uses (f : VM) (load store : Bool) (reads writes : List RegId) : WordUse :=
  { kind := .memory, load := load, store := store, reads := reads ++ highReg f.base ++ maskReg f.mask, writes := writes,
    empties := writes.filter fun r => match r with
      | .v _ => true
      | _ => false
    cls := some f.cls.toNat, tokens := f.tok }

/-- What a VQ word names. combined: it answers with one reply for all its rows, so readers of its result stand in a later convoy (R73). -/
def VQ.uses (f : VQ) (combined : Bool) (writes : List RegId) : WordUse :=
  { kind := .memory, query := true, apart := combined, empties := writes, reads := optList (operandReg f.co) ++ maskReg f.mask,
    writes := writes, waits := if f.wait then optList (operandReg f.co) else [], cls := some f.cls.toNat, tokens := f.tok }

/-- Destination registers of a load, with the register of scales kept apart (R152). -/
def VM.loadDst (f : VM) : List RegId :=
  optList (operandReg f.vd) ++ (if f.scale.toNat % 2 == 1 then [.v (f.vd.toNat + 1)] else [])

/-- Source registers of a store, with the register of scales kept apart (R152). -/
def VM.storeSrc (f : VM) : List RegId :=
  optList (operandReg f.vd) ++ (if f.scale.toNat % 2 == 1 then [.v (f.vd.toNat + 1)] else [])

/-- What a vector instruction names. e is the number of experts of xcsel, read from its s register (R253). -/
def Instr.uses (i : Instr) (e : Nat) : WordUse :=
  let vr (k : WordKind) (whole apart : Bool) : WordUse :=
    match vrUse i with
    | some (u, f) => { f.uses u with kind := k, whole := whole, apart := apart }
    | none => {}
  match i with
  | .vcvtBf16F32 _ | .vcvtF32I32 _ | .vcvtI32F32 _ | .vcvtF32N32 _ | .vcvtN32F32 _ | .vround _ | .vclass _ | .vexp2 _ | .vlog2 _
  | .vrcp _ | .vrsqrt _ | .vtanh _ => vr .convert false false
  | .vaddi f | .vandi f | .vori f | .vxori f | .vshli f | .vshri f | .vsrai f =>
    { reads := optList (operandReg f.va) ++ maskReg f.mask, writes := optList (operandReg f.vd),
      waits := if f.wa then optList (operandReg f.va) else [] }
  | .mpop _ | .mfirst _ | .mlist _ => vr .plain true true
  | .vcompress _ | .vexpand _ | .vperm _ | .vslideup _ | .vslidedn _ | .vbcast _ => { vr .plain true false with perm := true }
  | .vredsumF32 _ | .vredsumBf16 _ | .vredmax _ | .vredmin _ | .vredsumI32 _ | .vredsumb _ | .vscanF32 _ | .vredmaxi _ =>
    vr .reduce true true
  | .vmergek _ | .vtopk _ => vr .reduce true true
  | .xcount f =>
    let u := vr .plain true true
    { u with reads := u.reads ++ optList (operandReg f.vd) }
  | .xcsel f =>
    { kind := .reduce, whole := true, apart := true,
      reads := vregs f.va.toNat e ++ sourceReg .sreg f.vb ++ maskReg f.mask, writes := vregs f.vd.toNat e,
      waits := if f.wa then vregs f.va.toNat e else [] }
  | .vld f => f.uses true false [] f.loadDst
  | .vldff f => { f.uses true false [] f.loadDst with ff := true }
  | .vlds f => f.uses true false (highReg (f.idx.setWidth 5)) f.loadDst
  | .vldx f => { f.uses true false [.v f.idx.toNat] f.loadDst with index := some f.idx.toNat }
  | .vldseg f =>
    let none127 := f.idx.toNat == 127
    { f.uses true false (if none127 then [] else [.v f.idx.toNat]) (vregs f.vd.toNat (f.scope.toNat + 1)) with
      index := if none127 then none else some f.idx.toNat }
  | .vst f => f.uses false true f.storeSrc []
  | .vsts f => f.uses false true (f.storeSrc ++ highReg (f.idx.setWidth 5)) []
  | .vstx f => { f.uses false true (f.storeSrc ++ [.v f.idx.toNat]) [] with index := some f.idx.toNat }
  | .vappend f => f.uses false true (highReg (f.base + 1)) []
  | .vpref f => f.uses true false [] []
  | .mdrain f => { f.uses true false [] [.v f.vd.toNat] with cls := none }
  | .mfill f => { f.uses false true [.v f.vd.toNat] [] with cls := none }
  | .vamoAdd _ f | .vamoAnd _ f | .vamoOr _ f | .vamoXor _ f | .vamoMin _ f | .vamoMax _ f | .vamoMinn _ f | .vamoMaxn _ f =>
    { f.uses false true (optList (operandReg f.vd) ++ [.v f.idx.toNat]) [] with index := some f.idx.toNat }
  | .vamoSwap _ f =>
    { f.uses false true [.v f.vd.toNat, .v f.idx.toNat] [.v f.vd.toNat] with index := some f.idx.toNat }
  | .cadd f =>
    let unit := f.idx.toNat == 127
    { f.uses false true (optList (operandReg f.vd) ++ (if unit then [] else [.v f.idx.toNat])) [] with
      index := if unit then none else some f.idx.toNat }
  | .qdot f => f.uses false [.v f.vd.toNat]
  | .qwsum f => f.uses true [.v f.vd.toNat]
  | .qfsum f => f.uses true [.v f.vd.toNat]
  | .qmaxi f => f.uses true [.v f.vd.toNat]
  | .qtopk f => f.uses true [.v f.vd.toNat, .v (f.vd.toNat + 1)]
  | .qhist f => f.uses true [.v f.vd.toNat]
  | _ => vr .plain false false

/-- What a decoded vector word names. -/
def VWord.uses (w : VWord) (e : Nat) : WordUse :=
  match w with
  | .core i => i.uses e
  | .qfsum f => f.uses true [.v f.vd.toNat]
  | .qmaxi f => f.uses true [.v f.vd.toNat]
  | .qtopk f => f.uses true [.v f.vd.toNat, .v (f.vd.toNat + 1)]
  | .qhist f => f.uses true [.v f.vd.toNat]

/-- The word ends a block. -/
def VWord.isStop : VWord → Bool
  | .core .vstop => true
  | _ => false

end Sys2Proof

namespace Sys2Proof.Machine

/-! ### Fetching -/

/-- n bytes of a hart's words at an address (R109, R116, R313): the bytes of the cached text where the kernel's image is
cached, else memory's; or the cause. A fetch that meets an uncorrectable block or a page of a lost peer link has cause 0x09 or 0x14, as a load has
(DESIGN CHOICE, log 67: R109 and R116 name only 0x04, 0x05 and 0x06 for fetches). -/
def State.fetchBytes (s : State) (w : Who) (va n : Nat) : Except Nat (List Byte) :=
  match s.xlate w .fetch va with
  | .error c => .error c
  | .ok p =>
    match s.readError [(p, n)] with
    | some (c, _) => .error c
    | none =>
      match s.kernel w.ctx w.kid with
      | some k =>
        if k.image ≤ va && va + n ≤ k.image + k.text.length then .ok ((k.text.drop (va - k.image)).take n)
        else .ok (s.peek p.key n)
      | none => .ok (s.peek p.key n)

/-- The vector word at an address: the word, a fetch cause, or none for one that is no instruction (R94, R116). -/
def State.fetchVWord (s : State) (w : Who) (va : Nat) : Except Nat (Option VWord) :=
  match s.fetchBytes w va 8 with
  | .error c => .error c
  | .ok bs =>
    match decodeVWord (BitVec.ofNat 64 (leNat bs)) with
    | .ok i => .ok (some i)
    | .error _ => .ok none

/-- The words from an address to the block's vstop, at most the fuel. The flag is false when the end was not found: the fuel ran out, or a word is no
instruction or cannot be fetched, so that its trap is still to come and what follows it may be anything (R87, R116). -/
def State.blockWords (s : State) (w : Who) (va : Nat) : Nat → List VWord × Bool
  | 0 => ([], false)
  | n + 1 =>
    match s.fetchVWord w va with
    | .ok (some i) =>
      if i.isStop then ([], true) else
      let (r, ended) := s.blockWords w (va + 8) n
      (i :: r, ended)
    | _ => ([], false)

/-- The vector words of a hart that are handed over and have not run, in program order, each with what its block executes under; the
flag says that all were found. A block longer than 4,096 words counts as unknown, which only makes scalar words wait. -/
def State.pendingWords (s : State) (slot : Nat) (h : Hart) : List (BlockEnv × VWord) × Bool :=
  h.blocks.foldl (fun acc b =>
    let (ws, ended) := s.blockWords (h.who slot) b.pc.toNat 4096
    (acc.1 ++ ws.map fun w => (b.env, w), acc.2 && ended)) ([], true)

/-- A pending word meets a condition, or pending words are unknown. -/
def State.pendingAny (s : State) (slot : Nat) (h : Hart) (p : WordUse → Bool) : Bool :=
  if h.blocks.isEmpty then false else
  let (ws, known) := s.pendingWords slot h
  !known || ws.any fun w => p (w.2.uses 16)

/-- A pending word that has not issued meets a condition, or pending words are unknown: the words of the convoy in issue stand first. -/
def State.unissuedAny (s : State) (slot : Nat) (h : Hart) (p : WordUse → Bool) : Bool :=
  if h.blocks.isEmpty then false else
  let (ws, known) := s.pendingWords slot h
  !known || (ws.drop ((h.blocks.head?.map fun b => b.vls.length).getD 0)).any fun w => p (w.2.uses 16)

/-! ### Where pending words reach (R112, R233) -/

/-- A word's mask field selects an element (R62). -/
def Hart.selects (h : Hart) (m : BitVec 5) (i : Nat) : Bool :=
  if m.getLsbD 4 then (h.l.getD (m.toNat % 16) []).contains i else (h.mask m.toNat).getLsbD i

/-- What a pending word's addresses hang on: its block's environment, its hart, and the registers that earlier pending words have still to write. -/
structure Known where
  env     : BlockEnv
  h       : Hart
  written : List RegId
  deriving DecidableEq, Repr

/-- A base or stride field of a pending word, where no earlier word has still to write it (R87). -/
def Known.field (x : Known) (r : Reg) : Option Word :=
  if r = 0 then some 0 else if r.toNat < 16 then some (x.env.s.getD r.toNat 0)
  else if x.written.contains (.s r.toNat) || !x.h.sfull.getLsbD (r.toNat - 16) then none else some (x.h.sc.get r)

/-- The byte offsets of an index register, where no earlier word has still to write it. -/
def Known.offsets (x : Known) (r : BitVec 7) : Option (Nat → Int) :=
  if x.written.contains (.v r.toNat) || !x.h.full.getLsbD r.toNat then none else some fun i => ((x.h.elem r.toNat i).toNat : Int)

/-- The elements below VL that a pending word may select. -/
def Known.live (x : Known) (m : BitVec 5) : List Nat :=
  (upFrom 0 x.env.vl).filter fun i => (maskReg m).any x.written.contains || x.h.selects m i

/-- The byte and the number of bytes of the element of a format d units beyond an address; units are nibbles for 4-bit formats. -/
def elemSpan (fmt : BitVec 6) (base : Word) (d : Int) : Nat × Nat :=
  if fmtBits fmt = 4 then ((((2 * base.toNat : Nat) : Int) + d) % 2 ^ 65 / 2 |>.toNat, 1)
  else ((((base.toNat : Nat) : Int) + d) % 2 ^ 64 |>.toNat, fmtBits fmt / 8)

/-- The units between two neighbouring elements of a format. -/
def unitStep (fmt : BitVec 6) : Int := if fmtBits fmt = 4 then 1 else ((fmtBits fmt / 8 : Nat) : Int)

end Sys2Proof.Machine

namespace Sys2Proof

open Sys2Proof.Machine

/-- The spans of some elements of a VM word whose element i lies d i units beyond its data address, with the scale bytes of their blocks (R150, R152). A
store in blocks writes whole blocks (R35). -/
def VM.spans (f : VM) (x : Known) (d : Nat → Int) : Option (List (Nat × Nat)) := do
  let base ← x.field f.base
  let blocks := ((x.live f.mask).map (· / 4)).eraseDups
  let is := if f.scale.toNat / 2 = 0 then x.live f.mask else blocks.flatMap fun j => upFrom (4 * j) 4
  let data := is.map fun i => elemSpan f.fmt (base + 32 * f.off.signExtend 64) (d i)
  if f.scale.toNat / 2 = 0 then some data else do
  let sc ← x.field (f.base + 1)
  some (data ++ (blocks ++ blocks.map (· / 8)).eraseDups.map fun (j : Nat) => elemSpan 9 sc (j : Int))

/-- The bytes that a pending vector word may touch; none where its addresses hang on what earlier words have still to write. Of an append queue: its
header, and the entries that it would claim as the tail stands. -/
def VWord.spans (s : State) (w : Who) (x : Known) (v : VWord) : Option (List (Nat × Nat)) :=
  let query (f : VQ) : Option (List (Nat × Nat)) :=
    match x.env.qd.getD f.desc.toNat none with
    | none => some []
    | some d => some ((x.live f.mask).map fun (i : Nat) => ((d.base + BitVec.ofInt 64 ((i : Int) * d.stride)).toNat, d.len * fmtBits d.fmt / 8))
  let indexed (f : VM) : Option (List (Nat × Nat)) := do
    let off ← x.offsets f.idx
    f.spans x off
  match v with
  | .core i =>
    match i with
    | .vld f | .vldff f | .vst f => f.spans x fun i => (i : Int) * unitStep f.fmt
    | .vldseg f => do
      let base ← x.field f.base
      let n := f.scope.toNat + 1
      some ((x.live f.mask).flatMap fun i => (upFrom 0 n).map fun j =>
        elemSpan f.fmt (base + 32 * f.off.signExtend 64) (((i * n + j : Nat) : Int) * unitStep f.fmt))
    | .vlds f | .vsts f => do
      let st ← x.field (f.idx.setWidth 5)
      f.spans x fun i => (i : Int) * st.toInt
    | .cadd f => if f.idx.toNat = 127 then f.spans x fun i => (i : Int) * unitStep f.fmt else indexed f
    | .vldx f | .vstx f => indexed f
    | .vamoAdd _ f | .vamoAnd _ f | .vamoOr _ f | .vamoXor _ f | .vamoMin _ f | .vamoMax _ f | .vamoMinn _ f | .vamoMaxn _ f | .vamoSwap _ f => do
      let base ← x.field f.base
      let off ← x.offsets f.idx
      some ((x.live f.mask).map fun i => elemSpan f.fmt base (off i))
    | .vappend f => do
      let base ← x.field f.base
      let va := (base + 32 * f.off.signExtend 64).toNat
      let tail := ((s.leaf w.ctx va).bind fun e => (placeOf w e.1 e.2 va).map fun p => s.peekNat p.key 8).getD 0
      some ((va, 24) :: (numbered tail (x.live f.mask)).map fun y => (va + 0x40 + 4 * y.1, 4))
    | .qdot f | .qwsum f => query f
    | _ => some []
  | .qfsum f | .qmaxi f | .qtopk f | .qhist f => query f

end Sys2Proof

namespace Sys2Proof.Machine

/-- The key of an address, when it translates. -/
def State.keyOf (s : State) (w : Who) (va : Nat) : Option Nat :=
  (s.leaf w.ctx va).bind fun e => (placeOf w e.1 e.2 va).map (·.key)

/-- Two spans of a hart, with the keys at which they begin, share a byte: of memory where both translate, else of the address space. -/
def spansMeet (a b : Option Nat × Nat × Nat) : Bool :=
  match a.1, b.1 with
  | some x, some y => x < y + b.2.2 && y < x + a.2.2
  | _, _ => a.2.1 < b.2.1 + b.2.2 && b.2.1 < a.2.1 + a.2.2

/-- A span of one of two lists shares a byte with a span of the other. -/
def State.spansShare (s : State) (w : Who) (xs ys : List (Nat × Nat)) : Bool :=
  let keyed (l : List (Nat × Nat)) := l.map fun x => (s.keyOf w x.1, x)
  let ks := keyed ys
  (keyed xs).any fun x => ks.any (spansMeet x)

/-- Some spans of a hart share a byte with one that a pending word may touch, or with one whose place is not known yet. -/
def State.reached (s : State) (w : Who) (h : Hart) (mine : List (Nat × Nat)) : List (BlockEnv × VWord) → List RegId → Bool
  | [], _ => false
  | (e, v) :: t, written =>
    (match v.spans s w ⟨e, h, written⟩ with
      | none => true
      | some xs => s.spansShare w xs mine) || s.reached w h mine t (written ++ (v.uses 16).writes)

/-- A scalar store of n bytes at an address reaches a byte that a pending vector word may touch, so it follows that word whatever their classes: of two
writes to a byte the later in program order is the later in coherence order, and a read never returns a write that follows it (R233). -/
def State.pendingMeets (s : State) (slot : Nat) (h : Hart) (va n : Nat) : Bool :=
  s.reached (h.who slot) h (pieces va n) (s.pendingWords slot h).1 []

/-- The number of s16 to s31. -/
def isHigh (r : Reg) : Bool := 16 ≤ r.toNat

/-- A scalar word must wait before it writes a register (R65, R87): s16 to s31 while empty, or while an earlier
vector word that names it has not run. -/
def Ctx.regBusy (k : Ctx) (r : Reg) : Bool :=
  if !isHigh r then false else
  match k.p with
  | .vec slot =>
    match k.st.hart slot with
    | some h =>
      !h.sfull.getLsbD (r.toNat - 16) ||
        k.st.pendingAny slot h fun u => u.reads.contains (.s r.toNat) || u.writes.contains (.s r.toNat)
    | none => false
  | _ => false

/-- A scalar word must wait before it reads a register (R65, R87): s16 to s31 while empty, or while an earlier vector word that names it has not
issued. -/
def Ctx.readBusy (k : Ctx) (r : Reg) : Bool :=
  if !isHigh r then false else
  match k.p with
  | .vec slot =>
    match k.st.hart slot with
    | some h =>
      !h.sfull.getLsbD (r.toNat - 16) ||
        k.st.unissuedAny slot h fun u => u.reads.contains (.s r.toNat) || u.writes.contains (.s r.toNat)
    | none => false
  | _ => false

/-- The registers that a word writes, and those that it reads, are ready, or the word waits (R65, R87). -/
def Ctx.need (k : Ctx) (ds srcs : List Reg) : Res Unit := if ds.any k.regBusy || srcs.any k.readBusy then k.wait else .ok ()

/-- A fence of classes that the hart has passed orders an access of a class behind a query of such a class that was handed over before it and has still to
read its rows; the fence itself has not waited for it (R225, R232). -/
def State.fenced (s : State) (slot : Nat) (h : Hart) (cls : Nat) : Bool :=
  let inMask (m : BitVec 16) (c : Nat) : Bool := c == 15 || m.getLsbD c
  h.fences.any fun f => inMask f.2 cls &&
    s.pendingAny slot { h with blocks := h.blocks.filter fun b => b.seq < f.1 } fun u => u.query && (match u.cls with
      | some c => inMask f.2 c
      | none => false)

/-- A scalar access of a class to n bytes waits for the vector words it must follow (R112): those of its class, of class 15, and every one
when it is of class 15; those that a fence puts before it (R232); a store also for those that may touch one of its bytes (R233). A load of another
class runs ahead of the vector stream, as the table of R112 has it, although R233 speaks of any two accesses of one hart to a byte (log 4). Rows of queries in flight have been read (log 11). -/
def Ctx.memBusy (k : Ctx) (store : Bool) (cls va n : Nat) : Bool :=
  match k.p with
  | .vec slot =>
    match k.st.hart slot with
    | some h =>
      k.st.pendingAny slot h (fun u => match u.cls with
        | some c => c == cls || c == 15 || cls == 15
        | none => false) || k.st.fenced slot h cls || (store && k.st.pendingMeets slot h va n)
    | none => false
  | _ => false

/-- The scalar word waits for every earlier vector word of its hart (R115). -/
def Ctx.quiet (k : Ctx) : Res Unit :=
  match k.p with
  | .vec slot =>
    match k.st.hart slot with
    | some h => if h.quiet then .ok () else k.wait
    | none => .ok ()
  | _ => .ok ()

/-- A pending block holds a vldff (R154). -/
def Ctx.ffPending (k : Ctx) : Bool :=
  match k.p with
  | .vec slot =>
    match k.st.hart slot with
    | some h => h.blocks.any (·.ff) || k.st.pendingAny slot h fun u => u.ff
    | none => false
  | _ => false

end Sys2Proof.Machine
end

