-- ==== Sys2Proof/Machine/Pager.lean ====
section
/-! DEFINITION. The pager queue, and engines that wait for a page (R333). -/
namespace Sys2Proof.Machine

/-- A request record of the pager queue. -/
def pagerRecord (addr bytes kind ctx cluster access : Nat) : List Byte :=
  leBytes 8 addr ++ leBytes 4 bytes ++ leBytes 1 kind ++ leBytes 1 ctx ++ leBytes 2 cluster ++ leBytes 4 access ++ leBytes 12 0

/-- A request filed: counted in PGQCTL.off while en is 0. -/
def State.pagerPut (s : State) (ctx : Nat) (rec : List Byte) : State :=
  let c := s.context ctx
  if c.pgq.en then (s.queuePut c.pgq.pa c.pgq.lg 32 rec).1
  else s.setContext ctx { c with pgq := { c.pgq with off := min (c.pgq.off + 1) (2 ^ 32 - 1) } }

/-- Room for one more request. -/
def State.pagerRoom (s : State) (ctx : Nat) : Bool :=
  let q := (s.context ctx).pgq
  !q.en || (s.physNat q.pa 8 + 2 ^ 64 - s.physNat (q.pa + 8) 8) % 2 ^ 64 < 2 ^ q.lg

/-- What names an engine's wait for the page of an address: its context, its cluster, its number and the page (log 58). -/
def Who.pageWait (w : Who) (va : Nat) : Nat × Nat × Nat × Nat := (w.ctx, w.cluster.getD 0xFFFF, w.eng, va / 4096)

/-- An engine has asked for the page of an address and waits until PGWAKE. -/
def State.awaitsPage (s : State) (w : Who) (va : Nat) : Bool := s.pageWaits.contains (w.pageWait va)

/-- An engine meets a page that is not present: it asks the pager once and waits until PGWAKE; a full queue makes it wait for
room. -/
def State.pageAsk (s : State) (w : Who) (va access : Nat) : State :=
  if s.awaitsPage w va || !s.pagerRoom w.ctx then s else
  let t := s.pagerPut w.ctx (pagerRecord va 0 0 w.ctx (w.cluster.getD 0xFFFF) access)
  { t with pageWaits := w.pageWait va :: t.pageWaits }

/-- An engine that begins new work waits for no page. -/
def State.freshEngine (s : State) (w : Who) : State :=
  let cl := w.cluster.getD 0xFFFF
  { s with pageWaits := s.pageWaits.filter fun (x : Nat × Nat × Nat × Nat) => !(x.1 == w.ctx && x.2.1 == cl && x.2.2.1 == w.eng) }

/-- A forked program: an engine, whose accesses wait for pages that are not present (R333). -/
def Party.isEngine : Party → Bool
  | .mcc _ | .seq _ => true
  | _ => false

/-- A forked program's scalar access or fetch of n bytes touches a page that it has asked for and waits for until PGWAKE (R333). -/
def State.engineAwaits (s : State) (p : Party) (va n : Nat) : Bool :=
  p.isEngine && (s.awaitsPage (s.who p) va || s.awaitsPage (s.who p) (va + n - 1))

/-- A trap of a scalar access or fetch of a forked program: for a page that is not present the engine asks the pager and waits, any other trap is
taken (R282, R333). The other parties trap. -/
def Ctx.engineTrap {α : Type} (k : Ctx) (t : Trap) : Res α :=
  if k.p.isEngine && t.cause == 4 && t.addr < 2 ^ 57 then .error (k.st.pageAsk (k.st.who k.p) t.addr t.access, .wait) else k.trap t

end Sys2Proof.Machine
end

