-- ==== Sys2Proof/Machine/Patterns.lean ====
section
/-! DEFINITION. One element of a memory format at a nibble address, and the pattern records of streams and copies
(R26, R145, R158). -/
namespace Sys2Proof.Machine

/-! ### Elements (R26, R145). A nibble address is twice a byte address, plus one for the upper nibble. -/

/-- Nibbles of one element of a format. -/
def fmtNibs (c : BitVec 6) : Nat := fmtBits c / 4

/-- Bytes that one element touches. -/
def fmtBytes (c : BitVec 6) : Nat := (fmtBits c + 7) / 8

/-- A nibble address modulo 2^65, that is a byte address modulo 2^64. -/
def nibWrap (n : Int) : Nat := (n % 2 ^ 65).toNat

/-- Where the element of a format at a nibble address lies, for a use; or the cause its check meets (R144, R145). No rule orders the causes of one element:
an address out of range is tested first (0x04), then its alignment (0x03), then its translation and permissions (DESIGN CHOICE, log 71). -/
def State.elemPlace (s : State) (w : Who) (u : Use) (c : BitVec 6) (nib : Nat) : Except Nat Place :=
  let va := nib / 2
  if 2 ^ 57 ≤ va then .error 4
  else if fmtBits c != 4 && (nib % 2 != 0 || va % fmtBytes c != 0) then .error 3
  else s.xlate w u va

/-- The code of the element at a nibble address in the bytes that hold it. -/
def codeIn (c : BitVec 6) (nib : Nat) (bs : List Byte) : Nat :=
  if fmtBits c = 4 then (leNat bs / (if nib % 2 = 0 then 1 else 16)) % 16 else leNat bs

/-- The code of the element at a place. -/
def State.readCode (s : State) (p : Place) (c : BitVec 6) (nib : Nat) : Nat :=
  if fmtBits c = 4 then ((Memory.read p.key s.mem).toNat / (if nib % 2 = 0 then 1 else 16)) % 16
  else s.peekNat p.key (fmtBytes c)

/-- The code of an element stored at a place (R145): its nibble, or its bytes. -/
def State.storeElemAt (s : State) (w : Who) (p : Place) (c : BitVec 6) (nib code : Nat) : State :=
  if fmtBits c = 4 then s.storeNib w p.key (nib % 2 == 1) code else s.storeAt w p.key (leBytes (fmtBytes c) code)

/-- The error that reading an element meets (R111, R350, R361). -/
def State.elemReadError (s : State) (p : Place) (c : BitVec 6) : Option Nat := (s.readError [(p, fmtBytes c)]).map (·.1)

/-- The error that a store of an element meets: a lost link to a peer or to its stack (R111, R207), or, of a nibble, an uncorrectable error in the byte that
it merges into (R145, R166); with the key of the block. In a Cellar page that error is a context fault and no trap (R207), as the callers have it. A nibble
of a region's next plane reads no byte. -/
def State.elemStoreError (s : State) (p : Place) (c : BitVec 6) : Option (Nat × Nat) :=
  if s.linkLost p then some (0x14, p.key)
  else if fmtBits c = 4 && (regionAt s.regions p.key).isNone then s.readError [(p, 1)] else none

/-- The cause a store of an element meets in a plane region (R211): extra are words the same word has claimed. form: what SUM is asked for (R213). -/
def State.elemClaim (s : State) (w : Who) (p : Place) (c : BitVec 6) (extra : Extra) (form : StoreForm := .fmt c.toNat) : Option Nat × Extra :=
  match regionAt s.regions p.key with
  | none => (none, extra)
  | some r =>
    let off := p.key - r.key
    (planeCause s w r off (fmtBytes c) form extra, extra ++ (claimWords off (fmtBytes c)).map fun x => (r.key, x))

/-! ### Pattern records (R158) -/

def signed32 (n : Nat) : Int := (BitVec.ofNat 32 n).toInt

/-- The number at bytes of a record. -/
def recNat (bs : List Byte) (off n : Nat) : Nat := leNat ((bs.drop off).take n)

/-- perm holds a permutation of 0 to f - 1 in its first f fields, with zero above (R158). -/
def permOk (f perm : Nat) : Bool :=
  perm < 2 ^ (3 * f) && (List.range f).all fun v => ((List.range f).filter fun j => perm / 2 ^ (3 * j) % 8 == v).length == 1

/-- A pattern's record, when it is valid (R158). -/
def parsePattern (bs : List Byte) : Option Pattern :=
  let base := recNat bs 0 8
  let fmt := recNat bs 8 1
  let ctl := recNat bs 9 1
  let dims := ctl % 4 + 1
  let segs := ctl / 4 % 8
  let f := if segs = 0 then 0 else segs + 1
  let c0 := recNat bs 10 2
  let c1 := recNat bs 12 2
  let c2 := recNat bs 14 2
  let s0 := signed32 (recNat bs 16 4)
  let s1 := signed32 (recNat bs 20 4)
  let s2 := signed32 (recNat bs 24 4)
  let perm := recNat bs 28 4
  if base < 2 ^ 57 && fmt < 64 && fmtCodeOk (BitVec.ofNat 6 fmt) && ctl < 32 && dims ≤ 3 && c0 != 0 &&
      (if 2 ≤ dims then c1 != 0 else c1 == 0 && s1 == 0) && (if 3 ≤ dims then c2 != 0 else c2 == 0 && s2 == 0) &&
      (if f = 0 then perm == 0 else permOk f perm)
  then some ⟨base, BitVec.ofNat 6 fmt, dims, f, c0, c1, c2, s0, s1, s2, perm⟩ else none

def nat32 (i : Int) : Nat := (i % 2 ^ 32).toNat

/-- A pattern as its 32-byte record. -/
def Pattern.bytes (p : Pattern) : List Byte :=
  leBytes 8 p.base ++ leBytes 1 p.fmt.toNat ++ leBytes 1 (p.dims - 1 + 4 * (p.segs - 1)) ++ leBytes 2 p.count0 ++
  leBytes 2 p.count1 ++ leBytes 2 p.count2 ++ leBytes 4 (nat32 p.stride0) ++ leBytes 4 (nat32 p.stride1) ++
  leBytes 4 (nat32 p.stride2) ++ leBytes 4 p.perm

/-- The fields of a record position: 1 without segments. -/
def Pattern.fields (p : Pattern) : Nat := if p.segs = 0 then 1 else p.segs

/-- The element count of a pattern (R158). -/
def Pattern.count (p : Pattern) : Nat :=
  p.count0 * (if 2 ≤ p.dims then p.count1 else 1) * (if 3 ≤ p.dims then p.count2 else 1) * p.fields

/-- The nibble address of element n (R158). -/
def Pattern.nib (p : Pattern) (n : Nat) : Nat :=
  let f := p.fields
  let r := n / f
  let j := n % f
  let i0 : Int := (r % p.count0 : Nat)
  let q := r / p.count0
  let i1 : Int := if 2 ≤ p.dims then (q % p.count1 : Nat) else 0
  let i2 : Int := if 3 ≤ p.dims then (q / p.count1 : Nat) else 0
  let size : Int := (fmtNibs p.fmt : Nat)
  nibWrap ((2 * p.base : Nat) + i0 * p.stride0 * size + 2 * (i1 * p.stride1 + i2 * p.stride2) + size * (j : Nat))

/-- The element of the destination that takes source element n (R163): field j of record r goes to (r, p(j)). -/
def Copy.target (c : Copy) (n : Nat) : Nat :=
  if c.src.segs = 0 then n else n / c.src.segs + (c.src.perm / 2 ^ (3 * (n % c.src.segs)) % 8) * c.dst.count0

/-- The record of a pattern read from its address (R158): alignment is cause 0x03; a record outside a scratchpad page is none;
a page fault keeps its cause. -/
def State.readPattern (s : State) (w : Who) (va : Nat) : Except Nat (Option Pattern) :=
  if va % 32 != 0 then .error 3
  else if 2 ^ 57 ≤ va then .ok none
  else match s.xlate w .load va with
    | .error _ => .ok none
    | .ok p => if p.kind == 2 || p.kind == 3 then .ok (parsePattern (s.peek p.key 32)) else .ok none

end Sys2Proof.Machine
end

