-- ==== Sys2Proof/Machine/Section.lean ====
section
/-! DEFINITION. The payload of a hart section (R292), the digest of it (R355), Sillage and the gate of synchronising
events (R354, R355), and debug stops (R353). -/
namespace Sys2Proof.Machine

/-! ### SHA-256 (PRESUMED: FIPS 180-4; the manual names the function only, log 15) -/

/-- The greatest number below 2^b plus r whose e-th power is at most n, where r is known to be none too great. -/
def rootFrom (e n : Nat) : Nat → Nat → Nat
  | 0, r => r
  | b + 1, r => rootFrom e n b (if (r + 2 ^ b) ^ e ≤ n then r + 2 ^ b else r)

/-- The first 32 bits of the fraction of a prime's e-th root, from which FIPS 180-4 takes all its constants. -/
def rootFraction (e p : Nat) : BitVec 32 := BitVec.ofNat 32 (rootFrom e (p * 2 ^ (32 * e)) 36 0)

/-- The first 64 primes. -/
def shaPrimes : List Nat := (upFrom 2 310).filter fun p => (upFrom 2 (p - 2)).all fun d => p % d != 0

/-- The eight chained words. -/
structure ShaVars where
  a : BitVec 32
  b : BitVec 32
  c : BitVec 32
  d : BitVec 32
  e : BitVec 32
  f : BitVec 32
  g : BitVec 32
  h : BitVec 32
  deriving DecidableEq, Repr

/-- Three views of a word, turned right by i, by j and by n, or shifted by n, combined. -/
def turned (x : BitVec 32) (i j n : Nat) (shift : Bool) : BitVec 32 :=
  x.rotateRight i ^^^ x.rotateRight j ^^^ (if shift then x >>> n else x.rotateRight n)

/-- A round under a constant and a word of the message. -/
def ShaVars.round (v : ShaVars) (k w : BitVec 32) : ShaVars :=
  let pick := v.g ^^^ (v.e &&& (v.f ^^^ v.g))
  let most := (v.a &&& (v.b ||| v.c)) ||| (v.b &&& v.c)
  let t := v.h + turned v.e 6 11 25 false + pick + k + w
  ⟨t + turned v.a 2 13 22 false + most, v.a, v.b, v.c, v.d + t, v.e, v.f, v.g⟩

/-- The rounds under a list of constants: the next sixteen words of the message move on by one in each. -/
def ShaVars.rounds (v : ShaVars) (next : List (BitVec 32)) : List (BitVec 32) → ShaVars
  | [] => v
  | k :: ks =>
    let word (i : Nat) : BitVec 32 := nthD 0 next i
    let far := turned (word 14) 17 19 10 true + word 9 + turned (word 1) 7 18 3 true + word 0
    (v.round k (word 0)).rounds (next.drop 1 ++ [far]) ks

def ShaVars.plus (v w : ShaVars) : ShaVars :=
  ⟨v.a + w.a, v.b + w.b, v.c + w.c, v.d + w.d, v.e + w.e, v.f + w.f, v.g + w.g, v.h + w.h⟩

/-- The bytes of a number, most significant first. -/
def beBytes (n v : Nat) : List Byte := (leBytes n v).reverse

/-- The value before the first block. -/
def ShaVars.first : ShaVars :=
  let r (i : Nat) := rootFraction 2 (nthD 0 shaPrimes i)
  ⟨r 0, r 1, r 2, r 3, r 4, r 5, r 6, r 7⟩

/-- n 64-byte blocks of a message taken in. -/
def ShaVars.absorb (ks : List (BitVec 32)) : Nat → List Byte → ShaVars → ShaVars
  | 0, _, v => v
  | n + 1, m, v =>
    let words := (upFrom 0 16).map fun i => BitVec.ofNat 32 (leNat ((m.drop (4 * i)).take 4).reverse)
    ShaVars.absorb ks n (m.drop 64) (v.plus (v.rounds words ks))

/-- SHA-256 of a message. -/
def sha256 (m : List Byte) : List Byte :=
  let blocks := (m.length + 72) / 64
  let full := m ++ 0x80 :: List.replicate (64 * blocks - m.length - 9) 0 ++ beBytes 8 (8 * m.length)
  let v := ShaVars.first.absorb (shaPrimes.map (rootFraction 3)) blocks full
  [v.a, v.b, v.c, v.d, v.e, v.f, v.g, v.h].flatMap fun x => beBytes 4 x.toNat

/-- Bytes cut into pieces of n, at most k of them. -/
def chunks (n : Nat) : Nat → List Byte → List (List Byte)
  | 0, _ => []
  | k + 1, bs => if bs.isEmpty then [] else bs.take n :: chunks n k (bs.drop n)

/-! ### The hart section (R292). Sizes that R292 does not state are log 16's. -/

/-- Words of 8 bytes. -/
def words8 (ws : List Nat) : List Byte := ws.flatMap (leBytes 8)

/-- EXPSTAT (R257): its sticky bits from the hart, its counts from the Vestibule. -/
def State.expstat (s : State) (slot : Nat) (h : Hart) : Nat :=
  let mine := s.vest.filter fun v => v.ctx == h.ctx && v.slot == slot
  (mine.filter fun v => v.ready || v.failed.isSome).length * 2 ^ 24 + mine.length * 2 ^ 16 +
    h.hsat.toNat * 4 + h.csat.toNat * 2 + h.vfull.toNat

/-- SCOPEMISS (R224). -/
def Hart.scopemiss (h : Hart) : Nat := h.missCount.toNat * 2 ^ 32 + h.mreg.toNat

/-- A query descriptor's record (R191). -/
def QDesc.bytes (d : QDesc) : List Byte :=
  leBytes 8 d.base.toNat ++ leBytes 1 d.fmt.toNat ++ leBytes 1 0 ++ leBytes 2 d.keycol ++ leBytes 4 d.len ++ leBytes 4 d.rows ++
  leBytes 4 0 ++ leBytes 8 (d.stride % 2 ^ 64).toNat

/-- The copy that a token of a party names. -/
def Cluster.copyOf (c : Cluster) (p : Party) (tok : Nat) : Option Copy := c.copies.find? fun k => k.owner == p && k.tok == tok

def tokStateNat : TokState → Nat
  | .idle => 0
  | .busy => 1
  | .error => 2

/-- A token with its copy's patterns and position, 96 bytes. -/
def tokenBytes (t : Token) (k : Option Copy) : List Byte :=
  (match k with
    | some c => c.src.bytes ++ c.dst.bytes ++ leBytes 8 c.pos
    | none => List.replicate 72 0) ++
  leBytes 1 (tokStateNat t.state) ++ leBytes 1 t.under ++ leBytes 1 (match k with
    | some c => c.vround.toNat
    | none => 0) ++ leBytes 5 0 ++ leBytes 8 t.done ++ leBytes 8 t.addr

/-- A list register: a count of 8 bytes and 1,024 indices of 2 (log 16). -/
def listBytes (l : List Nat) : List Byte :=
  leBytes 8 l.length ++ l.flatMap (leBytes 2) ++ List.replicate (2 * (1024 - l.length)) 0

/-- A stream register: pattern copy, position, mode (0 unbound, 1 read, 2 write), captured VROUND. -/
def streamBytes (q : Option Stream) : List Byte :=
  match q with
  | none => List.replicate 56 0
  | some t => t.pat.bytes ++ words8 [t.pos, if t.write then 2 else 1, t.vround.toNat]

/-- The rewind record of a load queue: the producer to restart and its element. -/
def rewindBytes (q : LoadQ) : List Byte :=
  match q.restart ++ q.entries.map (·.2) with
  | [] => List.replicate 16 0
  | r :: _ => words8 [r.waddr.toNat, r.elem]

/-- The payload of a hart section. digest: the fields that R355 excludes are zero. -/
def State.hartSection (s : State) (slot : Nat) (h : Hart) (digest : Bool) : List Byte :=
  let z (n : Nat) : Nat := if digest then 0 else n
  let held := match h.state with
    | .held c => (1, c)
    | _ => (0, 0)
  let cl := s.cluster (slotCluster slot)
  words8 [h.sc.pc.toNat, h.vidx.toNat, z held.1, z held.2] ++
  words8 ((List.range 31).map fun i => (h.sc.x.getD (i + 1) 0).toNat) ++
  words8 [h.full.toNat, h.sfull.toNat] ++
  words8 ([h.vl, h.nregs, h.sc.fround.toNat, h.sc.vround.toNat, (h.sc.fflags.toNat / 32) * 256 + h.sc.fflags.toNat % 32,
    h.srseed.toNat, z h.cycle.toNat] ++ h.lanecyc.toList.map (fun x => z x.toNat) ++
    [h.layer.toNat, h.mpromo.toNat, z h.localreq.toNat, z h.remotereq.toNat, z h.scopemiss, z (s.expstat slot h)]) ++
  h.gen.toList.flatMap (fun g => leBytes 4 g.toNat) ++ leBytes 4 h.sc.g64.toNat ++ leBytes 4 0 ++
  ((h.m.toList.drop 1).flatMap fun m => leBytes 128 m.toNat) ++
  h.l.toList.flatMap listBytes ++ h.q.toList.flatMap streamBytes ++ h.lq.toList.flatMap rewindBytes ++
  ((upFrom 0 8).flatMap fun j => tokenBytes (h.tok.getD j Token.idle) (cl.copyOf (.vec slot) j)) ++
  (h.qd.toList.flatMap fun d => match d with
    | some d => d.bytes
    | none => List.replicate 32 0) ++
  h.groups.flatMap (leBytes 2) ++ List.replicate (2 * (16 - h.groups.length)) 0 ++ leBytes 8 h.groups.length ++
  (match h.parked with
    | some p => words8 [p.group + (if p.gbar then 65536 else 0) + (if p.go then 131072 else 0)]
    | none => []) ++
  (upFrom 0 h.nregs).flatMap fun r => (upFrom 0 (mvlOf h.nregs)).flatMap fun i => leBytes 4 (h.elem r i).toNat

/-! ### Debug stops (R353) -/

/-- A hart debug-stops before the word it stands at: cause 0x0F, held or a kernel fault (R282). -/
def State.debugStop (s : State) (slot : Nat) (src : Nat) : Out :=
  match s.hart slot with
  | none => .fault .noParty
  | some h =>
    { s with dbg := { s.dbg with src := src } }.trapHart slot h { cause := 0x0F } h.sc.pc

/-- Replay has diverged: DBGSTAT.div, and every hart of the context debug-stops, with src 5, at its next boundary (R353, R355). -/
def State.diverge (s : State) (ctx : Nat) : State :=
  let slots := s.harts.filterMap fun e => if e.2.ctx == ctx && e.2.state == .running then some e.1 else none
  { s with dbg := { s.dbg with div := true, stops := slots.foldl (fun t i => tblPut i (5, true) t) s.dbg.stops } }

/-- A hart is to stop because replay diverged. -/
def State.divergedHart (s : State) (ctx hart kid : Nat) : Bool :=
  s.dbg.stops.any fun e => e.2.1 == 5 && (s.hart e.1).any fun h => h.ofKernel ctx kid && h.hartid == hart

/-! ### Sillage (R354, R355) -/

/-- An entry of the log, and the continuation that carries a value. -/
def silEntry (seq hart kid kind : Nat) : List Byte :=
  leBytes 8 seq ++ leBytes 4 hart ++ leBytes 2 kid ++ leBytes 1 kind ++ leBytes 1 0
def silCont (v : Nat) : List Byte := leBytes 8 v ++ leBytes 6 0 ++ leBytes 1 14 ++ leBytes 1 0

/-- Append the entries of one event, all or none: a queue without room for them counts the event in dropped and sets DBGSTAT.div (R354). -/
def State.silPut (s : State) (recs : List (List Byte)) : State :=
  let pa := s.dbg.silPa
  let used := (s.physNat pa 8 + 2 ^ 64 - s.physNat (pa + 8) 8) % 2 ^ 64
  if used + recs.length ≤ 2 ^ s.dbg.silLg then recs.foldl (fun t r => (t.queuePut pa s.dbg.silLg 16 r).1) s
  else
    let t := s.physPut (pa + 16) (leBytes 8 (s.physNat (pa + 16) 8 + 1))
    { t with dbg := { t.dbg with div := true } }

/-- What the gate of a synchronising event answers. -/
inductive Gate where
  | pass (s : State)
  | wait
  | diverged (s : State)
  deriving DecidableEq, Repr

/-- A synchronising event of a hart (R354, R355): recorded under mode 1; under mode 2 performed only when the entry at head
names it, and then head advances. An entry for the same hart with another kind, or another continuation value, is a
divergence; an entry for another hart, or none, makes the event wait. val: the value of a continuation entry. -/
def State.syncEvent (s : State) (ctx hart kid kind : Nat) (val : Option Nat) : Gate :=
  if s.dbg.silMode == 0 || s.dbg.sel != ctx then .pass s
  else if s.dbg.silMode == 1 then
    let seq := tblGet 0 ctx s.dbg.silSeq
    let s1 := { s with dbg := { s.dbg with silSeq := tblPut ctx (seq + 1) s.dbg.silSeq } }
    .pass (s1.silPut (silEntry seq hart kid kind :: (val.map silCont).toList))
  else if s.divergedHart ctx hart kid then .diverged s
  else
    let pa := s.dbg.silPa
    let tail := s.physNat pa 8
    let head := s.physNat (pa + 8) 8
    let at' (n : Nat) : Nat := pa + 64 + 16 * (n % 2 ^ s.dbg.silLg)
    if tail ≤ head then .wait else
    let k := at' head
    if s.physNat (k + 8) 4 != hart || s.physNat (k + 12) 2 != kid then .wait
    else if s.physNat (k + 14) 1 != kind then .diverged (s.diverge ctx)
    else
      match val with
      | none => .pass (s.physPut (pa + 8) (leBytes 8 (head + 1)))
      | some v =>
        if tail ≤ head + 1 then .wait
        else if s.physNat (at' (head + 1)) 8 != v then .diverged (s.diverge ctx)
        else .pass (s.physPut (pa + 8) (leBytes 8 (head + 2)))

/-- The gate of a word of the party on turn: the word goes on, waits, or is overtaken by the stop of its context. -/
def Ctx.sync (k : Ctx) (kind : Nat) (val : Option Nat) : Res Ctx :=
  let w := k.st.who k.p
  match k.st.syncEvent w.ctx w.hart w.kid kind val with
  | .pass s => .ok { k with st := s }
  | .wait => k.wait
  | .diverged s => .error (s, .wait)

/-- The digest of a hart's section (R355): bytes 0 to 7 of its SHA-256. -/
def State.digest (s : State) (slot : Nat) (h : Hart) : Nat := leNat ((sha256 (s.hartSection slot h true)).take 8)

end Sys2Proof.Machine
end

