-- ==== Sys2Proof/Machine/Experts.lean ====
section
/-! DEFINITION. The Expert Residency Table, the Vestibule and the expert words, their fetches, replicas and evictions
(R244 to R258, R339 to R344). -/
namespace Sys2Proof.Machine

/-! ### The table -/

/-- The device entry of an expert of a context, when it names one (R244, R339). -/
def State.entryOf (s : State) (ctx e : Nat) : Option Nat :=
  let c := s.context ctx
  if e < c.nexp then some (c.expbase + e) else none

/-- The four fields of a replica set (R250). -/
def setFields (v : BitVec 64) : List (BitVec 16) := (upFrom 0 4).map fun m => v.extractLsb' (16 * m) 16

/-- The valid fields of a replica set. -/
def validFields (v : BitVec 64) : List (BitVec 16) := (setFields v).filter fun f => f.getLsbD 15

def fieldPeer (f : BitVec 16) : Bool := f.getLsbD 14
def fieldNum (f : BitVec 16) : Nat := f.toNat % 4096

/-- A replica set that R250 allows: no valid field that breaks the layout, no replica named twice. -/
def replicaSetOk (v : BitVec 64) : Bool :=
  let fs := validFields v
  (fs.all fun f => f.toNat / 4096 % 4 == 0 && (fieldPeer f || fieldNum f < 4)) && fs.eraseDups.length == fs.length

/-- Every hart of a context, placed or saved (R256). -/
def State.hartsOf (s : State) (ctx : Nat) : List Hart :=
  ((s.harts.map (·.2)).filter fun h => h.ctx == ctx) ++ (s.context ctx).saved.map (·.2)

/-- Holds on an expert; on one replica of it (R245). -/
def State.holdsOn (s : State) (ctx e : Nat) : Nat :=
  ((s.hartsOf ctx).map fun h => (h.holds.filter fun x => x.1 == e).length).sum
def State.holdsReplica (s : State) (ctx e : Nat) (r : Replica) : Nat :=
  ((s.hartsOf ctx).map fun h => (h.holds.filter fun x => x.1 == e && x.2 == r).length).sum

/-- Vestibule records that name an expert. -/
def State.recordsOn (s : State) (ctx e : Nat) : Nat := (s.vest.filter fun v => v.ctx == ctx && v.expert == e).length

/-- The virtual address of a slot of a context's window (R339). -/
def Context.slotVa (c : Context) (n : Nat) : Nat := c.xwin + n * 2 ^ c.slotlg

/-- The lowest free slot of a context. -/
def State.freeSlot (s : State) (ctx : Nat) : Option Nat :=
  let c := s.context ctx
  (upFrom 0 c.nslots).find? fun i => (tblFind (c.slotbase + i) s.slots).isNone

def State.takeSlot (s : State) (ctx n entry : Nat) : State :=
  { s with slots := tblPut ((s.context ctx).slotbase + n) entry s.slots }
def State.dropSlot (s : State) (ctx n : Nat) : State := { s with slots := tblDel ((s.context ctx).slotbase + n) s.slots }

/-- A replica stands in the staged set, or in the current set of a hart. -/
def State.replicaWanted (s : State) (ctx e : Nat) (f : BitVec 16) : Bool :=
  match s.entryOf ctx e with
  | none => false
  | some n => (validFields (s.expert n).staged).contains f ||
      (s.hartsOf ctx).any fun h => (validFields (tblGet 0 e h.sets)).contains f

/-- An expert whose replicas may be released: it is neither fetching nor pinned, and no record names it (R245). -/
def State.mayRelease (s : State) (ctx e n : Nat) : Bool :=
  let x := s.expert n
  x.state != .fetching && x.state != .pinned && s.recordsOn ctx e == 0

/-- Replicas that left every set are released once no hart holds them and nothing else keeps them (R245, R249). -/
def State.releaseReplicas (s : State) (ctx : Nat) : State :=
  (upFrom 0 (s.context ctx).nexp).foldl (fun t e =>
    match t.entryOf ctx e with
    | none => t
    | some n =>
      let x := t.expert n
      let gone := x.filled.filter fun r => t.mayRelease ctx e n && !t.replicaWanted ctx e r.1 && t.holdsReplica ctx e (.field r.1) == 0
      if gone.isEmpty then t else
      gone.foldl (fun u r => u.dropSlot ctx r.2)
        (t.setExpert n { x with filled := x.filled.filter fun r => !gone.contains r })) s

/-- The replica that xlook returns for a hart's current set (R246): none when no replica is resident. -/
def chooseReplica (die : Nat) (set : BitVec 64) (x : Expert) : Option (Replica × Nat) :=
  match x.state with
  | .resident | .pinned =>
    let fs := validFields set
    let slotOf (f : BitVec 16) : Option Nat := (x.filled.find? fun r => r.1 == f).map (·.2)
    let dieField (d : Nat) : Option (Replica × Nat) :=
      (fs.find? fun f => !fieldPeer f && fieldNum f == d).bind fun f => (slotOf f).map fun n => (.field f, n)
    match dieField die with
    | some r => some r
    | none =>
      match (upFrom 0 4).findSome? dieField with
      | some r => some r
      | none =>
        match (fs.filter fieldPeer).findSome? fun f => (slotOf f).map fun n => (Replica.field f, n) with
        | some r => some r
        | none => some (.home, x.slot)
  | _ => none

def XState.code : XState → Nat
  | .absent => 0
  | .fetching => 1
  | .resident => 2
  | .pinned => 3

/-- A hold taken; each replica is held at most once (R245). -/
def Hart.hold (h : Hart) (e : Nat) (r : Replica) : Hart :=
  if h.holds.contains (e, r) then h else { h with holds := h.holds ++ [(e, r)] }

/-! ### The words -/

/-- The waits of halt's step 1 (R229, R249): earlier vector words committed, no token busy, forked programs halted. -/
def Ctx.settled (k : Ctx) (h : Hart) : Res Unit :=
  let cl := k.st.cluster (slotCluster k.slot)
  let forked := (match cl.mcc with
      | some m => m.slot == k.slot
      | none => false) || (match cl.seq with
      | some q => q.slot == k.slot
      | none => false)
  if !h.quiet || forked || h.tok.toList.any (fun t => t.state == .busy) then k.wait else .ok ()

/-- The trap of a token in error at a join (R165, R229): the lowest of those named. Its record names the copy as its source (R286; log 48). -/
def tokenTrap (toks : List Token) (named : BitVec 8) : Option Trap :=
  match (upFrom 0 8).find? fun j => named.getLsbD j && (nthD Token.idle toks j).state == .error with
  | some j =>
    let t := nthD Token.idle toks j
    some { cause := 0x12, kind := 3, under := t.under, addr := t.addr, info := j }
  | none => none

/-- The low n bits of a mask. -/
def maskLow (m : Mask) (n : Nat) : Mask := if 1024 ≤ n then m else m &&& (BitVec.allOnes 1024 >>> (1024 - n))

/-- The set bits of a mask below n, ascending. -/
def maskBits (m : Mask) (n : Nat) : List Nat := (upFrom 0 n).filter fun i => m.getLsbD i

/-- The mask with the given bits. -/
def maskOf (l : List Nat) : Mask := l.foldl (fun m i => m ||| (1 <<< i)) 0

/-- xlook (R246). -/
def execXlook (d a : Reg) (s : State) : Out :=
  s.scalarWord .vecOnly fun k => do
    k.need [d] [a]
    let h ← k.hart
    let v := (k.c.get a).toNat
    if 16384 ≤ v then k.cause 1 else
    match k.st.entryOf h.ctx v with
    | none => .ok (k.write d 0)
    | some n =>
      let x := k.st.expert n
      match chooseReplica (clusterDie (slotCluster k.slot)) (tblGet 0 v h.sets) x with
      | some (r, i) =>
        let va := (k.st.context h.ctx).slotVa i
        .ok ((k.setHart (h.hold v r)).write d (BitVec.ofNat 64 (va / 65536 * 65536 % 2 ^ 57 + x.state.code)))
      | none => .ok (k.write d (BitVec.ofNat 64 x.state.code))

/-- Vestibule entries in use, in all and by a context (R247). -/
def State.vestUsed (s : State) : Nat := (s.vest.map (·.count)).sum
def State.vestUsedBy (s : State) (ctx : Nat) : Nat := ((s.vest.filter fun v => v.ctx == ctx).map (·.count)).sum

/-- xpark (R247). Where it starts the fetch, which is forked at the word, the hart's earlier vector words come first (R238). -/
def execXpark (d a : Reg) (m : BitVec 4) (s : State) : Out :=
  s.scalarWord .vecOnly fun k => do
    k.need [d] [a]
    let h ← k.hart
    let v := (k.c.get a).toNat
    let e := v % 16384
    let t0 := v / 65536 % 2 ^ 32
    if v / 16384 % 4 != 0 || 2 ^ 48 ≤ v then k.cause 1 else
    if k.st.pendingAny k.slot h (fun u => m != 0 && u.writes.contains (.m m.toNat)) || k.ffPending then k.wait else
    match (k.st.entryOf h.ctx e).filter fun n => (k.st.expert n).tier != 0 with
    | none => k.cause 4
    | some n =>
      let x := k.st.expert n
      if x.state == .absent && !h.quiet then k.wait else
      let bits := maskBits (h.mask m.toNat) h.vl
      let c := k.st.context h.ctx
      let free := min (65536 - k.st.vestUsed) (c.vquota - k.st.vestUsedBy h.ctx)
      let mine := (k.st.vest.filter fun r => r.ctx == h.ctx && r.slot == k.slot).length
      let num := if 64 ≤ mine then 0 else min bits.length free
      let ready := x.state == .resident || x.state == .pinned
      let s1 : State := if num = 0 then k.st else
        { k.st with vest := k.st.vest ++
            [⟨h.ctx, k.slot, e, BitVec.ofNat 32 t0, maskOf (bits.take num), num, ready, none⟩] }
      let s2 := if x.state == .absent then s1.setExpert n { x with state := .fetching, started := false } else s1
      let h' := if num < bits.length then { h with vfull := true } else h
      .ok (({ k with st := s2 } : Ctx).setHart h' |>.write d (BitVec.ofNat 64 num))

/-- xwake (R248). -/
def execXwake (d : Reg) (m : BitVec 4) (s : State) : Out :=
  s.scalarWord .vecOnly fun k => do
    k.need [d] []
    let h ← k.hart
    let mine (r : VestRec) : Bool := r.ctx == h.ctx && r.slot == k.slot
    if !k.st.vest.any mine then .ok (k.write d (BitVec.allOnes 64)) else
    if k.st.pendingAny k.slot h fun u => u.writes.contains (.m m.toNat) || u.reads.contains (.m m.toNat) then k.wait else
    match k.st.vest.find? fun r => mine r && (r.ready || r.failed.isSome) with
    | none => k.wait
    | some r =>
      let without (t : State) : State := ({ t with vest := t.vest.erase r } : State).releaseReplicas h.ctx
      match r.failed with
      | some c => .error (without k.st, .trap { cause := 0x12, kind := 6, under := c, access := accessField 8 0 0 false, info := r.expert })
      | none =>
        let k1 ← k.sync 10 none
        let h1 := { h with m := h.m.setIfInBounds m.toNat r.bits }
        let x := k.st.expert ((k.st.entryOf h.ctx r.expert).getD 0)
        let h2 := match chooseReplica (clusterDie (slotCluster k.slot)) (tblGet 0 r.expert h.sets) x with
          | some (rep, _) => h1.hold r.expert rep
          | none => h1
        let k2 := k1.setHart h2
        .ok (({ k2 with st := without k2.st } : Ctx).write d (BitVec.ofNat 64 (r.expert + r.t0.toNat * 65536)))

/-- The staged sets of a context as current sets (R249). -/
def State.stagedSets (s : State) (ctx : Nat) : Tbl (BitVec 64) :=
  (upFrom 0 (s.context ctx).nexp).filterMap fun e =>
    match s.entryOf ctx e with
    | some n => if (s.expert n).staged = 0 then none else some (e, (s.expert n).staged)
    | none => none

/-- xlayer (R249). -/
def execXlayer (d : Reg) (s : State) : Out :=
  s.scalarWord .vecOnly fun k => do
    k.need [d] []
    let h ← k.hart
    k.settled h
    match tokenTrap h.tok.toList 0xFF with
    | some t => k.trap t
    | none =>
      let h1 := { h with holds := [], sets := k.st.stagedSets h.ctx, layer := h.layer + 1 }
      let k1 := k.setHart h1
      .ok (({ k1 with st := k1.st.releaseReplicas h.ctx } : Ctx).write d (h1.layer.setWidth 64))

/-- A replica set staged whole (R250, R341). -/
def State.stageSet (s : State) (ctx n : Nat) (v : BitVec 64) : State :=
  (s.setExpert n { s.expert n with staged := v }).releaseReplicas ctx

/-- xrepl (R250). -/
def execXrepl (a b : Reg) (s : State) : Out :=
  s.scalarWord .vecOnly fun k => do
    k.need [] [a, b]
    let h ← k.hart
    let v := (k.c.get a).toNat
    match (if v < 16384 then k.st.entryOf h.ctx v else none) with
    | none => k.cause 1
    | some n =>
      if !replicaSetOk (k.c.get b) then k.cause 1 else
      .ok { k with st := k.st.stageSet h.ctx n (k.c.get b), c := k.c.advance }

/-- xhint (R251). -/
def execXhint (a b : Reg) (s : State) : Out :=
  s.scalarWord .vecOnly fun k => do
    k.need [] [a, b]
    let h ← k.hart
    let v := (k.c.get a).toNat
    let w := k.c.get b
    match (if v < 16384 then k.st.entryOf h.ctx v else none) with
    | none => k.cause 1
    | some n =>
      if w.field 31 8 != 0 then k.cause 1 else
      let x := { k.st.expert n with reuse := w.extractLsb' 0 8, nextuse := w.extractLsb' 32 32 }
      .ok { k with st := k.st.setExpert n x, c := k.c.advance }

/-! ### Fetches, replicas, evictions (R342, R343) -/

/-- The slots of an expert: its home slot and those of its replicas. -/
def Expert.slots (x : Expert) : List Nat := x.slot :: x.filled.map (·.2)

/-- An expert that the victim policy may choose (R343). -/
def State.candidate (s : State) (ctx e : Nat) : Bool :=
  let c := s.context ctx
  match s.entryOf ctx e with
  | some n => (s.expert n).state == .resident && s.holdsOn ctx e == 0 && s.recordsOn ctx e == 0 &&
      !(s.expert n).slots.any fun i => s.pinsOn ctx (c.slotVa i) (2 ^ c.slotlg)
  | none => false

/-- An eviction (R343): the home and replica slots become free. -/
def State.evict (s : State) (ctx e : Nat) : State :=
  match s.entryOf ctx e with
  | none => s
  | some n =>
    let x := s.expert n
    x.filled.foldl (fun t r => t.dropSlot ctx r.2)
      ((s.setExpert n { x with state := .absent, slot := 0, filled := [], started := false }).dropSlot ctx x.slot)

/-- Of two experts, the one the policy prefers: the first unless the second is strictly better (R343). -/
def betterVictim (mode : Bool) (a b : Nat × Expert) : Nat × Expert :=
  let cost (x : Expert) : Nat := x.cost.toNat * x.reuse.toNat
  if mode then (if a.2.nextuse.toNat < b.2.nextuse.toNat then b else a) else (if cost b.2 < cost a.2 then b else a)

/-- The victim of a context under XPOL (R343). -/
def State.victim (s : State) (ctx : Nat) : Option Nat :=
  let c := s.context ctx
  let cs := ((upFrom 0 c.nexp).filter fun e => s.candidate ctx e).map fun e => (e, s.expert (c.expbase + e))
  match cs with
  | [] => none
  | x :: rest => some (rest.foldl (betterVictim c.xpol) x).1

/-- expertFetchStart (R342): the fetch takes the lowest free slot, or the lowest slot that an eviction frees. -/
def execExpertFetchStart (ctx e : Nat) (s : State) : Out :=
  match s.entryOf ctx e with
  | none => .next s
  | some n =>
    let x := s.expert n
    if !(x.state == .fetching) || x.started then .next s else
    let s1 := match s.freeSlot ctx with
      | some _ => s
      | none => match s.victim ctx with
        | some v => s.evict ctx v
        | none => s
    match s1.freeSlot ctx with
    | none => .next s
    | some i => .next ((s1.setExpert n { s1.expert n with slot := i, started := true }).takeSlot ctx i n)

/-- A range of bytes copied, listed bytes only: the rest of the target reads as an unlisted byte. -/
def State.copyRange (s : State) (src dst n : Nat) : State :=
  let cells := s.mem.filter fun c => src ≤ c.1 && c.1 < src + n
  let cleared := s.zeroRange dst n
  cells.foldl (fun t c => { t with mem := Memory.write (dst + (c.1 - src)) c.2 t.mem }) cleared

/-- A slot's page as the fetch engine writes it: a valid working page with w (R342). -/
def State.slotPage (s : State) (ctx va : Nat) : Option Nat :=
  match s.leaf ctx va with
  | some (e, lg) =>
    if entryField e 61 59 == 0 && entryField e 10 10 == 1 then some (entryField e 51 12 * 4096 + va % 2 ^ lg) else none
  | none => none

/-- The tier port of a location, and the cause with which a location is refused (R338, R360). -/
def tierPort (loc : Nat) : Nat := loc / 2 ^ 63
def State.tierCause (s : State) (loc : Nat) : Option Nat :=
  let nvme := loc / 2 ^ 62 % 2 == 1
  if loc % 4096 != 0 || (!nvme && loc / 2 ^ 54 % 256 != 0) || nvme != s.tmode.getLsbD (tierPort loc) then some 1
  else if s.tierLost.contains (tierPort loc) then some 0x14 else none

/-- The bytes of n pages of 4 KiB read from a tier location into a slot, in ascending address: the state after the pages
before a failure, and its cause. -/
def State.fetchPages (s : State) (ctx loc va : Nat) : Nat → State × Option Nat
  | 0 => (s, none)
  | n + 1 =>
    match s.slotPage ctx va with
    | none => (s, some 5)
    | some pa =>
      if s.bad.any fun b => b < tierKey loc + 4096 && tierKey loc < b + 64 then (s, some 9) else
      (s.copyRange (tierKey loc) pa 4096).fetchPages ctx (loc + 4096) (va + 4096) n

/-- expertFetchComplete (R342): the fetch ends resident, or absent with its records failed. -/
def execExpertFetchComplete (ctx e : Nat) (s : State) : Out :=
  match s.entryOf ctx e with
  | none => .next s
  | some n =>
    let x := s.expert n
    if !(x.state == .fetching) || !x.started then .next s else
    let c := s.context ctx
    let (s1, bad) := match s.tierCause x.tier with
      | some k => (s, some k)
      | none => s.fetchPages ctx x.tier (c.slotVa x.slot) (2 ^ c.slotlg / 4096)
    let mine (r : VestRec) : Bool := r.ctx == ctx && r.expert == e
    match bad with
    | none =>
      let s2 := s1.setExpert n { x with state := .resident, started := false }
      .next { s2 with vest := s2.vest.map fun r => if mine r then { r with ready := true } else r }
    | some k =>
      let s2 := (s1.setExpert n { x with state := .absent, started := false, slot := 0 }).dropSlot ctx x.slot
      .next { s2 with vest := s2.vest.map fun r => if mine r && !r.ready then { r with failed := some k } else r }

/-- Pages of 4 KiB copied from one slot to another; none when a page of either is not one the engine may use. -/
def State.copySlot (s : State) (ctx src dst : Nat) : Nat → Option State
  | 0 => some s
  | n + 1 =>
    match s.slotPage ctx src, s.slotPage ctx dst with
    | some a, some b => (s.copyRange a b 4096).copySlot ctx (src + 4096) (dst + 4096) n
    | _, _ => none

/-- The first uncorrectable block that n bytes of a slot meet from an address on, page by page (R350). -/
def State.slotBad (s : State) (ctx va : Nat) : Nat → Option Nat
  | 0 => none
  | n + 1 => match (s.slotPage ctx va).bind fun a => s.badIn a 4096 with
    | some b => some b
    | none => s.slotBad ctx (va + 4096) n

/-- replicaFill (R250, R342): a replica of the staged set or of a current set is filled from the resident home slot into a
free slot, never by eviction. A peer replica needs its link, and takes a slot of the window as a die replica does; a fill that would read an
uncorrectable block is only logged and not made, since no instruction reads it (R350; DESIGN CHOICE, log 19). -/
def execReplicaFill (ctx e : Nat) (rep : BitVec 16) (s : State) : Out :=
  match s.entryOf ctx e with
  | none => .next s
  | some n =>
    let x := s.expert n
    let c := s.context ctx
    let resident := x.state == .resident || x.state == .pinned
    if !resident || !rep.getLsbD 15 || !s.replicaWanted ctx e rep || x.filled.any (fun r => r.1 == rep) ||
        (fieldPeer rep && s.peerLost (fieldNum rep)) then .next s else
    match s.freeSlot ctx with
    | none => .next s
    | some i =>
      match s.slotBad ctx (c.slotVa x.slot) (2 ^ c.slotlg / 4096), s.copySlot ctx (c.slotVa x.slot) (c.slotVa i) (2 ^ c.slotlg / 4096) with
      | some b, _ => .next (s.logError b)
      | none, none => .next s
      | none, some s1 => .next ((s1.setExpert n { x with filled := x.filled ++ [(rep, i)] }).takeSlot ctx i n)

/-- xe0Pin (R341): a write of state 3 over 2. -/
def execXe0Pin (ctx e : Nat) (s : State) : Out :=
  match s.entryOf ctx e with
  | some n =>
    let x := s.expert n
    .next (if x.state == .resident then s.setExpert n { x with state := .pinned } else s)
  | none => .next s

/-- xe0Unpin (R341): a write of state 2 over 3. -/
def execXe0Unpin (ctx e : Nat) (s : State) : Out :=
  match s.entryOf ctx e with
  | some n =>
    let x := s.expert n
    .next (if x.state == .pinned then (s.setExpert n { x with state := .resident }).releaseReplicas ctx else s)
  | none => .next s

/-- xe0Evict (R343): a write of state 0 over 2, when the expert is a candidate. -/
def execXe0Evict (ctx e : Nat) (s : State) : Out := .next (if s.candidate ctx e then s.evict ctx e else s)

end Sys2Proof.Machine
end

