-- ==== Sys2Proof/Machine/Kernels.lean ====
section
/-! DEFINITION. What launch, fork and the end of a kernel share: scratchpad allocations and slots (R146, R309), a hart's
creation, a hart's retirement (R229), groups that lose a member (R215, R217, R219, R220), and the end of a kernel with its
completion record (R287, R307). -/
namespace Sys2Proof.Machine

/-! ### Allocation -/

/-- A scratchpad range of a cluster meets no live allocation, bound region or shadow (R146). -/
def State.rangeFree (s : State) (c off n : Nat) : Bool :=
  off + n ≤ 2 ^ 21 &&
  !(s.cluster c).allocs.any (fun a => rangesMeet off n a.offset a.size) &&
  !s.regions.any (fun r => r.scratch && r.home == c && rangesMeet off n r.off (2 * r.size))
where
  rangesMeet (a n b m : Nat) : Bool := a < b + m && b < a + n

/-- The lowest offset at which .scratch bytes fit on a cluster (R146). -/
def State.placeScratch (s : State) (c n : Nat) : Option Nat :=
  ((upFrom 0 512).map (· * 4096)).find? fun o => s.rangeFree c o n

/-- The lowest free slot of a cluster. -/
def State.freeHartSlot (s : State) (c : Nat) : Option Nat := (upFrom (8 * c) 8).find? fun i => (s.hart i).isNone

/-- A cluster can take a hart of a kernel: a slot, and .scratch bytes (R227, R309). -/
def State.clusterFits (s : State) (c : Nat) (k : Kernel) : Bool :=
  (s.freeHartSlot c).isSome && (k.scratch == 0 || (s.placeScratch c k.scratch).isSome)

/-- A grant: the largest of 64, 32, 16 and 8 within a request and the lanes left (R311). -/
def grantOf (request left : Nat) : Nat := ([64, 32, 16, 8].find? fun g => g ≤ request && g ≤ left).getD 0

/-- Lanes granted on a cluster. -/
def State.lanesUsed (s : State) (c : Nat) : Nat := ((s.harts.filter fun e => slotCluster e.1 == c).map fun e => e.2.grant).sum

/-- A hart of another kernel stands on the cluster. -/
def State.sharedCluster (s : State) (c : Nat) (k : Kernel) : Bool :=
  s.harts.any fun e => slotCluster e.1 == c && !e.2.ofKernel k.ctx k.kid

/-- A cluster may take a kernel's next hart: it fits, and in locked-clock mode no other kernel's hart stands there (R309, R314). -/
def State.clusterTakes (s : State) (c : Nat) (k : Kernel) : Bool := s.clusterFits c k && !(s.clkCur && s.sharedCluster c k)

/-- A hart created on a cluster (R59, R146, R227, R309): its slot, its allocation and its SCRBASE; in locked-clock mode its grant is fixed
(R314). none: it does not fit. -/
def State.createHart (s : State) (k : Kernel) (c hartid : Nat) (pc : Word) (s2 : Word) : Option State :=
  match s.freeHartSlot c with
  | none => none
  | some slot =>
    let h (scr : Word) : Hart :=
      let g := Hart.launch k.ctx k.kid hartid k.nregs k.lanes pc k.args scr s.time s.wall
      { g with sc := g.sc.set 2 s2, grant := if s.clkCur then grantOf k.lanes (64 - s.lanesUsed c) else 0 }
    if k.scratch = 0 then some (s.setHart slot (h 0)) else
    match s.placeScratch c k.scratch with
    | none => none
    | some off =>
      let s1 := s.freshRange (scratchKey c off) k.scratch
      let s2 := s1.setCluster c { s1.cluster c with allocs := (s.cluster c).allocs ++ [⟨k.ctx, k.kid, off, k.scratch⟩] }
      some (s2.setHart slot (h (BitVec.ofNat 64 ((s.context k.ctx).scrwin + off))))

/-! ### Groups -/

/-- A hart's rank in a group (R58). -/
def State.rankOf (s : State) (ctx group kid hartid : Nat) : Nat :=
  ((s.members ctx group kid).filter fun e => e.2.hartid < hartid).length

/-- A store's place in the order of PRIO, lowest first (R212): members by rank, then KERNELID; harts that left below all
members, by KERNELID and HARTID. -/
def State.prioKey (s : State) (r : Region) (p : PlaneStore) : Nat :=
  let mine := (s.members r.ctx r.group r.kid).any fun e => e.2.kid == p.kid && e.2.hartid == p.hart
  let rank := if mine then 1 + s.rankOf r.ctx r.group r.kid p.hart else 0
  (rank * 2 ^ 16 + p.kid) * 2 ^ 32 + p.hart

/-- A value put into a list before the first with a greater key. -/
def insertBy {α : Type} (key : α → Nat) (x : α) : List α → List α
  | [] => [x]
  | y :: t => if key x < key y then x :: y :: t else y :: insertBy key x t

/-- A list in rising order of a key, equal keys in their old order. -/
def sortBy {α : Type} (key : α → Nat) (l : List α) : List α := l.foldl (fun acc x => insertBy key x acc) []

/-- The exact FP32 sum of stored slots, rounded once (R213). -/
def sumF32 (xs : List Slot) : Slot :=
  let vs := xs.map f32
  let infs := vs.filter fun v => match v with
    | .inf _ => true
    | _ => false
  if vs.any Num.isNaN || (infs.contains (.inf false) && infs.contains (.inf true)) then 0x7FC00000
  else match infs with
    | v :: _ => (roundF32 v rne 0 0).1
    | [] =>
      if xs.all fun x => x == 0x80000000 then (if xs.isEmpty then 0 else 0x80000000) else
      let sum := vs.foldl (fun a v => (addNum rne a v).1) (.fin false 0 0)
      match sum with
      | .fin _ 0 _ => 0
      | v => (roundF32 v rne 0 0).1

/-- The exact integer sum of stored slots and whether it leaves the type's range (R213). -/
def sumInt (sign : Bool) (xs : List Slot) : Slot × Bool :=
  let v : Int := (xs.map fun x => if sign then x.toInt else (x.toNat : Int)).sum
  (BitVec.ofInt 32 v, if sign then v < -(2 ^ 31) || 2 ^ 31 ≤ v else 2 ^ 32 ≤ v)

/-- The uncorrectable error that the settlement of a region under SUM would meet in the wide accumulators of its words (R213, R350). -/
def State.wideBad (s : State) (r : Region) : Option Nat :=
  if s.bad.isEmpty || r.rule != 1 then none else
  (r.stores.flatMap fun p => claimWords p.off p.bytes.length).findSome? fun off => s.badIn (wideKey (r.key + off)) 4

/-- The stores of a region under SUM settled, and whether an integer sum left its type's range (R213). -/
def State.settleSum (s : State) (r : Region) : State × Bool :=
  ((r.stores.flatMap fun p => claimWords p.off p.bytes.length).eraseDups).foldl (fun (acc : State × Bool) off =>
    let xs := (r.stores.filter fun p => p.off == off).map fun p => BitVec.ofNat 32 (leNat p.bytes)
    let (v, o) := if r.type = 0 then (sumF32 xs, false) else sumInt (r.type == 1) xs
    (acc.1.pokeNat (r.key + off) 4 v.toNat, acc.2 || o)) (s, false)

/-- A region's stores settled by its rule, its next plane made present, and its status written (R212 to R215). An uncorrectable error in its wide
accumulators is only logged here: the step that reads them has trapped, and a leave that completes the step reads no data (R350; DESIGN CHOICE, log 55). -/
def State.settle (s : State) (r : Region) : State :=
  let s0 := match s.wideBad r with
    | some b => s.logError b
    | none => s
  let s1 : State := { s0 with regions := s.regions.map fun (x : Region) => if x.key == r.key then { x with stores := [] } else x }
  let (s2, ovf) := match r.rule with
    | 1 => s1.settleSum r
    | 0 => ((sortBy (s.prioKey r) r.stores).foldl (fun t p => t.perform r.key p) s1, false)
    | _ => (r.stores.foldl (fun t p => t.perform r.key p) s1, false)
  s2.writeStatus r (if ovf then 1 else 0)

/-- A step or gbar that every member has reached completes (R215, R220): in a step the regions are settled, and those that waited for it
are released (R217); the members are let go. -/
def State.completeGroup (s : State) (ctx group kid : Nat) (gbar : Bool) : State :=
  if gbar then s.endGbar ctx group kid
  else if !s.allArrived ctx group kid false then s
  else (((s.groupRegions ctx group kid).foldl (fun t r => t.settle r) s).releaseDying ctx group kid).letGo ctx group kid false

/-- A group that has lost a member (R217, R219): a step or gbar in progress may complete; without members its regions are
released. -/
def State.groupLeft (s : State) (ctx group kid : Nat) : State :=
  let s1 := (s.completeGroup ctx group kid false).completeGroup ctx group kid true
  if group != 0 && (s1.members ctx group kid).isEmpty then
    (s1.groupRegions ctx group kid).foldl (fun t r => t.releaseRegion r (!r.scratch)) s1
  else s1

/-! ### The end of a hart and of a kernel -/

/-- A slot freed and zeroed (R229, R294): the hart's records and holds go; the barriers of a cluster without harts return to
reset. -/
def State.removeHart (s : State) (slot : Nat) : State :=
  match s.hart slot with
  | none => s
  | some h =>
    let s1 := { s with harts := tblDel slot s.harts, vest := s.vest.filter fun r => !(r.ctx == h.ctx && r.slot == slot),
                       dbg := { s.dbg with stops := tblDel slot s.dbg.stops } }
    let c := slotCluster slot
    let used := s1.harts.any fun e => slotCluster e.1 == c
    let s2 := if used then s1 else s1.setCluster c { s1.cluster c with bars := [] }
    (s2.leaveCluster h.ctx c).releaseReplicas h.ctx

/-- A cluster without the accumulators, the Larder runs and the allocations of a kernel (R287, R294). -/
def Cluster.forget (c : Cluster) (ctx kid : Nat) : Cluster :=
  let js := (upFrom 0 4).filter fun j => c.accUser.getD j none == some (ctx, kid)
  { c with acc := c.acc.filter fun e => !js.contains (e.1 / 12288),
           accUser := c.accUser.map fun u => if u == some (ctx, kid) then none else u,
           larder := c.larder.filter fun r => !(r.ctx == ctx && r.kid == kid),
           refetch := c.refetch.filter fun r => !(r.ctx == ctx && r.kid == kid),
           allocs := c.allocs.filter fun a => !(a.ctx == ctx && a.kid == kid) }

/-- What a kernel used on a cluster released and zeroed (R287, R294): its allocations (one that a region waits in is kept until it is
released, R217), its accumulators, its Larder runs. -/
def State.releaseCluster (s : State) (c ctx kid : Nat) : State :=
  let cl := s.cluster c
  let mine (a : Alloc) : Bool := a.ctx == ctx && a.kid == kid
  let freed (a : Alloc) : Bool := mine a && !s.dyingIn c a
  let s1 := (cl.allocs.filter freed).foldl (fun t a => t.freshRange (scratchKey c a.offset) a.size) s
  s1.setCluster c { (s1.cluster c).forget ctx kid with
    allocs := (cl.allocs.filter fun a => !freed a).map fun a => if mine a then { a with kid := endedKid kid } else a }

/-- A kernel's completion record (R307). -/
def Kernel.record (k : Kernel) (state cause : Nat) : List Byte :=
  let mark (n : Nat) : Nat := if k.broken then 2 ^ 64 - 1 else n
  leBytes 1 state ++ leBytes 1 cause ++ leBytes 6 0 ++ leBytes 8 k.count ++ leBytes 8 (mark k.refresh) ++ leBytes 8 (mark k.retry)

/-- The completion record written, or the fault record that says why not (R307). An address in a bound plane region is refused with cause 0x05 (DESIGN
CHOICE, log 76: R307 does not name it). -/
def State.complete (s : State) (k : Kernel) (state cause : Nat) : State :=
  if k.done = 0 then s else
  let w : Who := ⟨k.ctx, none, k.die, true, k.kid, 0xFFFFFFFF, [], 0⟩
  let failed (c : Nat) : State :=
    s.faultPut k.ctx (faultRecord ⟨8, k.ctx, k.die, 0xFFFF, k.kid, 0xFFFFFFFF, 0, 0⟩
      { cause := c, addr := k.done, access := 2 } 0)
  match s.xlate w .store k.done with
  | .error c => failed (if c = 4 then 4 else 5)
  | .ok p =>
    if (regionAt s.regions p.key).isSome then failed 5
    else (s.touch k.ctx k.done).poke p.key (k.record state cause)

/-- A kernel ends (R217, R287, R307, R308): its regions (those of a group in a step once that has ended), its stores on every cluster and its place
on the scoreboard go, the kernels that wait for it wait no more, and its completion record is written. -/
def State.endKernel (s : State) (k : Kernel) (state cause : Nat) : State :=
  let mine (r : Region) : Bool := r.ctx == k.ctx && ((r.group == 0 && r.kid == k.kid) || s.inAllocation r k.ctx k.kid)
  let s1 := (s.regions.filter mine).foldl (fun t r => t.retireRegion r (!r.scratch)) s
  let s2 := (tblKeys s1.clusters).foldl (fun t c => t.releaseCluster c k.ctx k.kid) s1
  let left := s2.kernels.filter fun x => !(x.ctx == k.ctx && x.kid == k.kid)
  let s3 : State := { s2 with kernels := left.map fun x =>
    if x.ctx == k.ctx then { x with after := x.after.filter (· != k.kid) } else x }
  s3.complete k state cause

/-- The last hart of a running kernel has retired: the kernel is done (R308). -/
def State.kernelDone (s : State) (ctx kid : Nat) : State :=
  match s.kernel ctx kid with
  | none => s
  | some k =>
    if k.state == .running && k.placed == k.n && !s.harts.any (fun e => e.2.ofKernel ctx kid) then s.endKernel k 2 0 else s

/-- A saved cluster whose map of the blocks that its context may find again loses some. -/
def Cluster.blank (c : Cluster) (blocks : List Nat) : Cluster :=
  { c with dirty := blocks.foldl (fun d i => d &&& ~~~((1 : BitVec 512) <<< i)) c.dirty }

/-- A saved cluster without a kernel: the blocks of the kernel's allocations are zero. -/
def Cluster.dropKernel (c : Cluster) (ctx kid : Nat) : Cluster :=
  let blocks := (c.allocs.filter fun a => a.ctx == ctx && a.kid == kid).flatMap fun a => upFrom (a.offset / 4096) (a.size / 4096)
  ((c.stopKernel ctx kid).forget ctx kid).blank blocks

/-- Saved harts of a context that shared a group with those of a kernel that has ended: the step in progress is abandoned and a gbar that all the
others have reached ends, so that their arrivals have what they wait for (R218, R220). -/
def savedGroup (hs : Tbl Hart) (ctx g : Nat) (stepping : Bool) : Tbl Hart :=
  let ms := hs.filter fun e => e.2.inGroup ctx g 0xFFFF
  let all := ms.all fun e => e.2.parked == some ⟨g, true, false⟩
  hs.map fun e =>
    if e.2.inGroup ctx g 0xFFFF && ((stepping && e.2.parked == some ⟨g, false, false⟩) || (all && e.2.parked == some ⟨g, true, false⟩))
    then (e.1, { e.2 with parked := e.2.parked.map fun p => { p with go := true } }) else e

/-- The harts of a kernel whose context is saved end, and the regions that they bound, that lie in its allocations or whose groups have no member left
(R218, R221, R249, R256, R287): their groups, barriers, Vestibule records and holds, and what
the device keeps of the kernel beside the image. -/
def State.dropSaved (s : State) (ctx kid : Nat) : State :=
  let c := s.context ctx
  let dead := c.saved.filter fun e => e.2.ofKernel ctx kid
  let gone := dead.map (·.1)
  if gone.isEmpty then s else
  let saved (n : Nat) : Cluster := tblGet Cluster.reset n c.savedClusters
  let phase (n j : Nat) : Nat := (saved n).phaseOf j
  let hit := arrivedAt c.saved phase ctx kid
  let groups := (dead.flatMap fun e => e.2.groups).eraseDups
  let stepping := groups.filter fun g => c.saved.any fun e => e.2.inGroup ctx g kid && e.2.parked == some ⟨g, false, false⟩
  let inside (r : Region) : Bool := r.scratch && (saved r.home).allocs.any fun a => a.kid == kid && a.holds r
  let left := (c.saved.filter fun e => !e.2.ofKernel ctx kid).map fun e => (e.1, e.2.barsBroken (slotCluster e.1) phase hit)
  let ends (r : Region) : Bool := r.kid == kid || inside r || (r.group != 0 && !left.any fun e => e.2.groups.contains r.group)
  let shadows (n : Nat) : List Nat := (c.savedRegions.filter fun r => ends r && r.scratch && r.home == n).flatMap fun r =>
    upFrom ((r.off + r.size) / 4096) (r.size / 4096)
  let s1 := s.setContext ctx { c with
    saved := groups.foldl (fun t g => savedGroup t ctx g (stepping.contains g)) left,
    savedClusters := c.savedClusters.map fun (e : Nat × Cluster) =>
      (e.1, { (e.2.dropKernel ctx kid).blank (shadows e.1) with bars := e.2.bars.filter fun b => !hit.contains (e.1, b.1) }),
    savedRegions := (c.savedRegions.filter fun r => !ends r).map fun r =>
      if stepping.contains r.group then { r with stores := [], flags := r.flags ||| 2 } else r }
  ({ s1 with vest := s1.vest.filter fun v => !(v.ctx == ctx && gone.contains v.slot) } : State).releaseReplicas ctx

/-- kernelKillComplete (R287): the slots of a killed kernel are freed, its stores are zeroed, and it ends with the state and
cause of the decision. A context fault's discard takes the kill over (R288). -/
def execKernelKillComplete (ctx kid : Nat) (s : State) : Out :=
  match s.kernel ctx kid with
  | none => .next s
  | some k =>
    match k.state with
    | .killing state cause =>
      if (s.context ctx).disc then .next s else
      let slots := s.harts.filterMap fun e => if e.2.ofKernel ctx kid then some e.1 else none
      .next ((slots.foldl (fun t i => t.removeHart i) (s.dropSaved ctx kid)).endKernel k state cause)
    | _ => .next s

end Sys2Proof.Machine
end

