-- ==== Sys2Proof/Machine/Groups.lean ====
section
/-! DEFINITION. Groups, plane regions, steps and barriers (R209 to R221). -/
namespace Sys2Proof.Machine

/-- A hart's kernel is elastic (R58). -/
def State.isElastic (s : State) (h : Hart) : Bool := ((s.kernel h.ctx h.kid).map (·.elastic)).getD false

/-- Where a 32-byte record of pbind or qdesc lies, or the cause: alignment, then the causes of a scalar load, then other for a
present page that is no scratchpad page (R192, R209). -/
def Ctx.recordPlace (k : Ctx) (va other : Nat) : Res Nat :=
  let w := k.st.who k.p
  let tr (c : Nat) : Trap := { cause := c, addr := va, access := accessField 1 15 0 false }
  if va % 32 != 0 then k.trap (tr 3)
  else if 2 ^ 57 ≤ va then k.trap (tr 4)
  else match k.st.leaf w.ctx va with
    | none => k.trap (tr 4)
    | some (e, lg) =>
      let kind := entryField e 61 59
      if entryField e 8 8 == 1 && !w.super then k.trap (tr 5)
      else if kind != 1 && entryField e 11 11 == 0 then k.trap (tr 5)
      else if kind != 2 && kind != 3 then k.trap (tr other)
      else match placeOf w e lg va with
        | none => k.trap (tr 5)
        | some p => if unreachable k.st.regions p.key then k.trap (tr 5) else .ok p.key

/-- A step or gbar is in progress on a group: a member is parked in it and not yet let go (R215, R220). -/
def State.gbarInProgress (s : State) (ctx group kid : Nat) : Bool :=
  s.harts.any fun e => e.2.inGroup ctx group kid && e.2.parked == some ⟨group, true, false⟩

/-- join (R219): after the hart's earlier vector words (log 21). -/
def execJoin (a : Reg) (s : State) : Out :=
  s.scalarWord .vecOnly fun k => do
    k.need [] [a]
    let h ← k.hart
    let g := (k.c.get a).toNat
    if 1023 < g || g = 0 then k.cause 0x0D else
    if h.groups.contains g then
      k.quiet
      let k1 ← k.sync 7 none
      .ok k1.done
    else
    if 2048 ≤ (k.st.members h.ctx g h.kid).length || 16 ≤ h.groups.length then k.cause 0x0D else
    if k.st.stepInProgress h.ctx g h.kid || k.st.gbarInProgress h.ctx g h.kid then k.wait else
    k.quiet
    let k1 ← k.sync 7 none
    .ok (k1.setHart { h with groups := insertBy id g h.groups }).done

/-- leave (R219): a step or gbar in progress counts one fewer member, and a group without members loses its regions. -/
def execLeave (a : Reg) (s : State) : Out :=
  s.scalarWord .vecOnly fun k => do
    k.need [] [a]
    let h ← k.hart
    let g := (k.c.get a).toNat
    if 1023 < g || g = 0 then k.cause 0x0D else
    k.quiet
    let k1 ← k.sync 8 none
    if !h.groups.contains g then .ok k1.done else
    let k2 := k1.setHart { h with groups := h.groups.filter (· != g) }
    .ok { k2 with st := k2.st.groupLeft h.ctx g h.kid, c := k.c.advance }

/-- grank (R219). -/
def execGrank (d a : Reg) (s : State) : Out :=
  s.scalarWord .vecOnly fun k => do
    k.need [d] [a]
    let h ← k.hart
    let g := (k.c.get a).toNat
    if 1023 < g then k.cause 0x0D else
    .ok (k.write d (if h.inGroup h.ctx g h.kid then BitVec.ofNat 64 (k.st.rankOf h.ctx g h.kid h.hartid) else BitVec.allOnes 64))

/-- The misuse of a group by step or gbar (R215, R220). -/
def Ctx.groupCheck (k : Ctx) (h : Hart) (g : Nat) : Res Unit :=
  if 1023 < g || !h.inGroup h.ctx g h.kid || (g = 0 && k.st.isElastic h) then k.cause 0x0D else .ok ()

/-- A key of a copy's destination lies in a region, whether the copy has come to it, will come to it or has passed it. -/
def State.copyInto (s : State) (c : Copy) (r : Region) (w : Who) : Bool :=
  (upFrom 0 c.dst.count).any fun n =>
    match s.xlate w .store (c.dst.nib (c.target n) / 2) with
    | .ok p => r.key ≤ p.key && p.key < r.key + r.size
    | .error _ => false

/-- A copy that the hart issued into a region of the group has not stopped (R215). -/
def Ctx.copiesInto (k : Ctx) (h : Hart) (g : Nat) : Bool :=
  let rs := k.st.groupRegions h.ctx g h.kid
  !rs.isEmpty && (k.st.cluster (slotCluster k.slot)).copies.any fun c =>
    c.owner == k.p && rs.any fun r => k.st.copyInto c r (h.who k.slot)

/-- The gates of two synchronising events at once: neither is taken unless both pass (R355). -/
def Ctx.sync2 (k : Ctx) (a b : Nat) : Res Ctx :=
  match k.sync a none with
  | .error e => .error e
  | .ok k1 => match k1.sync b none with
    | .ok k2 => .ok k2
    | .error (_, .wait) => k.wait
    | .error e => .error e

/-- step (R215): the hart arrives and is parked; when every member has arrived the regions are settled; the hart goes on once
it is let go, with the digest of R355. The step whose settlement would read a wide accumulator in error traps instead (R350). -/
def execStep (a : Reg) (s : State) : Out :=
  s.scalarWord .vecOnly fun k => do
    k.need [] [a]
    let h ← k.hart
    let g := (k.c.get a).toNat
    k.groupCheck h g
    match h.parked with
    | some p =>
      if p.group == g && !p.gbar && p.go then
        let h1 := { h with parked := none }
        let k1 ← if k.st.dbg.silMode != 0 then k.sync 13 (some (k.st.digest k.slot h1)) else .ok k
        .ok (k1.setHart h1).done
      else k.wait
    | none =>
      k.quiet
      if k.copiesInto h g then k.wait else
      let h1 := { h with parked := some ⟨g, false, false⟩ }
      let last := (k.setHart h1).st.allArrived h.ctx g h.kid false
      match (if last then (k.st.groupRegions h.ctx g h.kid).findSome? k.st.wideBad else none) with
      | some b => .error (k.st.logError b, .trap { cause := 9 })
      | none =>
        let k1 ← if last then k.sync2 4 5 else k.sync 4 none
        let s1 := (k1.setHart h1).st.completeGroup h.ctx g h.kid false
        .error (s1, .wait)

/-- gbar (R220). -/
def execGbar (a : Reg) (s : State) : Out :=
  s.scalarWord .vecOnly fun k => do
    k.need [] [a]
    let h ← k.hart
    let g := (k.c.get a).toNat
    k.groupCheck h g
    match h.parked with
    | some p => if p.group == g && p.gbar && p.go then .ok (k.setHart { h with parked := none }).done else k.wait
    | none =>
      k.quiet
      let k1 ← k.sync 6 none
      let s1 := (k1.setHart { h with parked := some ⟨g, true, false⟩ }).st.completeGroup h.ctx g h.kid true
      .error (s1, .wait)

/-! ### Regions -/

/-- The place of a region of n bytes at a virtual address: its first place, when every byte of it lies in one local scratchpad
or one plane store (R209). -/
def State.regionPlace (s : State) (w : Who) (va n : Nat) : Option Place :=
  let at' (v : Nat) : Option Place :=
    match s.leaf w.ctx v with
    | some (e, lg) =>
      let kind := entryField e 61 59
      if kind == 2 || kind == 7 then placeOf w e lg v else none
    | none => none
  match at' va with
  | none => none
  | some p =>
    if (upFrom 0 (n / 4096)).all fun i =>
        (match at' (va + 4096 * i) with
          | some q => q.kind == p.kind && q.home == p.home && q.key == p.key + 4096 * i
          | none => false)
    then some p else none

/-- Ranges of a region's home that it and its shadow take: first offset and length. -/
def Region.extent (r : Region) : Nat × Nat := (r.off, if r.scratch then 2 * r.size else r.size)

/-- A new region meets the limits and overlap rules of R209 and R210. -/
def State.regionFits (s : State) (r : Region) : Bool :=
  let same := s.regions.filter fun x => x.scratch == r.scratch && x.home == r.home
  let (o, n) := r.extent
  let sum := (same.map (·.size)).sum + r.size
  o + n ≤ 2 ^ 21 && (!same.any fun x => o < x.extent.1 + x.extent.2 && x.extent.1 < o + n) &&
  (if r.scratch then sum ≤ 2 ^ 20 && same.length < 32 else sum ≤ 2 ^ 21 && same.length < 64)

/-- pbind (R209, R210): after the hart's earlier vector words (log 21). Of its causes 0x0D only a record outside the scratchpads has an address that
faults (R286; log 48). -/
def execPbind (a b : Reg) (s : State) : Out :=
  s.scalarWord .vecOnly fun k => do
    k.need [] [a, b]
    let h ← k.hart
    k.quiet
    let w := h.who k.slot
    let va := (k.c.get a).toNat
    let g := (k.c.get b).toNat
    let misused {α : Type} : Res α := k.cause 0x0D
    let key ← k.recordPlace va 0x0D
    let bs := k.st.peek key 32
    let base := recNat bs 0 8
    let size := recNat bs 8 4
    let rule := recNat bs 12 1
    let type := recNat bs 13 1
    if base % 4096 != 0 || 2 ^ 57 ≤ base || size % 4096 != 0 || size = 0 || 2 ^ 21 < size || 2 < rule ||
        (if rule = 1 then 2 < type else type != 0) || recNat bs 14 2 != 0 || recNat bs 20 12 != 0 then misused else
    (match k.groupCheck h g with
      | .ok _ => pure ()
      | .error _ => misused)
    match k.st.regionPlace w base size with
    | none => misused
    | some p =>
      let scratch := p.kind == 2
      if scratch && 2 ^ 20 < size then misused else
      let off := p.key - (if scratch then scratchKey p.home 0 else planeKey p.home 0)
      let r : Region := ⟨scratch, p.home, off, size, rule, type, key + 16, h.ctx, g, h.kid, base, [], 0, [], false⟩
      if !k.st.regionFits r then misused else
      let s0 := k.st.serveBlocks h.ctx (r.key / 4096) (r.blocks)
      let s1 := ((upFrom (r.key / 4096) r.blocks).foldl (fun t b => t.own h.ctx (4096 * b)) (s0.touch w.ctx va)).pokeNat (key + 16) 4 0
      .ok { k with st := { s1 with regions := s1.regions ++ [r] }, c := k.c.advance }

/-- Where an address lies in a scratchpad, a window of one or a plane store (R210, R216). -/
def State.anyScratch (s : State) (w : Who) (va : Nat) : Option Place :=
  match s.leaf w.ctx va with
  | some (e, lg) => if entryField e 61 59 == 2 || entryField e 61 59 == 3 || entryField e 61 59 == 7 then placeOf w e lg va else none
  | none => none

/-- punbind (R216): the region bound at a is released; its stores of the step in progress are discarded. -/
def execPunbind (a : Reg) (s : State) : Out :=
  s.scalarWord .vecOnly fun k => do
    k.need [] [a]
    let h ← k.hart
    k.quiet
    let w := h.who k.slot
    let va := (k.c.get a).toNat
    let found : Option Region := (k.st.anyScratch w va).bind fun p => k.st.regions.find? fun r => r.key == p.key
    match found with
    | none => k.cause 0x0D
    | some r =>
      if 2 ^ 57 ≤ va || !w.member r then k.cause 0x0D else
      if k.st.stepInProgress h.ctx r.group r.kid then k.wait else
      .ok { k with st := k.st.releaseRegion r false, c := k.c.advance }

/-! ### Named barriers (R221) -/

/-- The barrier bj of a cluster. -/
def Cluster.barrier (c : Cluster) (j : Nat) : Barrier := tblGet ⟨0, 0, 0⟩ j c.bars

/-- arrive(j, n): the hart and its cluster afterwards, or none for a misuse (cause 0x0D). -/
def arrive (cl : Cluster) (h : Hart) (j n : Nat) : Option (Cluster × Hart) :=
  let b := cl.barrier j
  if n < 1 || 8 < n || h.bars.any (fun x => x.1 == j) || (b.arrived != 0 && n != b.count) then none else
  let full := b.arrived + 1 == n
  let b' : Barrier := if full then ⟨n, 0, b.phase + 1⟩ else ⟨n, b.arrived + 1, b.phase⟩
  some ({ cl with bars := tblPut j b' cl.bars }, { h with bars := h.bars ++ [(j, .phase b.phase)] })

/-- What a wait at bj finds: it ends, it goes on waiting, or the barrier broke; none without an arrival. -/
inductive BarWait where
  | ends | waits | breaks
  deriving DecidableEq, Repr

def barWait (cl : Cluster) (h : Hart) (j : Nat) : Option BarWait :=
  (h.bars.find? fun x => x.1 == j).map fun x => match x.2 with
    | .phase p => if p < (cl.barrier j).phase then .ends else .waits
    | .ended => .ends
    | .broken => .breaks

/-- The pending record at bj cleared. -/
def Hart.clearBar (h : Hart) (j : Nat) : Hart := { h with bars := h.bars.filter fun x => x.1 != j, barIn := none }

/-- A wait at bj performed by the word: it ends once the hart's earlier vector words are done
(R232, item 4) and the next word follows, or it waits, or it traps with cause 0x0D. -/
def Ctx.barWaits (k : Ctx) (h : Hart) (j : Nat) : Res Ctx :=
  match barWait (k.st.cluster (slotCluster k.slot)) h j with
  | none => k.cause 0x0D
  | some .ends => do
    k.quiet
    .ok (k.setHart (h.clearBar j)).done
  | some .waits => k.wait
  | some .breaks => (k.setHart (h.clearBar j)).cause 0x0D

/-- An arrival performed by the word, logged as kind 3. -/
def Ctx.arrives (k : Ctx) (h : Hart) (j n : Nat) : Res (Ctx × Hart) := do
  match arrive (k.st.cluster (slotCluster k.slot)) h j n with
  | none => k.cause 0x0D
  | some (cl, h1) =>
    k.quiet
    let k1 ← k.sync 3 none
    .ok (({ k1 with st := k1.st.setCluster (slotCluster k.slot) cl } : Ctx).setHart h1, h1)

/-- bar (R221): arrives, then waits for the phase. -/
def execBar (j : BitVec 7) (a : Reg) (s : State) : Out :=
  s.scalarWord .vecOnly fun k => do
    k.need [] [a]
    let h ← k.hart
    let n := j.toNat
    if h.barIn == some n then k.barWaits h n else
    let (k1, h1) ← k.arrives h n (k.c.get a).toNat
    let h2 := { h1 with barIn := some n }
    match barWait (k1.st.cluster (slotCluster k.slot)) h2 n with
    | some .ends => .ok (k1.setHart (h2.clearBar n)).done
    | _ => (k1.setHart h2).wait

/-- bara (R221): arrives and returns at once. -/
def execBara (j : BitVec 7) (a : Reg) (s : State) : Out :=
  s.scalarWord .vecOnly fun k => do
    k.need [] [a]
    let h ← k.hart
    let (k1, _) ← k.arrives h j.toNat (k.c.get a).toNat
    .ok k1.done

/-- barw (R221). -/
def execBarw (j : BitVec 7) (s : State) : Out :=
  s.scalarWord .vecOnly fun k => do
    let h ← k.hart
    k.barWaits h j.toNat

end Sys2Proof.Machine
end

