-- ==== Sys2Proof/Machine/Cellar.lean ====
section
/-! DEFINITION. Query descriptors, page relocation, and the context faults of the Cellar (R191, R192, R204, R207, R288). -/
namespace Sys2Proof.Machine

/-- A query descriptor's record, when it keeps R191. -/
def parseQDesc (bs : List Byte) : Option QDesc :=
  let base := recNat bs 0 8
  let fmt := recNat bs 8 1
  let keycol := recNat bs 10 2
  let len := recNat bs 12 4
  let rows := recNat bs 16 4
  let stride : Int := (BitVec.ofNat 64 (recNat bs 24 8)).toInt
  if base % 16 == 0 && fmt < 64 && fmtCodeOk (BitVec.ofNat 6 fmt) && recNat bs 9 1 == 0 && 8 ≤ len && len ≤ 1024 &&
      keycol < len && !(fmtBits (BitVec.ofNat 6 fmt) == 4 && len % 2 == 1) && rows != 0 && recNat bs 20 4 == 0 && stride % 16 == 0
  then some ⟨BitVec.ofNat 64 base, BitVec.ofNat 6 fmt, keycol, len, rows, stride⟩ else none

/-- qdesc (R192): a scalar load of class 15 of the record, checked and captured with its base moved by b rows. -/
def execQdesc (j : BitVec 2) (a b : Reg) (s : State) : Out :=
  s.scalarWord .vecOnly fun k => do
    k.need [] [a, b]
    let h ← k.hart
    let va := (k.c.get a).toNat
    if k.memBusy false 15 va 32 then k.wait else
    let key ← k.recordPlace va 0x12
    match parseQDesc (k.st.peek key 32) with
    | none => k.trap { cause := 0x12, addr := va }
    | some d =>
      let d' := { d with base := d.base + BitVec.ofInt 64 ((k.c.get b).toInt * d.stride) }
      let k1 : Ctx := { k with st := k.st.touch h.ctx va }
      .ok (k1.setHart { h with qd := h.qd.setIfInBounds j.toNat (some d') }).done

/-- A Cellar page as creloc needs it: the cause of the first test that fails (R204). -/
def State.relocPage (s : State) (w : Who) (va : Nat) : Option (Word × Nat) := if 2 ^ 57 ≤ va then none else s.leaf w.ctx va

/-- The page is Cellar with Q and W, and a kernel may use it. -/
def relocOk (w : Who) (e : Word) : Bool :=
  entryField e 61 59 == 1 && entryField e 11 11 == 1 && entryField e 10 10 == 1 && (w.super || entryField e 8 8 == 0)

/-- The tests of creloc in their order (R204): the cause and the address tested. -/
def State.relocCause (s : State) (w : Who) (a b : Nat) : Option (Nat × Nat) :=
  let pa := s.relocPage w a
  let pb := s.relocPage w b
  let first (p : Option (Word × Nat)) (v : Nat) : Bool := match p with
    | some (_, lg) => v % 2 ^ lg == 0
    | none => true
  let good (p : Option (Word × Nat)) : Bool := match p with
    | some (e, _) => relocOk w e
    | none => true
  if a % 4096 != 0 then some (3, a) else if b % 4096 != 0 then some (3, b)
  else if pa.isNone then some (4, a) else if pb.isNone then some (4, b)
  else if !first pa a then some (3, a) else if !first pb b then some (3, b)
  else if !good pa then some (5, a) else if !good pb then some (5, b)
  else if pa.map (·.2) != pb.map (·.2) then some (5, b) else none

/-- A context is ended by a context fault (R288): a record of kind 7, a kill of all its kernels, and its discard begins. -/
def State.endContext (s : State) (ctx stack cause : Nat) : State :=
  let s2 := s.faultPut ctx (faultRecord ⟨7, ctx, stack, 0xFFFF, 0xFFFF, 0xFFFFFFFF, 0, 0⟩ { cause := cause } 2)
  let s3 := (s2.kernels.filter fun k => k.ctx == ctx).foldl (fun t k => t.killKernel ctx k.kid 0 0) s2
  s3.setContext ctx { s3.context ctx with state := 3, ckill := true, disc := true }

/-- A context fault (R207, R288): a record of kind 7, the context stops and everything of it in flight ends without completion
records. The discard itself is discardComplete's. -/
def State.contextFault (s : State) (ctx stack : Nat) (baseDie : Bool) (pa : Nat) : State :=
  if (s.context ctx).state != 1 then s
  else if baseDie then s.endContext ctx stack 0x14
  else (s.logError pa).endContext ctx stack 9

/-- contextFault (R288). -/
def execContextFault (ctx stack : Nat) (baseDie : Bool) (pa : Nat) (s : State) : Out := .next (s.contextFault ctx stack baseDie pa)

/-- discardComplete (R288, R320): the context's kernels are gone, its stores are zeroed, its fetches are discarded. -/
def execDiscardComplete (ctx : Nat) (s : State) : Out :=
  let c := s.context ctx
  if !c.disc then .next s else
  let slots := s.harts.filterMap fun e => if e.2.ctx == ctx then some e.1 else none
  let s1 := slots.foldl (fun t i => t.removeHart i) s
  let ks := s1.kernels.filter fun k => k.ctx == ctx
  let s2 := ks.foldl (fun t k => (tblKeys t.clusters).foldl (fun u i => u.releaseCluster i ctx k.kid) t) s1
  let s3 := { s2 with kernels := s2.kernels.filter fun k => k.ctx != ctx,
                      pageWaits := s2.pageWaits.filter fun w => w.1 != ctx }
  let s4 := (s3.regions.filter fun r => r.ctx == ctx).foldl (fun t r => t.releaseRegion r (!r.scratch)) s3
  let s5 := (upFrom 0 c.nexp).foldl (fun t e =>
    let n := c.expbase + e
    let x := t.expert n
    if x.state == .fetching then
      let t1 := if x.started then t.dropSlot ctx x.slot else t
      t1.setExpert n { x with state := .absent, started := false, slot := 0 }
    else t) s4
  let s6 := s5.freeBlocks ctx fun _ => true
  .next (s6.setContext ctx { s6.context ctx with disc := false })

/-- A creloc that has passed its tests, of 2^lg bytes from one key to another, from the piece at a position on: n of its pieces performed, up to an
uncorrectable block of the source (R204, R207). Answers the state, and the block. The link between the stacks and the compute dies plays no part: R207
names queries and cadd, and R208 gives creloc no cause 0x14 (DESIGN CHOICE, log 70). -/
def State.relocPieces (s : State) (src dst lg pos n : Nat) : State × Option Nat :=
  let last := min (2 ^ lg) (pos + 16 * n)
  let hit := if src = dst then none else s.bad.find? fun x => src + pos < x + 64 && x < src + last
  let stop := match hit with
    | some x => min last ((x - src) / 16 * 16)
    | none => last
  (if src = dst || stop ≤ pos then s else s.copyRange (src + pos) (dst + pos) (stop - pos), hit)

/-- What a creloc copies: its source's and its destination's first bytes, and the size of the pages. -/
def State.relocRange (s : State) (w : Who) (a b : Nat) : Option (Nat × Nat × Nat) :=
  match s.leaf w.ctx a, s.leaf w.ctx b with
  | some (ea, lg), some (eb, _) => some (entryField ea 51 12 * 4096, entryField eb 51 12 * 4096, lg)
  | _, _ => none

/-- No creloc of the word's hart is under way. -/
def Ctx.relocDone (k : Ctx) : Ctx := match k.st.hart k.slot with
  | some h => k.setHart { h with reloc := 0, relocPins := [] }
  | none => k

/-- The range of the creloc at which a hart stands, or the cause and the address of the test that fails. One that is under way has passed its tests, and goes
on through the translations that it holds (R204, R329). -/
def State.relocAt (s : State) (w : Who) (h : Hart) (a b : Nat) : Except (Nat × Nat) (Option (Nat × Nat × Nat)) :=
  if h.reloc != 0 then .ok ((s.withPins w.ctx h.relocPins).relocRange w a b) else
  match s.relocCause w a b with
  | some x => .error x
  | none => .ok (s.relocRange w a b)

/-- creloc (R204): the pieces that are left, after the hart's earlier vector words (log 21); an uncorrectable block of the source is a context
fault (R207). Some of its pieces may be performed in turns before (log 10). -/
def execCreloc (a b : Reg) (s : State) : Out :=
  s.scalarWord .vecOnly fun k => do
    k.need [] [a, b]
    let h ← k.hart
    k.quiet
    let w := h.who k.slot
    let va := (k.c.get a).toNat
    let vb := (k.c.get b).toNat
    match k.st.relocAt w h va vb with
    | .error (c, v) => k.trap { cause := c, addr := v }
    | .ok none => .ok k.done
    | .ok (some (src, dst, lg)) =>
      let s1 := if h.reloc != 0 then k.st else (k.st.touch w.ctx va).touch w.ctx vb
      match s1.relocPieces src dst lg h.reloc (2 ^ lg) with
      | (t, some x) => .error (t.contextFault h.ctx (src / 2 ^ 37 % 8) false x, .wait)
      | (t, none) => .ok ({ k with st := t, c := k.c.advance } : Ctx).relocDone

/-- Some pieces of the creloc at which a hart stands, performed in a turn of their own: the creloc is under way, and holds both pages (R204, R329;
log 10). -/
def State.relocPart (s : State) (slot : Nat) (a b : Reg) (n : Nat) : State :=
  match s.hart slot with
  | none => s
  | some h =>
    let w := h.who slot
    let va := (h.sc.get a).toNat
    let vb := (h.sc.get b).toNat
    let free : Bool := match (⟨s, .vec slot, h.sc⟩ : Ctx).need [] [a, b] with
      | .ok _ => h.quiet
      | .error _ => false
    match s.relocAt w h va vb with
    | .ok (some (src, dst, lg)) =>
      let m := min n ((2 ^ lg - h.reloc) / 16 - 1)
      if !free || src = dst then s else
      let s1 := if h.reloc != 0 then s else (s.touch w.ctx va).touch w.ctx vb
      let pins := if h.reloc != 0 then h.relocPins else ([va, vb].filterMap fun v => s.pinAt w.ctx v false).eraseDups
      match s1.relocPieces src dst lg h.reloc m with
      | (t, none) => t.setHart slot { h with reloc := h.reloc + 16 * m, relocPins := if h.reloc + 16 * m = 0 then [] else pins, waiting := true }
      | (_, some _) => s
    | _ => s

end Sys2Proof.Machine
end

