-- ==== Sys2Proof/Machine/Control.lean ====
section
/-! DEFINITION. Control registers (R6, R43, R55, R75, R113, R114, R169, and the maps of Book II): who reaches which number,
what a read returns, what a write does field by field, and the table's steps that are such writes. -/
namespace Sys2Proof.Machine

/-! ### Which numbers name a register -/

/-- Supervisor numbers that a chapter assigns; those of the tier rings exist on dies 1 and 2 only (R336). -/
def supAssigned (d cr : Nat) : Bool :=
  (0x800 ≤ cr && cr ≤ 0x805) || cr == 0x808 || (0x810 ≤ cr && cr ≤ 0x813) || cr == 0x820 || (0x830 ≤ cr && cr ≤ 0x833) ||
  ((d == 1 || d == 2) && 0x840 ≤ cr && cr ≤ 0x842) || (0x850 ≤ cr && cr ≤ 0x859) || (0x860 ≤ cr && cr ≤ 0x866) ||
  (0x870 ≤ cr && cr ≤ 0x876) || cr == 0x880 || cr == 0x881

/-- Monitor numbers (R367) and debug numbers (R353, R355). -/
def monAssigned (cr : Nat) : Bool := cr == 0xB00 || cr == 0xB01 || (0xB10 ≤ cr && cr ≤ 0xB1B)
def dbgAssigned (cr : Nat) : Bool := (0xC00 ≤ cr && cr ≤ 0xC04) || (0xC08 ≤ cr && cr ≤ 0xC0C) || cr == 0xC10

/-- The kernel-level numbers that a matrix control core or copy sequencer reaches (R169). -/
def engineNumbers : List Nat := [0x004, 0x005, 0x006, 0x007, 0x008, 0x00A, 0x010, 0x012, 0x013, 0x014, 0x015, 0x018]

/-- The cause with which a party's access to a number is refused (R95, R113, R280). -/
def crCause (p : Party) (cr : Nat) : Option Nat :=
  if cr ≤ 0x018 then
    (match p with
      | .mcc _ | .seq _ => if engineNumbers.contains cr then none else some 1
      | _ => none)
  else
    match p with
    | .scc d => if supAssigned d cr then none else if monAssigned cr || dbgAssigned cr then some 2 else some 1
    | _ => if supAssigned 1 cr || monAssigned cr || dbgAssigned cr then some 2 else some 1

/-! ### Reads -/

/-- A vector hart's kernel-level register (R75 and the chapters that bind them); c is its scalar side. -/
def State.hartReg (s : State) (slot : Nat) (h : Hart) (c : Scalar) (cr : Nat) : Nat :=
  match cr with
  | 0x000 => h.vl
  | 0x001 => mvlOf h.nregs
  | 0x002 => h.nregs
  | 0x004 => c.fround.toNat
  | 0x005 => c.vround.toNat
  | 0x006 => (fflagsWord' c.fflags).toNat
  | 0x007 => h.hartid
  | 0x008 => h.kid
  | 0x009 => h.grant
  | 0x00A => h.cycle.toNat
  | 0x00B | 0x00C | 0x00D | 0x00E | 0x00F => (h.lanecyc.getD (cr - 0x00B) 0).toNat
  | 0x010 => h.srseed.toNat
  | 0x011 => h.layer.toNat
  | 0x012 => h.localreq.toNat
  | 0x013 => h.remotereq.toNat
  | 0x014 => h.args.toNat % 2 ^ 57
  | 0x015 => h.mpromo.toNat
  | 0x016 => s.expstat slot h
  | 0x017 => h.scopemiss
  | 0x018 => h.scrbase.toNat
  | _ => 0
where
  /-- FFLAGS as its register. -/
  fflagsWord' (f : BitVec 10) : Word := ((f.extractLsb' 5 5).setWidth 64 <<< 8) ||| (f.extractLsb' 0 5).setWidth 64

/-- A kernel-level register as an engine of a hart sees it (R169): start is the cycle at which its program began. -/
def State.engineReg (s : State) (slot start : Nat) (c : Scalar) (cr : Nat) : Nat :=
  match cr with
  | 0x00A => s.time - start
  | 0x010 => 0
  | n => match s.hart slot with
    | some h => s.hartReg slot h c n
    | none => 0

/-- A kernel-level register of a stream controller core: its own numeric registers, and for the registers that only a
placed hart moves their values at reset (log 18). -/
def State.coreReg (s : State) (d : Nat) (c : Scalar) (cr : Nat) : Nat :=
  let x := s.die d
  match cr with
  | 0x001 => 1024
  | 0x002 => 8
  | 0x004 => c.fround.toNat
  | 0x005 => c.vround.toNat
  | 0x006 => (State.hartReg.fflagsWord' c.fflags).toNat
  | 0x010 => x.srseed.toNat
  | 0x012 => x.localreq.toNat
  | 0x013 => x.remotereq.toNat
  | 0x017 => x.missCount.toNat * 2 ^ 32 + x.mreg.toNat
  | _ => 0

/-- FQBASE and FQCTL, or PGQBASE and PGQCTL, as registers (R284, R333). -/
def QueueReg.ctl (q : QueueReg) : Nat := q.off * 2 ^ 32 + (if q.en then 16 else 0) + q.lg

/-- Any hart of a context is held. -/
def State.anyHeld (s : State) (ctx : Nat) : Bool := (s.hartsOf ctx).any fun h => match h.state with
  | .held _ => true
  | _ => false

/-- CTXSTAT (R284). -/
def State.ctxstat (s : State) (ctx : Nat) : Nat :=
  let c := s.context ctx
  (if c.disc then 1024 else 0) + (if c.ckill then 512 else 0) + (if s.anyHeld ctx then 256 else 0) + c.state

/-- The selected channel's table register: index 0 to 3 SLT0 to SLT3, 4 SLTDON (R346). Under all, channel 0. -/
def sltKey (stack chan i : Nat) : Nat := 256 * (32 * stack + chan) + i
def State.sltValue (s : State) (stack chan i : Nat) : Word := tblGet (if i = 4 then 0xFFFF else 0) (sltKey stack chan i) s.slt

/-- The entry that XE0 to XE3 reach (R341). -/
def State.xselEntry (s : State) (d : Nat) : Option Nat := s.entryOf (s.die d).ctxsel (s.die d).xsel

/-- XE0 to XE3 (R341). -/
def State.xeReg (s : State) (d i : Nat) : Nat :=
  match s.xselEntry d with
  | none => 0
  | some n =>
    let x := s.expert n
    let ctx := (s.die d).ctxsel
    match i with
    | 0 => x.counter.toNat * 2 ^ 48 + (if x.csat then 2 ^ 47 else 0) + x.reuse.toNat * 2 ^ 24 + x.cost.toNat * 2 ^ 16 +
        (if x.state == .resident || x.state == .pinned then x.slot * 4 else 0) + x.state.code
    | 1 => x.tier
    | 2 => x.nextuse.toNat * 2 ^ 32 + (s.holdsOn ctx (s.die d).xsel % 2 ^ 16) * 2 ^ 16 + s.recordsOn ctx (s.die d).xsel % 2 ^ 16
    | _ => x.staged.toNat

/-- A supervisor register of core d. -/
def State.supReg (s : State) (d cr : Nat) : Nat :=
  let x := s.die d
  let ctx := x.ctxsel
  let c := s.context ctx
  let b := s.baseDie x.bdsel
  let stack := x.sltsel.toNat / 256
  let chan := if x.sltsel.getLsbD 5 then 0 else x.sltsel.toNat % 32
  match cr with
  | 0x800 => x.ctxsel
  | 0x801 => c.fq.pa
  | 0x802 => c.fq.ctl
  | 0x803 => c.tdeleg.toNat
  | 0x804 => s.ctxstat ctx
  | 0x808 => (if x.trErr then 2 ^ 63 else 0) + x.trCtx * 2 ^ 48 + x.trKernel * 2 ^ 32 + x.trHart
  | 0x810 => x.lpVa + x.lpLg
  | 0x811 => x.lpLimit.toNat
  | 0x812 => x.lpPos.toNat
  | 0x820 => (if s.clkCur then 2 else 0) + (if s.clkReq then 1 else 0)
  | 0x830 => c.ptPa + (if c.ptEn then 1 else 0)
  | 0x831 => c.pgq.pa
  | 0x832 => c.pgq.ctl
  | 0x840 => x.tfVa + x.tfLg
  | 0x841 => x.tfLimit.toNat
  | 0x842 => x.tfPos.toNat
  | 0x850 => x.xsel
  | 0x851 | 0x852 | 0x853 | 0x854 => s.xeReg d (cr - 0x851)
  | 0x855 => if c.xpol then 1 else 0
  | 0x856 => c.slotlg * 2 ^ 59 + c.nslots * 2 ^ 46 + c.slotbase * 2 ^ 34 + c.nexp * 2 ^ 15 + c.expbase * 2
  | 0x857 => c.xwin
  | 0x858 => c.vquota
  | 0x859 => c.scrwin
  | 0x860 => c.mpart.toNat
  | 0x861 => x.sltsel.toNat
  | 0x862 | 0x863 | 0x864 | 0x865 | 0x866 => (s.sltValue stack chan (cr - 0x862)).toNat
  | 0x870 => x.bdsel
  | 0x871 => b.cecnt * 2 ^ 32 + b.fbcount * 2 ^ 16 + (if b.qpause then 2 else 0) + (if b.fb then 1 else 0)
  | 0x873 => b.th
  | 0x874 => b.qthr.toNat
  | 0x875 => if x.bdsel < 4 then (s.die x.bdsel).diece.toNat else 0
  | 0x876 => (if s.errValid then 2 ^ 63 else 0) + s.errPa
  | 0x880 => s.msvcPa + (if s.msvcEn then 1 else 0)
  | _ => 0

/-- DBGFREE (R351): the lane-cycles of a cluster that no hart held. -/
def State.freeLanes (s : State) (c : Nat) : Nat := (BitVec.ofNat 64 (64 * s.time) - (s.cluster c).granted).toNat

/-- A monitor or debug register (R353, R355, R367). -/
def State.monReg (s : State) (cr : Nat) : Nat :=
  match cr with
  | 0xB00 => s.sctrap.toNat * 2 ^ 12 + (if s.lbrk then 2 ^ 11 else 0) + (if s.fail then 2 ^ 10 else 0) + s.tmode.toNat * 256 + s.stage
  | 0xB01 => s.mhdmBase + s.mhdmGib
  | 0xC00 => s.dbg.sel
  | 0xC01 | 0xC02 | 0xC03 | 0xC04 => (s.dbg.bp.getD (cr - 0xC01) 0).toNat
  | 0xC08 => (if s.dbg.div then 8 else 0) + s.dbg.src
  | 0xC0A => s.dbg.smpPa + (if s.dbg.smpTrace then 32 else 0) + s.dbg.smpPer
  | 0xC0B => s.freeLanes s.dbg.cl
  | 0xC0C => s.dbg.cl
  | 0xC10 => s.dbg.silLg * 2 ^ 52 + s.dbg.silPa + s.dbg.silMode
  | n => if 0xB10 ≤ n && n ≤ 0xB1B then (let (a, b) := s.lnode.getD (n - 0xB10) (0, 0); a * 2 ^ 16 + b) else 0

/-- The value of a control register for a party that may reach it. -/
def State.crValue (s : State) (p : Party) (c : Scalar) (cr : Nat) : Nat :=
  match p with
  | .vec slot => match s.hart slot with
    | some h => s.hartReg slot h c cr
    | none => 0
  | .mcc k => match (s.cluster k).mcc with
    | some m => s.engineReg m.slot m.start c cr
    | none => 0
  | .seq k => match (s.cluster k).seq with
    | some q => s.engineReg q.slot q.start c cr
    | none => 0
  | .scc d => if cr ≤ 0x018 then s.coreReg d c cr else s.supReg d cr

/-! ### Writes: supervisor level -/

/-- FQBASE or PGQBASE written (R284): unchanged while en is 1. -/
def QueueReg.setBase (q : QueueReg) (v : Word) : QueueReg := if q.en then q else { q with pa := v.field 51 6 * 64 }

/-- FQCTL or PGQCTL written (R284): en from 0 to 1 clears off; lg outside 4 to 15, or while en is 1, is left. -/
def QueueReg.setCtl (q : QueueReg) (v : Word) : QueueReg :=
  let en := v.getLsbD 4
  let lg := v.field 3 0
  { q with en := en, off := if en && !q.en then 0 else q.off, lg := if q.en || lg < 4 then q.lg else lg }

/-- CTXCMD open (R284): a free context becomes resident. -/
def State.openContext (s : State) (ctx : Nat) : State :=
  let c := s.context ctx
  if c.state = 0 then s.setContext ctx { c with state := 1 } else s

/-- A live kernel of a context (R308). -/
def State.liveIn (s : State) (ctx : Nat) : Bool := s.kernels.any fun k => k.ctx == ctx

/-- Cached images of a context dropped, or of every context (R313). An image that a klaunch read and has not launched yet enters no cache any more. -/
def State.dropImages (s : State) (p : ImageEntry → Bool) : State :=
  { s with dies := s.dies.map fun d => { d with
      images := d.images.filter fun i => !p i,
      pendingLaunch := d.pendingLaunch.map fun x =>
        (x.1, x.2.1, x.2.2 && !p ⟨x.2.1.ctx, x.2.1.image, x.2.1.text.take 64, x.2.1.text.drop 64, 0⟩) } }

/-- CTXCMD close (R284): translations, images, records, staged sets and on-die stores of the context go. -/
def State.closeContext (s : State) (ctx : Nat) : State :=
  let c := s.context ctx
  let may := (c.state == 1 && !s.liveIn ctx) || c.state == 2 || (c.state == 3 && !c.disc)
  if !may then s else
  let s1 := { s with tlb := s.tlb.filter fun e => e.ctx != ctx,
                     vest := s.vest.filter fun r => r.ctx != ctx,
                     pageWaits := s.pageWaits.filter fun w => w.1 != ctx }
  let s2 := s1.dropImages fun i => i.ctx == ctx
  let s3 := (s2.regions.filter fun r => r.ctx == ctx).foldl (fun t r => t.releaseRegion r true) s2
  let s3b := s3.freeBlocks ctx fun _ => true
  let c1 := { c with fq := { c.fq with en := false }, pgq := { c.pgq with en := false }, ckill := false, state := 0 }
  let s4 := s3b.setContext ctx { c1 with nextKid := 0, saved := [], savedClusters := [], savedRegions := [] }
  let s5 := (upFrom 0 c.nexp).foldl (fun t e => t.setExpert (c.expbase + e) { t.expert (c.expbase + e) with staged := 0 }) s4
  s5.releaseReplicas ctx

/-- CTXCMD reopen (R284). -/
def State.reopenContext (s : State) (ctx : Nat) : State :=
  let c := s.context ctx
  if c.state = 3 && !c.disc then s.setContext ctx { c with state := 1 } else s

/-- LPBASE written (R304): LPPOS and LPLIMIT become 0. -/
def Die.setLpbase (x : Die) (v : Word) : Die :=
  let lg := v.field 4 0
  { x with lpVa := v.field 56 12 * 4096, lpLg := if 12 ≤ lg && lg ≤ 30 then lg else x.lpLg, lpPos := 0, lpLimit := 0 }

/-- TFBASE written (R336): as LPBASE, with lg from 12 to 24. -/
def Die.setTfbase (x : Die) (v : Word) : Die :=
  let lg := v.field 4 0
  { x with tfVa := v.field 56 12 * 4096, tfLg := if 12 ≤ lg && lg ≤ 24 then lg else x.tfLg, tfPos := 0, tfLimit := 0 }

/-- LPLIMIT written (R304): bits 1:0 are ignored. -/
def Die.setLplimit (x : Die) (v : Word) : Die := { x with lpLimit := v &&& ~~~3 }

/-- KCINV written (R313), on the caches of all four cores. -/
def State.kcinv (s : State) (v : Word) : State := s.dropImages fun i => v.getLsbD 6 || i.ctx == v.field 5 0

/-- PGWAKE written (R333): the context's engines walk again. -/
def State.wakePager (s : State) (ctx : Nat) (v : Word) : State :=
  if v.getLsbD 0 then { s with pageWaits := s.pageWaits.filter fun w => w.1 != ctx } else s

/-- XE0 written (R341). An expert that is pinned no more may release replicas that the pin kept (R245). -/
def State.setXe0 (s : State) (ctx e n : Nat) (v : Word) : State :=
  let x := s.expert n
  let st := v.field 1 0
  let x1 := { x with counter := v.extractLsb' 48 16, csat := x.csat && !v.getLsbD 47, reuse := v.extractLsb' 24 8,
                     cost := v.extractLsb' 16 8,
                     state := if st = 3 && x.state == .resident then .pinned
                       else if st = 2 && x.state == .pinned then .resident else x.state }
  let s1 := if x.state == .pinned && st = 2 then (s.setExpert n x1).releaseReplicas ctx else s.setExpert n x1
  if st = 0 && s1.candidate ctx e then s1.evict ctx e else s1

/-- XE0 to XE3 written; an entry that e does not name takes no write (R341). -/
def State.setXe (s : State) (d i : Nat) (v : Word) : State :=
  match s.xselEntry d with
  | none => s
  | some n =>
    let x := s.expert n
    let ctx := (s.die d).ctxsel
    match i with
    | 0 => s.setXe0 ctx (s.die d).xsel n v
    | 1 => if x.state == .absent then s.setExpert n { x with tier := v.toNat } else s
    | 2 => s.setExpert n { x with nextuse := v.extractLsb' 32 32 }
    | _ => if replicaSetOk v then s.stageSet ctx n v else s

/-- Two ranges share a number. -/
def rangesMeet (a n b m : Nat) : Bool := n != 0 && m != 0 && a < b + m && b < a + n

/-- XCFG written (R339): left while the context is not free, or when it meets another context's ranges or passes the
device's. A slotlg outside 16 to 29 leaves the register as well. -/
def State.setXcfg (s : State) (ctx : Nat) (v : Word) : State :=
  let c := s.context ctx
  let slotlg := v.field 63 59
  let nslots := v.field 58 46
  let slotbase := v.field 45 34
  let nexp := v.field 29 15
  let expbase := v.field 14 1
  let meets := s.ctxs.any fun e => e.1 != ctx &&
    (rangesMeet slotbase nslots e.2.slotbase e.2.nslots || rangesMeet expbase nexp e.2.expbase e.2.nexp)
  if c.state != 0 || meets || 16384 < expbase + nexp || 4096 < slotbase + nslots || slotlg < 16 || 29 < slotlg then s
  else s.setContext ctx { c with slotlg := slotlg, nslots := nslots, slotbase := slotbase, nexp := nexp, expbase := expbase }

/-- SLT0 to SLT3 or SLTDON written (R346): queued for the next turn of each channel selected; left in locked-clock mode. -/
def State.queueSlt (s : State) (d i : Nat) (v : Word) : State :=
  if s.clkCur then s else
  let sel := (s.die d).sltsel
  let stack := sel.toNat / 256
  let w := if i = 4 then v &&& 0xFFFF else v
  let chans := if sel.getLsbD 5 then upFrom 0 32 else [sel.toNat % 32]
  { s with sltWaits := s.sltWaits ++ chans.map fun c => ⟨stack, c, i, w⟩ }

/-- A management core restarts (R348): its next two heartbeats hand refresh back. -/
def State.restartBase (s : State) (n : Nat) : State :=
  s.setBaseDie n { s.baseDie n with restarted := true, beats := 0 }

/-- ERRLOG written (R350): 1 in valid clears valid and pa. -/
def State.clearErrlog (s : State) (v : Word) : State := if v.getLsbD 63 then { s with errValid := false, errPa := 0 } else s

/-- A supervisor register of core d written, field by field (R6). -/
def State.supWrite (s : State) (d cr : Nat) (v : Word) : State :=
  let x := s.die d
  let ctx := x.ctxsel
  let c := s.context ctx
  match cr with
  | 0x800 => s.setDie d { x with ctxsel := v.field 5 0 }
  | 0x801 => s.setContext ctx { c with fq := c.fq.setBase v }
  | 0x802 => s.setContext ctx { c with fq := c.fq.setCtl v }
  | 0x803 => s.setContext ctx { c with tdeleg := v.extractLsb' 0 21 &&& 0x1DFFFE }
  | 0x804 => if v.getLsbD 9 then s.setContext ctx { c with ckill := false } else s
  | 0x805 => match v.field 1 0 with
    | 1 => s.openContext ctx
    | 2 => s.closeContext ctx
    | 3 => s.reopenContext ctx
    | _ => s
  | 0x808 => s.setDie d { x with trCtx := v.field 53 48, trKernel := v.field 47 32, trHart := v.field 31 0 }
  | 0x810 => s.setDie d (x.setLpbase v)
  | 0x811 => s.setDie d (x.setLplimit v)
  | 0x813 => s.kcinv v
  | 0x820 => { s with clkReq := v.getLsbD 0 }
  | 0x830 => s.setContext ctx { c with ptPa := v.field 51 12 * 4096, ptEn := v.getLsbD 0 }
  | 0x831 => s.setContext ctx { c with pgq := c.pgq.setBase v }
  | 0x832 => s.setContext ctx { c with pgq := c.pgq.setCtl v }
  | 0x833 => s.wakePager ctx v
  | 0x840 => s.setDie d (x.setTfbase v)
  | 0x841 => s.setDie d { x with tfLimit := v &&& ~~~3 }
  | 0x850 => s.setDie d { x with xsel := v.field 13 0 }
  | 0x851 | 0x852 | 0x853 | 0x854 => s.setXe d (cr - 0x851) v
  | 0x855 => s.setContext ctx { c with xpol := v.getLsbD 0 }
  | 0x856 => s.setXcfg ctx v
  | 0x857 => if c.state = 0 then s.setContext ctx { c with xwin := v.field 56 16 * 65536 } else s
  | 0x858 => if v.field 16 0 ≤ 65536 then s.setContext ctx { c with vquota := v.field 16 0 } else s
  | 0x859 => if c.state = 0 then s.setContext ctx { c with scrwin := v.field 56 21 * 2 ^ 21 } else s
  | 0x860 => s.setContext ctx { c with mpart := v.extractLsb' 0 4 }
  | 0x861 => s.setDie d { x with sltsel := v.extractLsb' 0 10 &&& 0x33F }
  | 0x862 | 0x863 | 0x864 | 0x865 | 0x866 => s.queueSlt d (cr - 0x862) v
  | 0x870 => if v.field 3 0 < 12 then s.setDie d { x with bdsel := v.field 3 0 } else s
  | 0x872 => if v.getLsbD 0 then s.restartBase x.bdsel else s
  | 0x873 =>
    let th := v.field 15 0
    if 512 ≤ th && th ≤ 32768 then s.setBaseDie x.bdsel { s.baseDie x.bdsel with th := th } else s
  | 0x876 => s.clearErrlog v
  | 0x880 => { s with msvcPa := v.field 51 12 * 4096, msvcEn := v.getLsbD 0 }
  | 0x881 => if s.msvcEn then { s with rung := s.rung ++ [false] } else s
  | _ => s

/-! ### Writes: monitor level -/

/-- A stop that DBGHALT asks of a slot: it is later than a breakpoint that has matched there (R356); a divergence stays the source. -/
def askHalt (stops : Tbl (Nat × Bool)) (slot : Nat) : Tbl (Nat × Bool) :=
  match tblFind slot stops with
  | some (5, _) => stops
  | some (_, m) => tblPut slot (4, m) stops
  | none => tblPut slot (4, false) stops

/-- DBGHALT written (R353): the running harts of the kernel stop at their next boundaries. -/
def State.haltKernel (s : State) (kid : Nat) : State :=
  let slots := s.harts.filterMap fun e => if e.2.ofKernel s.dbg.sel kid && e.2.state == .running then some e.1 else none
  { s with dbg := { s.dbg with stops := slots.foldl askHalt s.dbg.stops } }

/-- SILCTL written (R355): lg and pa are left while the mode is not 0, and mode 3 is left. -/
def Debug.setSil (g : Debug) (v : Word) : Debug :=
  let lg := v.field 56 52
  let g1 := if g.silMode != 0 then g else { g with silLg := if 4 ≤ lg && lg ≤ 30 then lg else g.silLg, silPa := v.field 51 6 * 64 }
  if v.field 1 0 = 3 then g1 else { g1 with silMode := v.field 1 0 }

/-- A debug register written at monitor level (R353, R355). -/
def State.dbgWrite (s : State) (cr : Nat) (v : Word) : State :=
  let g := s.dbg
  match cr with
  | 0xC00 => { s with dbg := { g with sel := v.field 5 0 } }
  | 0xC01 | 0xC02 | 0xC03 | 0xC04 => { s with dbg := { g with bp := g.bp.setIfInBounds (cr - 0xC01) (v.setWidth 57 |>.setWidth 64) } }
  | 0xC08 => if v.getLsbD 3 then { s with dbg := { g with div := false } } else s
  | 0xC09 => s.haltKernel (v.field 15 0)
  | 0xC0A =>
    let per := v.field 4 0
    { s with dbg := { g with smpPa := v.field 51 6 * 64, smpTrace := v.getLsbD 5,
                             smpPer := if 1 ≤ per && per ≤ 9 then g.smpPer else per } }
  | 0xC0C => { s with dbg := { g with cl := v.field 7 0 } }
  | 0xC10 => { s with dbg := g.setSil v }
  | _ => s

/-- A monitor register written at monitor level (R367). -/
def State.monWrite (s : State) (cr : Nat) (v : Word) : State :=
  match cr with
  | 0xB00 => { s with sctrap := s.sctrap &&& ~~~(v.extractLsb' 12 4), lbrk := s.lbrk && !v.getLsbD 11 }
  | 0xB01 => { s with mhdmBase := v.field 51 30 * 2 ^ 30, mhdmGib := if v.field 6 0 ≤ 64 then v.field 6 0 else s.mhdmGib }
  | n =>
    if 0xB10 ≤ n && n ≤ 0xB1B then { s with lnode := s.lnode.setIfInBounds (n - 0xB10) (v.field 27 16, v.field 11 0) } else s

/-! ### Writes: kernel level -/

/-- A three-bit rounding mode field written: 6 and 7 are left (R43). -/
def modeField (old : Nat) (v : Word) : Nat := if v.field 2 0 < 6 then v.field 2 0 else old

/-- FFLAGS from a written value (R43). -/
def fflagsFrom (v : Word) : BitVec 10 := (v.extractLsb' 8 5) ++ (v.extractLsb' 0 5)

/-- SRSEED written (R39, R44): every generator is reseeded, after the earlier vector words. Engines take no write (R169). -/
def Ctx.writeSeed (k : Ctx) (v : Word) : Res Ctx :=
  let seed : BitVec 32 := v.setWidth 32
  match k.p with
  | .vec slot =>
    match k.st.hart slot with
    | none => .ok k
    | some h =>
      if !h.quiet then k.wait else
      .ok { k.setHart { h with srseed := seed, gen := Vector.ofFn fun j => genSeed seed j.val } with
              c := { k.c with g64 := genSeed seed 64 } }
  | .scc d =>
    .ok { k with st := k.st.setDie d { k.st.die d with srseed := seed }, c := { k.c with g64 := genSeed seed 64 } }
  | _ => .ok k

/-- FFLAGS written (R44, R114): after the earlier vector words. -/
def Ctx.writeFflags (k : Ctx) (v : Word) : Res Ctx := do
  k.quiet
  .ok { k with c := { k.c with fflags := fflagsFrom v } }

/-- SCOPEMISS.mreg written (R224): after every earlier vector word, so that a vamo before it writes the old mask. 0 is left. -/
def Ctx.writeMreg (k : Ctx) (v : Word) : Res Ctx := do
  k.quiet
  let m : BitVec 4 := v.setWidth 4
  if m = 0 then .ok k else
  match k.p with
  | .vec slot =>
    match k.st.hart slot with
    | some h => .ok (k.setHart { h with mreg := m })
    | none => .ok k
  | .scc d => .ok { k with st := k.st.setDie d { k.st.die d with mreg := m } }
  | _ => .ok k

/-- EXPSTAT written (R257): its sticky bits are cleared by ones. -/
def Ctx.writeExpstat (k : Ctx) (v : Word) : Ctx :=
  match k.p with
  | .vec slot =>
    match k.st.hart slot with
    | some h => k.setHart { h with hsat := h.hsat && !v.getLsbD 2, csat := h.csat && !v.getLsbD 1, vfull := h.vfull && !v.getLsbD 0 }
    | none => k
  | _ => k

/-- A control register that the party reaches written field by field (R6, R113, R114). VIDX is read-only: its write traps at kernel level
(R55), and does nothing on a stream controller core (R6). -/
def Ctx.crWrite (k : Ctx) (cr : Nat) (v : Word) : Res Ctx :=
  match cr with
  | 0x003 => match k.p with
    | .scc _ => .ok k
    | _ => k.cause 2
  | 0x004 => .ok { k with c := { k.c with fround := BitVec.ofNat 3 (modeField k.c.fround.toNat v) } }
  | 0x005 =>
    let r : BitVec 5 := BitVec.ofNat 5 (v.field 4 3 * 8 + modeField (k.c.vround.toNat % 8) v)
    .ok { k with c := { k.c with vround := r } }
  | 0x006 => k.writeFflags v
  | 0x010 => k.writeSeed v
  | 0x016 => .ok (k.writeExpstat v)
  | 0x017 => k.writeMreg v
  | n =>
    match k.p with
    | .scc d => if n ≤ 0x018 then .ok k else .ok { k with st := k.st.supWrite d n v }
    | _ => .ok k

/-! ### The words (R113, R114) -/

/-- A read's waits: FFLAGS, VIDX and the request counts after the earlier vector words, VL after a block with a vldff (R44, R55, R149, R154, R266). -/
def Ctx.crWait (k : Ctx) (cr : Nat) : Res Unit :=
  match cr with
  | 0x003 | 0x006 | 0x012 | 0x013 => k.quiet
  | 0x000 => if k.ffPending then k.wait else .ok ()
  | _ => .ok ()

/-- A word that reads a control register and, with f, writes it. -/
def crWord (d : Reg) (cr : BitVec 12) (a : Reg) (reads : Bool) (f : Option (Word → Word → Word)) (s : State) : Out :=
  s.scalarWord .common fun k => do
    match crCause k.p cr.toNat with
    | some n => k.cause n
    | none =>
      k.need [d] [a]
      if cr = 0x003 && f.isSome && k.p.isVec then k.cause 2 else
      if reads then k.crWait cr.toNat
      let old : Word := BitVec.ofNat 64 (k.st.crValue k.p k.c cr.toNat)
      let k1 ← match f with
        | some g => k.crWrite cr.toNat (g old (k.c.get a))
        | none => .ok k
      .ok (if reads then k1.write d old else k1.done)

/-- crd (R113). -/
def execCrd (d : Reg) (cr : BitVec 12) (s : State) : Out := crWord d cr 0 true none s

/-- cwr (R113). -/
def execCwr (cr : BitVec 12) (a : Reg) (s : State) : Out := crWord 0 cr a false (some fun _ v => v) s

/-- crs (R113): sets bits. -/
def execCrs (d : Reg) (cr : BitVec 12) (a : Reg) (s : State) : Out := crWord d cr a true (some fun old v => old ||| v) s

/-- crc (R113): clears bits. -/
def execCrc (d : Reg) (cr : BitVec 12) (a : Reg) (s : State) : Out := crWord d cr a true (some fun old v => old &&& ~~~v) s

/-! ### The table's steps that are writes. They act for the party on turn and move no program counter. -/

/-- The party on turn writes a register; a write that must wait, or that the party may not make, leaves the state. -/
def writeStep (f : Ctx → Res Ctx) (s : State) : Out :=
  match s.scalar s.cur with
  | none => .next s
  | some c =>
    match f ⟨s, s.cur, c⟩ with
    | .ok k => .next (k.st.setScalar k.p k.c)
    | .error (_, .fault e) => .fault e
    | .error _ => .next s

/-- The core on turn changes its state. -/
def coreStep (f : Nat → State) (s : State) : Out :=
  match s.cur with
  | .scc d => .next (f d)
  | _ => .next s

/-- registerWrite (R6): a write field by field by the party on turn, or by the monitor for its own registers. -/
def execRegisterWrite (cr : BitVec 12) (v : BitVec 64) (s : State) : Out :=
  let n := cr.toNat
  if monAssigned n then .next (s.monWrite n v)
  else if dbgAssigned n then .next (s.dbgWrite n v)
  else match crCause s.cur n with
    | some _ => .next s
    | none => writeStep (fun k => k.crWrite n v) s

/-- srseedWrite (R39). -/
def execSrseedWrite (v : BitVec 64) (s : State) : Out := writeStep (fun k => k.writeSeed v) s

/-- fflagsWrite (R44). -/
def execFflagsWrite (v : BitVec 64) (s : State) : Out := writeStep (fun k => k.writeFflags v) s

/-- ctxcmdOpen (R284). -/
def execCtxcmdOpen (ctx : Nat) (s : State) : Out := .next (s.openContext ctx)

/-- ctxcmdClose (R284). -/
def execCtxcmdClose (ctx : Nat) (s : State) : Out := .next (s.closeContext ctx)

/-- ctxcmdReopen (R284). -/
def execCtxcmdReopen (ctx : Nat) (s : State) : Out := .next (s.reopenContext ctx)

/-- lpbaseWrite (R304): a write by the runtime, which then stands at the area's first word (log 7). -/
def execLpbaseWrite (v : BitVec 64) (s : State) : Out :=
  coreStep (fun d =>
    let x := (s.die d).setLpbase v
    s.setDie d { x with core := { x.core with pc := BitVec.ofNat 64 x.areaAddr } }) s

/-- lplimitWrite (R304, R358): by the host or the core; before boot stage 5 it does nothing. -/
def execLplimitWrite (die : Nat) (v : BitVec 64) (s : State) : Out :=
  if s.stage < 5 || 4 ≤ die then .next s else .next (s.setDie die ((s.die die).setLplimit v))

/-- kcinv (R313). -/
def execKcinv (v : BitVec 64) (s : State) : Out := .next (s.kcinv v)

/-- clkmodeWrite (R314). -/
def execClkmodeWrite (v : BitVec 64) (s : State) : Out := .next { s with clkReq := v.getLsbD 0 }

/-- pgwake (R333). -/
def execPgwake (v : BitVec 64) (s : State) : Out := coreStep (fun d => s.wakePager (s.die d).ctxsel v) s

/-- xe3Stage (R341). -/
def execXe3Stage (v : BitVec 64) (s : State) : Out := coreStep (fun d => s.setXe d 3 v) s

/-- sltWrite (R346). -/
def execSltWrite (cr : BitVec 12) (v : BitVec 64) (s : State) : Out :=
  if 0x862 ≤ cr.toNat && cr.toNat ≤ 0x866 then coreStep (fun d => s.queueSlt d (cr.toNat - 0x862) v) s else .next s

/-- sltTurnApply (R346): the pending writes of a channel take effect, in order. In locked-clock mode the tables are frozen, and writes that came before it
wait for its end (R314). -/
def execSltTurnApply (stack chan : Nat) (s : State) : Out :=
  if s.clkCur then .next s else
  let mine (w : SltPending) : Bool := w.stack == stack && w.chan == chan
  .next { s with slt := (s.sltWaits.filter mine).foldl (fun t w => tblPut (sltKey stack chan w.reg) w.value t) s.slt,
                 sltWaits := s.sltWaits.filter fun w => !mine w }

/-- bdctlRestart (R348). -/
def execBdctlRestart (v : BitVec 64) (s : State) : Out :=
  coreStep (fun d => if v.getLsbD 0 then s.restartBase (s.die d).bdsel else s) s

/-- errlogClear (R350). -/
def execErrlogClear (v : BitVec 64) (s : State) : Out := .next (s.clearErrlog v)

/-- dbghalt (R353). -/
def execDbghalt (v : BitVec 64) (s : State) : Out := .next (s.haltKernel (Word.field v 15 0))

/-- fqctlWrite (R284, R333): FQCTL or PGQCTL of the core's context. -/
def execFqctlWrite (cr : BitVec 12) (v : BitVec 64) (s : State) : Out :=
  coreStep (fun d =>
    let ctx := (s.die d).ctxsel
    let c := s.context ctx
    if cr = 0x802 then s.setContext ctx { c with fq := c.fq.setCtl v }
    else if cr = 0x832 then s.setContext ctx { c with pgq := c.pgq.setCtl v } else s) s

end Sys2Proof.Machine
end

