-- ==== Sys2Proof/Machine/Streams.lean ====
section
/-! DEFINITION. Stream registers and copies: the words of major 0x18 and the steps of the copy engine (R158 to R165, R333). -/
namespace Sys2Proof.Machine

/-! ### Ports (R161) -/

/-- The page kind at a pattern's base, when it is mapped. -/
def State.patKind (s : State) (w : Who) (p : Pattern) : Option Nat := (s.leaf w.ctx p.base).map fun e => entryField e.1 61 59

/-- The port of a page kind: scratchpads 0, working 1, host and peer 2, the Cellar 3. R161 names no port for a plane store, which counts as a
scratchpad, nor for a page that is not mapped yet, which counts as working (DESIGN CHOICE, log 22). -/
def kindPort (k : Option Nat) : Nat :=
  match k with
  | some 2 | some 3 | some 7 => 0
  | some 4 | some 5 => 2
  | some 1 => 3
  | _ => 1

/-- The port of a copy: its source's, or its destination's when the source is scratchpad. -/
def State.copyPort (s : State) (w : Who) (src dst : Pattern) : Nat :=
  if kindPort (s.patKind w src) = 0 then kindPort (s.patKind w dst) else kindPort (s.patKind w src)

/-- The slots of a cluster's port in use: issued commands and stream bindings. -/
def State.portUsed (s : State) (c port : Nat) : Nat :=
  ((s.cluster c).copies.filter fun k => k.port == port).length +
  ((s.harts.filter fun e => slotCluster e.1 == c).map fun e =>
    (e.2.q.toList.filter fun q => q.any fun t => t.port == port).length).sum +
  (match (s.cluster c).seq with
    | some x => (x.q.toList.filter fun q => q.any fun t => t.port == port).length
    | none => 0)

/-! ### Tokens of a party -/

def State.tokens (s : State) (p : Party) : Vector Token 8 :=
  match p with
  | .vec slot => ((s.hart slot).map (·.tok)).getD (Vector.replicate 8 Token.idle)
  | .seq c => ((s.cluster c).seq.map (·.tok)).getD (Vector.replicate 8 Token.idle)
  | _ => Vector.replicate 8 Token.idle

def State.setToken (s : State) (p : Party) (j : Nat) (t : Token) : State :=
  match p with
  | .vec slot =>
    match s.hart slot with
    | some h => s.setHart slot { h with tok := h.tok.setIfInBounds j t }
    | none => s
  | .seq c =>
    let cl := s.cluster c
    match cl.seq with
    | some q => s.setCluster c { cl with seq := some { q with tok := q.tok.setIfInBounds j t } }
    | none => s
  | _ => s

/-- The cluster of a party. -/
def Party.cluster : Party → Nat
  | .vec slot => slotCluster slot
  | .mcc c => c
  | .seq c => c
  | .scc _ => 0

/-! ### Words -/

/-- Who makes the accesses of a hart's stream register (R333; log 58). -/
def Who.streamEngine (w : Who) (slot q : Nat) : Who := { w with eng := 16 + slot % 8 * 8 + q }

/-- The stream registers of a party: a vector hart's, or those of a copy program (R83, R159). -/
def State.streams (s : State) (p : Party) : Vector (Option Stream) 8 :=
  match p with
  | .vec slot => ((s.hart slot).map (·.q)).getD (Vector.replicate 8 none)
  | .seq c => ((s.cluster c).seq.map (·.q)).getD (Vector.replicate 8 none)
  | _ => Vector.replicate 8 none

/-- A stream register of a party bound, or unbound. -/
def State.setStream (s : State) (p : Party) (j : Nat) (t : Option Stream) : State :=
  match p with
  | .vec slot => match s.hart slot with
    | some h => s.setHart slot { h with q := h.q.setIfInBounds j t }
    | none => s
  | .seq c =>
    let cl := s.cluster c
    match cl.seq with
    | some x => s.setCluster c { cl with seq := some { x with q := x.q.setIfInBounds j t } }
    | none => s
  | _ => s

/-- The vector words that a binding of qj, or the end of one, waits for (R238): all of them, or those that name qj. A copy program has none. -/
def Ctx.streamBusy (k : Ctx) (j : Nat) (binds : Bool) : Bool :=
  match k.p with
  | .vec slot => match k.st.hart slot with
    | some h => if binds then !h.quiet else k.st.pendingAny slot h fun u => u.reads.contains (.q j) || u.writes.contains (.q j)
    | none => false
  | _ => false

/-- sbind (R159, R160, R238): unbinds qj, then binds it unless both operands name s0. Binding waits for every earlier vector word before it reads
its record, and unbinding for those that name qj and for a write stream's committed elements. -/
def execSbind (j : BitVec 3) (a b : Reg) (s : State) : Out :=
  s.scalarWord .stream fun k => do
    k.need [] [a, b]
    let binds := !(a == 0 && b == 0)
    let q := (k.st.streams k.p).getD j.toNat none
    if k.streamBusy j.toNat binds || q.any fun t => !t.pending.isEmpty then k.wait else
    if !binds then .ok { k with st := k.st.setStream k.p j.toNat none, c := k.c.advance } else
    let w := k.st.who k.p
    let va := (k.c.get a).toNat
    let dir := (k.c.get b).toNat
    let bad : Trap := { cause := 0x12, addr := va, info := j.toNat }
    match k.st.readPattern w va with
    | .error _ => k.trap { cause := 3, addr := va }
    | .ok none => k.trap bad
    | .ok (some p) =>
      if p.segs != 0 || 1 < dir then k.trap bad else
      let s1 := k.st.setStream k.p j.toNat none
      let port := kindPort (k.st.patKind w p)
      if 4 ≤ s1.portUsed k.p.cluster port then k.wait else
      let s2 := (s1.setStream k.p j.toNat (some ⟨p, dir == 1, k.c.vround, port, 0, [], [], 0, none⟩)).touch w.ctx va
      .ok { k with st := if k.p.isVec then s2.freshEngine (w.streamEngine k.slot j.toNat) else s2, c := k.c.advance }

/-- Both formats are floating-point, or both are integer (R162). -/
def sameSort (a b : BitVec 6) : Bool := fmtInt a == fmtInt b

/-- The patterns of scpy, and of scpy.seg, agree (R162, R163). -/
def copyOk (seg : Bool) (a b : Pattern) : Bool :=
  sameSort a.fmt b.fmt &&
  (if seg then a.segs != 0 && b.segs == 0 && b.dims == 2 && b.count1 == a.segs && b.count0 == a.count / a.segs
   else a.segs == 0 && b.segs == 0 && a.count == b.count)

/-- scpy and scpy.seg (R162, R163). A copy observes every earlier access of its hart, so the word waits for the earlier vector
words. -/
def copyWord (seg : Bool) (j : BitVec 3) (a b : Reg) (s : State) : Out :=
  s.scalarWord .stream fun k => do
    k.need [] [a, b]
    let toks := k.st.tokens k.p
    let t := toks.getD j.toNat Token.idle
    if t.state == .busy then k.wait else
    match tokenTrap toks.toList (1 <<< j.toNat) with
    | some t => k.trap t
    | none =>
      let w := k.st.who k.p
      let va := (k.c.get a).toNat
      let vb := (k.c.get b).toNat
      if va % 32 != 0 then k.trap { cause := 3, addr := va }
      else if vb % 32 != 0 then k.trap { cause := 3, addr := vb }
      else
        k.quiet
        let failed : Res Ctx := .ok { k with st := k.st.setToken k.p j.toNat ⟨.error, 0, 0, 0⟩, c := k.c.advance }
        match k.st.readPattern w va, k.st.readPattern w vb with
        | .ok (some p), .ok (some q) =>
          if !copyOk seg p q then failed else
          let port := k.st.copyPort w p q
          let c := k.p.cluster
          if 4 ≤ k.st.portUsed c port then k.wait else
          let copy : Copy := ⟨k.p, (k.st.ownerSlot k.p).getD 0, w.ctx, w.kid, j.toNat, port, p, q, k.c.vround, false, 0⟩
          let s1 := (k.st.setToken k.p j.toNat ⟨.busy, 0, 0, 0⟩).touch w.ctx va |>.touch w.ctx vb
          .ok { k with st := s1.setCluster c { s1.cluster c with copies := (s1.cluster c).copies ++ [copy] }, c := k.c.advance }
        | _, _ => failed

/-- scpy (R162). -/
def execScpy (j : BitVec 3) (a b : Reg) (s : State) : Out := copyWord false j a b s

/-- scpy.seg (R163). -/
def execScpySeg (j : BitVec 3) (a b : Reg) (s : State) : Out := copyWord true j a b s

/-- swait (R165). -/
def execSwait (tokens : BitVec 8) (s : State) : Out :=
  s.scalarWord .stream fun k => do
    let toks := (k.st.tokens k.p).toList
    if (upFrom 0 8).any fun j => tokens.getLsbD j && (nthD Token.idle toks j).state == .busy then k.wait else
    match tokenTrap toks tokens with
    | some t => k.trap t
    | none => .ok k.done

/-- scancel (R164, R165): the copy stops after the prefix it has performed; the token is idle. -/
def execScancel (j : BitVec 3) (s : State) : Out :=
  s.scalarWord .stream fun k =>
    let c := k.p.cluster
    let cl := k.st.cluster c
    let t := (k.st.tokens k.p).getD j.toNat Token.idle
    let done := ((cl.copyOf k.p j.toNat).map (·.pos)).getD t.done
    let s1 := k.st.setCluster c { cl with copies := cl.copies.filter fun x => !(x.owner == k.p && x.tok == j.toNat) }
    .ok { k with st := s1.setToken k.p j.toNat ⟨.idle, done, 0, 0⟩, c := k.c.advance }

/-- squery (R165). -/
def execSquery (d : Reg) (j : BitVec 3) (s : State) : Out :=
  s.scalarWord .stream fun k => do
    k.need [d] []
    let t := (k.st.tokens k.p).getD j.toNat Token.idle
    let done := (((k.st.cluster k.p.cluster).copyOf k.p j.toNat).map (·.pos)).getD t.done
    .ok (k.write d (BitVec.ofNat 64 (min done (2 ^ 32 - 1) * 2 ^ 32 + tokStateNat t.state)))

/-! ### The copy engine's steps -/

/-- The code a copy writes for a source code (R162): SR is taken as RNE. -/
def convertCode (src dst : BitVec 6) (vround : BitVec 5) (code : Nat) : Nat :=
  if src = dst then code else
  let slot := widen src code (some 0)
  match fmtFloat dst with
  | some f => (roundTo f (f32 slot) (if vround.toNat % 8 = rsr then rne else vround.toNat % 8) (memSat vround) 0).1
  | none => narrow dst slot vround rne 0 0

/-- What one element of an engine's access meets: it is performed, its page is not present, or it fails. -/
inductive Meet (α : Type) where
  | done (a : α)
  | absent (va : Nat)
  | failed (cause va key : Nat)
  deriving DecidableEq, Repr

/-- The place of an engine's element, or what stops it: a page that is not present makes it ask, an address out of range or
any other check fails it (R144, R160, R162). A page it asked for stays absent to it until PGWAKE (R333). -/
def State.enginePlace (s : State) (w : Who) (u : Use) (c : BitVec 6) (nib : Nat) : Meet Place :=
  if s.awaitsPage w (nib / 2) then .absent (nib / 2) else
  match s.elemPlace w u c nib with
  | .ok p => .done p
  | .error 4 => if nib / 2 < 2 ^ 57 then .absent (nib / 2) else .failed 4 (nib / 2) 0
  | .error e => .failed e (nib / 2) 0

/-- Read one element as an engine. -/
def State.engineRead (s : State) (w : Who) (c : BitVec 6) (nib : Nat) : Meet (Nat × Place) :=
  match s.enginePlace w .load c nib with
  | .done p =>
    match s.elemReadError p c with
    | some e => .failed e (nib / 2) p.key
    | none => .done (s.readCode p c nib, p)
  | .absent va => .absent va
  | .failed a b k => .failed a b k

/-- Store one code as an engine: into memory, or into the next plane of a region as the issuing hart's store (R211). form: what SUM is asked for: no
write stream's element is among the stores that it permits (R213). -/
def State.engineWrite (s : State) (w : Who) (c : BitVec 6) (nib code : Nat) (form : StoreForm := .fmt c.toNat) : Meet (State × Place) :=
  match s.enginePlace w .store c nib with
  | .done p =>
    match s.elemStoreError p c with
    | some (e, key) => .failed e (nib / 2) key
    | none =>
      match (s.elemClaim w p c [] form).1 with
      | some e => .failed e (nib / 2) p.key
      | none => .done ((s.touch w.ctx (nib / 2)).storeElemAt w p c nib code, p)
  | .absent va => .absent va
  | .failed a b k => .failed a b k

/-- The block that an engine's element has sent when it fails with a cause: one that meets an uncorrectable error is sent (R149). -/
def State.engineSent (s : State) (w : Who) (u : Use) (c : BitVec 6) (nib cause : Nat) : List Place :=
  if cause != 9 then [] else
  match s.enginePlace w u c nib with
  | .done p => [p]
  | _ => []

/-- The stack and the block of an uncorrectable error that an engine's nibble meets in a Cellar page: a context fault, and no cause of the engine's (R207). -/
def State.cellarStruck (s : State) (w : Who) (c : BitVec 6) (nib cause : Nat) : Option (Nat × Nat) :=
  if cause != 9 then none else
  match s.enginePlace w .store c nib with
  | .done p => if p.kind == 1 then some (p.home, (s.badBlock p.key).getD p.key) else none
  | _ => none

/-- Elements of a copy from its position on, at most n of them: the state, the position reached, the places touched, and what
stopped it, on its source's or (true) on its destination's side. -/
def State.copyElems (s : State) (w : Who) (c : Copy) : Nat → Nat → List Place → List Place →
    State × Nat × List Place × List Place × Option (Bool × Meet Unit)
  | 0, i, ps, qs => (s, i, ps, qs, none)
  | n + 1, i, ps, qs =>
    match s.engineRead w c.src.fmt (c.src.nib i) with
    | .absent va => (s, i, ps, qs, some (false, .absent va))
    | .failed e va k => (s, i, s.engineSent w .load c.src.fmt (c.src.nib i) e ++ ps, qs, some (false, .failed e va k))
    | .done (code, p) =>
      let s1 := s.touch w.ctx (c.src.nib i / 2)
      match s1.engineWrite w c.dst.fmt (c.dst.nib (c.target i)) (convertCode c.src.fmt c.dst.fmt c.vround code) with
      | .absent va => (s1, i, ps, qs, some (true, .absent va))
      | .failed e va k =>
        (s1, i, p :: ps, s1.engineSent w .store c.dst.fmt (c.dst.nib (c.target i)) e ++ qs, some (true, .failed e va k))
      | .done (t, q) => t.copyElems w c n (i + 1) (p :: ps) (q :: qs)

/-- Who makes a copy's accesses: its hart, as the engine that serves the copy (R333; log 58). -/
def State.copyWho (s : State) (c : Copy) : Who :=
  { s.who c.owner with eng := match c.owner with
      | .seq _ => 256 + c.tok
      | _ => 128 + c.slot % 8 * 8 + c.tok }

/-- Who makes the accesses of a hart's stream register (R333; log 58). -/
def Hart.streamWho (h : Hart) (slot q : Nat) : Who := (h.who slot).streamEngine slot q

/-- Copy number idx of a cluster. -/
def Cluster.copyAt (c : Cluster) (idx : Nat) : Option Copy := c.copies[idx]?

def State.setCopy (s : State) (c idx : Nat) (k : Copy) : State :=
  s.setCluster c { s.cluster c with copies := setNth k (s.cluster c).copies idx }
def State.dropCopy (s : State) (c idx : Nat) : State :=
  s.setCluster c { s.cluster c with copies := (s.cluster c).copies.eraseIdx idx }

/-- copyStart (R161): a command starts once the earlier commands of its port have started. -/
def execCopyStart (cluster idx : Nat) (s : State) : Out :=
  match (s.cluster cluster).copyAt idx with
  | some c =>
    let earlier := ((s.cluster cluster).copies.take idx).all fun x => x.port != c.port || x.started
    if !c.started && earlier then .next ((s.setCopy cluster idx { c with started := true }).freshEngine (s.copyWho c)) else .next s
  | none => .next s

/-- A copy run over its remaining elements (R162, R164, R211): it completes, waits on a page with its position kept, or fails;
refused: a page that is not present counts as refused by the pager. A nibble that meets an uncorrectable error in the Cellar ends the context (R207). -/
def State.runCopy (s : State) (cluster idx : Nat) (c : Copy) (refused : Bool) : Out :=
  let w := s.copyWho c
  let (t, i, ps, qs, stop) := s.copyElems w c (c.dst.count - c.pos) c.pos [] []
  let n1 := countReqs w.die ps
  let n2 := countReqs w.die qs
  let t1 := t.countFor c.owner (n1.1 + n2.1, n1.2 + n2.2)
  let ended (u : State) (tok : Token) : Out := .next ((u.dropCopy cluster idx).setToken c.owner c.tok tok)
  match stop with
  | none => ended t1 ⟨.idle, i, 0, 0⟩
  | some (side, .failed e va k) =>
    (match if side then t1.cellarStruck w c.dst.fmt (c.dst.nib (c.target i)) e else none with
      | some (stack, pa) => .next ((t1.setCopy cluster idx { c with pos := i }).contextFault w.ctx stack false pa)
      | none => ended (if e = 9 then t1.logError k else t1) ⟨.error, i, e, va⟩)
  | some (side, .absent va) =>
    if refused then ended t1 ⟨.error, i, 4, va⟩ else
    let access := if side then accessField 7 0 c.dst.fmt.toNat false else accessField 6 0 c.src.fmt.toNat false
    .next ((t1.setCopy cluster idx { c with pos := i }).pageAsk w va access)
  | some (_, .done ()) => .next t1

/-- A started copy comes as far as a free number of its remaining elements takes it, and goes on (R161, R164; log 14). -/
def State.copyAdvance (s : State) (cluster idx : Nat) : Out :=
  match (s.cluster cluster).copyAt idx with
  | none => .next s
  | some c =>
    if !c.started then .next s else
    let w := s.copyWho c
    let (t, i, ps, qs, _) := s.copyElems w c (Config.choice s.steps % (c.dst.count - c.pos + 1)) c.pos [] []
    let n1 := countReqs w.die ps
    let n2 := countReqs w.die qs
    .next ((t.countFor c.owner (n1.1 + n2.1, n1.2 + n2.2)).setCopy cluster idx { c with pos := i })

/-- copyComplete (R164): a started copy performs its remaining elements. -/
def execCopyComplete (cluster idx : Nat) (s : State) : Out :=
  match (s.cluster cluster).copyAt idx with
  | some c => if c.started then s.runCopy cluster idx c false else .next s
  | none => .next s

/-- copyFail (R162): a started copy with an element that cannot be performed performs those before it and fails; a page that is
not present is one the pager refuses. A copy without such an element is as before. -/
def execCopyFail (cluster idx : Nat) (s : State) : Out :=
  match (s.cluster cluster).copyAt idx with
  | some c =>
    let (_, _, _, _, stop) := s.copyElems (s.copyWho c) c (c.dst.count - c.pos) c.pos [] []
    if c.started && stop.isSome then s.runCopy cluster idx c true else .next s
  | none => .next s

/-- A stream of a hart replaced. -/
def Hart.setStream (h : Hart) (q : Nat) (t : Stream) : Hart := { h with q := h.q.setIfInBounds q (some t) }

/-- readStreamFetch (R159, R160): a bound read stream fetches its next element, asks for its page, or meets an error. -/
def execReadStreamFetch (slot q : Nat) (s : State) : Out :=
  match s.hart slot with
  | none => .next s
  | some h =>
    match h.q.getD q none with
    | none => .next s
    | some t =>
      let n := t.pos + t.fetched.length
      if t.write || t.err.isSome || t.pat.count ≤ n then .next s else
      let w := h.streamWho slot q
      let nib := t.pat.nib n
      match s.engineRead w t.pat.fmt nib with
      | .done (code, p) =>
        let s1 := (s.setHart slot (h.setStream q { t with fetched := t.fetched ++ [widen t.pat.fmt code (some 0)] })).touch w.ctx (nib / 2)
        .next (s1.countFor (.vec slot) (countReqs w.die [p]))
      | .failed e va k =>
        let s1 := (if e = 9 then s.logError k else s).setHart slot (h.setStream q { t with err := some (e, va) })
        .next (s1.countFor (.vec slot) (countReqs w.die (s.engineSent w .load t.pat.fmt nib e)))
      | .absent va =>
        .next (s.pageAsk w va (accessField 1 0 t.pat.fmt.toNat false))

/-- writeStreamPerform (R159, R160): a write stream performs its oldest committed element, asks for its page, or meets an
error, after which it performs nothing. -/
def execWriteStreamPerform (slot q : Nat) (s : State) : Out :=
  match s.hart slot with
  | none => .next s
  | some h =>
    match h.q.getD q none with
    | none => .next s
    | some t =>
      match t.pending with
      | [] => .next s
      | code :: rest =>
        if !t.write then .next s else
        let w := h.streamWho slot q
        match s.engineWrite w t.pat.fmt (t.pat.nib t.done) code.toNat .other with
        | .done (u, p) =>
          .next ((u.setHart slot (h.setStream q { t with pending := rest, done := t.done + 1 })).countFor (.vec slot)
            (countReqs w.die [p]))
        | .failed e va k =>
          (match s.cellarStruck w t.pat.fmt (t.pat.nib t.done) e with
            | some (stack, pa) => .next (s.contextFault w.ctx stack false pa)
            | none =>
              let s1 := (if e = 9 then s.logError k else s).setHart slot (h.setStream q { t with pending := [], err := some (e, va) })
              .next (s1.countFor (.vec slot) (countReqs w.die (s.engineSent w .store t.pat.fmt (t.pat.nib t.done) e))))
        | .absent va =>
          .next (s.pageAsk w va (accessField 2 0 t.pat.fmt.toNat false))

end Sys2Proof.Machine
end

