-- ==== Sys2Proof/Machine/Matrix.lean ====
section
/-! DEFINITION. The matrix words and the two pipes of matrix operations, the Larder, the accumulators and their chaining bits,
and the cells of the array (R48 to R51, R170 to R187). -/
namespace Sys2Proof.Machine

/-! ### Cells and accumulators -/

/-- The key of cell (row, col) of accj. -/
def cellKey (j row col : Nat) : Nat := 12288 * j + 96 * row + col

def Cluster.cell (c : Cluster) (j row col : Nat) : Slot := tblGet 0 (cellKey j row col) c.acc

/-- A cell of an accumulator as a context reads it: another context's contents are zeroed before it serves (R294). -/
def Cluster.cellFor (c : Cluster) (ctx j row col : Nat) : Slot := if c.foreignAcc ctx j then 0 else c.cell j row col

/-- A cell written; a zero cell is not listed. -/
def Cluster.setCell (c : Cluster) (j row col : Nat) (x : Slot) : Cluster :=
  let k := cellKey j row col
  { c with acc := if x = 0 then tblDel k c.acc else tblPut k x c.acc }

/-- The special values that promotion adds (R50): infinities and NaN. -/
def specAdd (s : Option Num) (p : Num) : Option Num :=
  match s, p with
  | none, .nan .. => some Num.canon
  | none, x => some x
  | some (.nan ..), _ => some Num.canon
  | some _, .nan .. => some Num.canon
  | some x, y => if x = y then some x else some Num.canon

/-- A cell of the binary8 and FP4 paths (R50): the accumulator, the NIA in units of 2^(ew - 32), the window, the special
value, and the k-steps at which it has promoted early. -/
structure Cell where
  acc    : Slot
  nia    : Int
  ew     : Int
  opened : Bool
  spec   : Option Num
  promos : List Nat
  deriving DecidableEq, Repr

/-- A sum of the array rounded into an accumulator (R48, R50): its NaNs are spec_add's, 0x7FC00000 (R177). -/
def accSum (x : Slot) (y : Num) : Slot :=
  let sum := (addNum rne (f32 x) y).1
  (roundF32 (if sum.isNaN then Num.canon else sum) rne 0 0).1

/-- promote(cell) (R50). -/
def Cell.promote (c : Cell) : Cell :=
  let n := (roundF32 (Num.ofInt c.nia (c.ew - 32) false) rne 0 0).1
  let a := accSum c.acc (f32 n)
  let a' := match c.spec with
    | some v => accSum a v
    | none => a
  { c with acc := a', nia := 0, spec := none, opened := false }

/-- open_window (R50). -/
def Cell.openAt (c : Cell) (ew : Int) : Cell := { c with ew := ew, nia := 0, opened := true }

/-- nia_add (R50): the product of two values under their scales at step k; a scale of 0xFF makes it NaN. cf is c_f. -/
def Cell.add (c : Cell) (k : Nat) (a b : Num) (sa sb : Nat) (cf : Int) : Cell :=
  let ew : Int := (sa : Int) + (sb : Int) - 254 + cf
  let c1 := if c.opened then c else c.openAt ew
  let p : Num := if sa = 255 || sb = 255 then Num.canon else (mulNum a b).1.scale ((sa : Int) - 127 + ((sb : Int) - 127))
  match p with
  | .fin s m e =>
    let q (w : Int) : Int := (roundInt s m (e - (w - 32)) rne 0).1
    if 2 ^ 39 ≤ (c1.nia + q c1.ew).natAbs then
      let c2 := ({ c1 with promos := c1.promos ++ [k] }.promote).openAt ew
      { c2 with nia := q ew }
    else { c1 with nia := c1.nia + q c1.ew }
  | v => { c1 with spec := specAdd c1.spec v }

/-! ### Larder runs -/

/-- The formats of operands (R172). -/
def operandFmt (c : BitVec 6) : Bool := c.toNat == 1 || c.toNat == 3 || (32 ≤ c.toNat && c.toNat % 8 != 0)

/-- Bytes of codes of a B image (R172), and of an A tile (R174); bytes of their scales. -/
def bCodeBytes (fmt : BitVec 6) (k : Nat) (sparse : Bool) : Nat :=
  if sparse then k / 4 * (192 * fmtBits fmt / 8 + 48) else k * (96 * fmtBits fmt / 8)
def aCodeBytes (fmt : BitVec 6) (k : Nat) : Nat := 128 * (k * fmtBits fmt / 8)
def bScaleBytes (k : Nat) (scaled : Bool) : Nat := if scaled then k / 4 * 96 else 0
def aScaleBytes (k : Nat) (scaled : Bool) : Nat := if scaled then 128 * (k / 4) else 0

/-- Granules that n bytes occupy. -/
def granules (n : Nat) : Nat := (n + 4095) / 4096

/-- Code number i of bytes that hold codes of a format (R26). -/
def codeAt (fmt : BitVec 6) (bs : List Byte) (i : Nat) : Nat :=
  match fmtBits fmt with
  | 4 => (nthD 0 bs (i / 2)).toNat / (if i % 2 = 0 then 1 else 16) % 16
  | 16 => leNat ((bs.drop (2 * i)).take 2)
  | _ => (nthD 0 bs i).toNat

def Run.fmt6 (r : Run) : BitVec 6 := BitVec.ofNat 6 r.fmt

/-- A.code(row, k) and B.code(k, col) (R172, R174, R177). -/
def Run.aCode (r : Run) (row k : Nat) : Nat :=
  let n := r.k * fmtBits r.fmt6 / 8
  codeAt r.fmt6 ((r.codes.drop (row * n)).take n) k
def Run.bCode (r : Run) (k col : Nat) : Nat :=
  if !r.sparse then codeAt r.fmt6 r.codes (k * 96 + col) else
  let n := 192 * fmtBits r.fmt6 / 8
  let g := (r.codes.drop (k / 4 * (n + 48))).take (n + 48)
  let pos := codeAt 3 (g.drop n) col
  if k % 4 = pos % 4 then codeAt r.fmt6 g (2 * col) else if k % 4 = pos / 4 then codeAt r.fmt6 g (2 * col + 1) else 0

/-- The scales of an element's group, 127 without scales. -/
def Run.aScale (r : Run) (row k : Nat) : Nat := if r.scaled then (nthD 0 r.scales (row * (r.k / 4) + k / 4)).toNat else 127
def Run.bScale (r : Run) (k col : Nat) : Nat := if r.scaled then (nthD 0 r.scales (k / 4 * 96 + col)).toNat else 127

/-- The value of a code of an operand format. -/
def operandNum (fmt : BitVec 6) (code : Nat) : Num := match fmtFloat fmt with
  | some f => f.decode code
  | none => .fin false 0 0

/-- The exponent of an operand format in c_f (R49). -/
def operandEmax (fmt : BitVec 6) : Int := match fmtFloat fmt with
  | some f => f.emax
  | none => 0

/-- One cell of an mma over n more k-steps from k on (R177). -/
def cellSteps (a b : Run) (row col w : Nat) (cf : Int) : Nat → Nat → Cell → Cell
  | 0, _, c => c
  | n + 1, k, c =>
    let x := operandNum a.fmt6 (a.aCode row k)
    let y := operandNum b.fmt6 (b.bCode k col)
    let c1 := c.add k x y (a.aScale row k) (b.bScale k col) cf
    let c2 := if (k + 1) % w = 0 || n = 0 then c1.promote else c1
    cellSteps a b row col w cf n (k + 1) c2

/-- One cell of a bf16 mma (R48); its NaNs are spec_add's (R177). -/
def bfSteps (a b : Run) (row col : Nat) : Nat → Nat → Slot → Slot
  | 0, _, acc => acc
  | n + 1, k, acc =>
    bfSteps a b row col n (k + 1) (accSum acc (mulNum (operandNum a.fmt6 (a.aCode row k)) (operandNum b.fmt6 (b.bCode k col))).1)

/-- A cell's final value and the steps at which it promotes early. -/
def mmaCell (a b : Run) (row col w : Nat) (acc : Slot) : Slot × List Nat :=
  if a.fmt = 1 then (bfSteps a b row col a.k 0 acc, []) else
  let cf := operandEmax a.fmt6 + operandEmax b.fmt6 + 2
  let c := cellSteps a b row col w cf a.k 0 ⟨acc, 0, 0, false, none, []⟩
  (c.acc, c.promos)

/-- The k-steps of a pair in one cycle (R176). -/
def pairRate (a b : Run) : Nat := if a.fmt = 1 then 1 else if a.fmt = 3 && b.fmt = 3 then 4 else 2

/-- The cycles of an mma until the end of the cycle in which its row 0 becomes final (R178): 8 + T + 4E and that cycle. -/
def Cluster.mmaCycles (c : Cluster) (j : Nat) (a b : Run) (w : Nat) : Nat :=
  let early := ((upFrom 0 128).flatMap fun row => (upFrom 0 96).flatMap fun col =>
    (mmaCell a b row col w (c.cell j row col)).2).eraseDups
  8 + (a.k + pairRate a b - 1) / pairRate a b + 4 * early.length + 1

/-- The pair of two operand formats is one the array has (R176). -/
def pairOk (a b : Run) : Bool := a.isA && !b.isA && a.k == b.k && (a.fmt == 1) == (b.fmt == 1)

/-- The run that begins at a granule. -/
def Cluster.runAt (c : Cluster) (g : Nat) : Option Run := c.larder.find? fun r => r.granule == g

/-- The Larder without the runs that share a granule with [g, g + n) (R171). -/
def Cluster.destroyRuns (c : Cluster) (g n : Nat) : Cluster :=
  { c with larder := c.larder.filter fun r => !(r.granule < g + n && g < r.granule + r.count) }

/-! ### Failing -/

/-- A matrix operation fails (R186): a kernel fault whose record names the operation. -/
def State.failOp (s : State) (cluster : Nat) (pc : Word) (t : Trap) : Out :=
  let src := { s.source (.mcc cluster) pc with kind := 5 }
  let w := s.who (.mcc cluster)
  .next ((s.faultPutTrap src t 4).killKernel w.ctx w.kid 3 t.cause)

/-- The words' form of a failure at issue: the state after it, with the word left. -/
def Ctx.failOp (k : Ctx) (cluster : Nat) (t : Trap) : Res Ctx :=
  match k.st.failOp cluster k.c.pc t with
  | .next s => .error (s, .wait)
  | .fault f => .error (k.st, .fault f)
  | .refused _ => k.wait

/-! ### Reading operands -/

/-- n bytes read by an engine at an address, page by page; scratch: only scratchpad and window pages serve, any other address fails with cause
0x05 (R174, R189; of the record of an mst, for which R181 names no cause, DESIGN CHOICE, log 56). Without scratch an address with bits 63:57 not
all zero fails with cause 0x04 (DESIGN CHOICE, log 56: no rule names its cause). -/
def State.engineBytes (s : State) (w : Who) (scratch : Bool) : Nat → Nat → Nat → Meet (List Byte)
  | 0, _, _ => .done []
  | fuel + 1, va, n =>
    if n = 0 then .done [] else
    let m := min n (4096 - va % 4096)
    if s.awaitsPage w va then .absent va
    else if 2 ^ 57 ≤ va then .failed (if scratch then 5 else 4) va 0
    else match s.leaf w.ctx va with
    | none => .absent va
    | some (e, _) =>
    if scratch && entryField e 61 59 != 2 && entryField e 61 59 != 3 then .failed 5 va 0
    else match s.xlate w .load va with
      | .error c => .failed c va 0
      | .ok p =>
        match s.readError [(p, m)] with
        | some (c, k) => .failed c va k
        | none =>
          match s.engineBytes w scratch fuel (va + m) (n - m) with
          | .done bs => .done (s.peek p.key m ++ bs)
          | .absent v => .absent v
          | .failed a b k => .failed a b k

/-- The bytes of n rows of m bytes, a stride apart. -/
def State.engineRows (s : State) (w : Who) (base stride m : Nat) : Nat → Meet (List Byte)
  | 0 => .done []
  | n + 1 =>
    match s.engineRows w base stride m n with
    | .done bs =>
      (match s.engineBytes w true (m / 4096 + 2) (base + n * stride) m with
        | .done cs => .done (bs ++ cs)
        | .absent v => .absent v
        | .failed a b k => .failed a b k)
    | x => x

/-- Who makes a matrix operation's accesses: the program's hart, as the engine of the fill or the array pipe, or as the one that reads records at
issue (R333; log 58). -/
def State.pipeWho (s : State) (cluster : Nat) (fill : Bool) : Who := { s.who (.mcc cluster) with eng := if fill then 1 else 2 }
def Ctx.recordWho (k : Ctx) : Who := { k.st.who k.p with eng := 3 }

/-- Two lists of ranges meet. -/
def opSpansMeet (xs ys : List (Nat × Nat)) : Bool := xs.any fun x => ys.any fun y => x.1 < y.1 + y.2 && y.1 < x.1 + x.2

/-- The ranges of n bytes from an address on, page by page: by address, and by key where the page is present. -/
def State.byteRanges (s : State) (w : Who) : Nat → Nat → Nat → List (Nat × Nat)
  | 0, _, _ => []
  | fuel + 1, va, n =>
    if n = 0 then [] else
    let m := min n (4096 - va % 4096)
    let keys := match s.leaf w.ctx va with
      | some (e, lg) => ((placeOf w e lg va).map fun p => (p.key, m)).toList
      | none => []
    (2 ^ 80 + va, m) :: keys ++ s.byteRanges w fuel (va + m) (n - m)

/-- The bytes of memory that an operation reads or writes once it runs. -/
def State.opRanges (s : State) (w : Who) (k : MatKind) : List (Nat × Nat) :=
  let span (va n : Nat) : List (Nat × Nat) := s.byteRanges w (n / 4096 + 2) va n
  let rows (base stride n : Nat) : List (Nat × Nat) := (upFrom 0 128).flatMap fun r => span (base + r * stride) n
  match k with
  | .mldW va _ kc f sc sp => span (va + 64) (bCodeBytes (BitVec.ofNat 6 f) kc sp + bScaleBytes kc sc)
  | .mldA _ base kc f sc stride sb => rows base stride (kc * fmtBits (BitVec.ofNat 6 f) / 8) ++ span sb (aScaleBytes kc sc)
  | .mst _ base f stride _ => rows base stride (96 * fmtBits (BitVec.ofNat 6 f) / 8)
  | _ => []

/-- An mst issued before and not completed writes bytes that a word reads at issue: its record or header (R170). -/
def Ctx.unstored (k : Ctx) (c va n : Nat) : Bool :=
  let w := k.st.who k.p
  (k.st.cluster c).arrq.any fun o => match o.kind with
    | .mst .. => opSpansMeet (k.st.opRanges w o.kind) (k.st.byteRanges w 2 va n)
    | _ => false

/-! ### Words -/

/-- The program on turn. -/
def Ctx.program (k : Ctx) : Res (Nat × Mcc) :=
  match k.p with
  | .mcc c => match (k.st.cluster c).mcc with
    | some m => .ok (c, m)
    | none => .error (k.st, .fault .noParty)
  | _ => .error (k.st, .fault .noParty)

/-- An operation issued to its pipe; a full pipe makes the word wait (R170). -/
def Ctx.issueOp (k : Ctx) (c : Nat) (m : Mcc) (fill : Bool) (kind : MatKind) : Res Ctx :=
  let cl := k.st.cluster c
  if 8 ≤ (if fill then cl.fillq else cl.arrq).length then k.wait else
  let op : MatOp := ⟨kind, k.c.pc, m.ops, false, 0, 0, 0⟩
  let cl1 := { cl with mcc := some { m with ops := m.ops + 1 } }
  let cl2 := if fill then { cl1 with fillq := cl1.fillq ++ [op] } else { cl1 with arrq := cl1.arrq ++ [op] }
  .ok { k with st := k.st.setCluster c cl2, c := k.c.advance }

/-- What a word does with an engine's read of its record or header: the bytes, or it asks for the page and waits, or the
operation fails. -/
def Ctx.opBytes (k : Ctx) (c : Nat) (va : Nat) (r : Meet (List Byte)) : Res (List Byte) :=
  match r with
  | .done bs => .ok bs
  | .absent v => .error (k.st.pageAsk k.recordWho v (accessField 9 0 0 false), .wait)
  | .failed e v key =>
    let k1 := if e = 9 then { k with st := k.st.logError key } else k
    match k1.failOp c { cause := e, addr := v, access := accessField 9 0 0 false } with
    | .error x => .error x
    | .ok _ => let _ := va; k.wait

/-- An accumulator that the program has claimed and not released (R179). -/
def Mcc.owns (m : Mcc) (j : BitVec 2) : Bool := m.claims.getLsbD j.toNat && !m.released.getLsbD j.toNat

/-- mld.w (R172, R173). -/
def execMldW (a b : Reg) (s : State) : Out :=
  s.scalarWord .matrix fun k => do
    let (c, m) ← k.program
    let va := (k.c.get a).toNat
    let g := (k.c.get b).toNat
    if va % 64 != 0 || 383 < g then k.trap { cause := 0x13, addr := va } else
    if k.unstored c va 64 then k.wait else
    let hd ← k.opBytes c va (k.st.engineBytes k.recordWho false 2 va 64)
    let kc := recNat hd 0 4
    let fmt : BitVec 6 := BitVec.ofNat 6 (recNat hd 4 1)
    let fl := recNat hd 5 1
    let scaled := fl % 2 == 1
    let sparse := fl / 2 % 2 == 1
    if kc % 4 != 0 || kc < 4 || 16384 < kc || 64 ≤ recNat hd 4 1 || !operandFmt fmt || 4 ≤ fl || recNat hd 6 58 != 0 ||
        (fmt == 1 && scaled) || 384 < g + granules (bCodeBytes fmt kc sparse + bScaleBytes kc scaled) then
      k.trap { cause := 0x13, addr := va }
    else k.issueOp c m true (.mldW va g kc fmt.toNat scaled sparse)

/-- mld.a (R174). A record with fmt bf16 and flags bit 0 set has cause 0x13, as one of a B image has (DESIGN CHOICE, log 68: R174 does not say). -/
def execMldA (a b : Reg) (s : State) : Out :=
  s.scalarWord .matrix fun k => do
    let (c, m) ← k.program
    let va := (k.c.get a).toNat
    let g := (k.c.get b).toNat
    if va % 32 != 0 || 383 < g then k.trap { cause := 0x13, addr := va } else
    if k.unstored c va 32 then k.wait else
    let r ← k.opBytes c va (k.st.engineBytes k.recordWho true 2 va 32)
    let base := recNat r 0 8
    let fmt : BitVec 6 := BitVec.ofNat 6 (recNat r 8 1)
    let fl := recNat r 9 1
    let scaled := fl == 1
    let kc := recNat r 12 4
    let stride := recNat r 16 4
    let sbase := recNat r 24 8
    if 64 ≤ recNat r 8 1 || !operandFmt fmt || 2 ≤ fl || recNat r 10 2 != 0 || kc % 4 != 0 || kc < 4 || 16384 < kc ||
        stride % 32 != 0 || stride < kc * fmtBits fmt / 8 || recNat r 20 4 != 0 || (!scaled && sbase != 0) ||
        (fmt == 1 && scaled) || 384 < g + granules (aCodeBytes fmt kc + aScaleBytes kc scaled) then
      k.trap { cause := 0x13, addr := va }
    else k.issueOp c m true (.mldA g base kc fmt.toNat scaled stride sbase)

/-- mma (R177): the checks of its registers and of its claim at issue; the tags are checked when the operation begins, after
the operations before it. -/
def execMma (j : BitVec 2) (a b : Reg) (s : State) : Out :=
  s.scalarWord .matrix fun k => do
    let (c, m) ← k.program
    let va := (k.c.get a).toNat
    let vb := (k.c.get b).toNat
    let ga := va % 512
    let release := (k.c.get a).getLsbD 63
    if va % 2 ^ 63 / 512 != 0 || 512 ≤ vb || !m.owns j then k.cause 0x13 else
    let m1 := if release then { m with released := m.released ||| (1 <<< j.toNat) } else m
    k.issueOp c m1 false (.mma j.toNat ga vb release m.w)

/-- mzero (R180). -/
def execMzero (j : BitVec 2) (s : State) : Out :=
  s.scalarWord .matrix fun k => do
    let (c, m) ← k.program
    if !m.owns j then k.cause 0x13 else k.issueOp c m false (.mzero j.toNat)

/-- mst (R181): the record is captured at issue. -/
def execMst (j : BitVec 2) (a : Reg) (s : State) : Out :=
  s.scalarWord .matrix fun k => do
    let (c, m) ← k.program
    let va := (k.c.get a).toNat
    if !m.owns j || va % 16 != 0 then k.trap { cause := 0x13, addr := va } else
    if k.unstored c va 16 then k.wait else
    let r ← k.opBytes c va (k.st.engineBytes k.recordWho true 2 va 16)
    let fmt : BitVec 6 := BitVec.ofNat 6 (recNat r 8 1)
    let stride := recNat r 12 4
    if 64 ≤ recNat r 8 1 || !(fmt.toNat < 3 || (32 ≤ fmt.toNat && fmt.toNat % 8 != 0)) || recNat r 9 3 != 0 ||
        stride % 32 != 0 || stride < 96 * fmtBits fmt / 8 then k.trap { cause := 0x13, addr := va }
    else k.issueOp c m false (.mst j.toNat (recNat r 0 8) fmt.toNat stride k.c.vround)

/-- mcfg (R180): the promotion window of later mma words. -/
def execMcfg (a : Reg) (s : State) : Out :=
  s.scalarWord .matrix fun k => do
    let (c, m) ← k.program
    let v := (k.c.get a).toNat
    if 4 ≤ v then k.cause 0x13 else
    .ok { k with st := k.st.setCluster c { k.st.cluster c with mcc := some { m with w := 16 * 2 ^ v } }, c := k.c.advance }

/-- mscale (R180). -/
def execMscale (a b : Reg) (s : State) : Out :=
  s.scalarWord .matrix fun k => do
    let (c, m) ← k.program
    let v := (k.c.get a).toNat
    let n := (k.c.get b).toInt
    if 4 ≤ v || n < -254 || 254 < n || !m.owns (BitVec.ofNat 2 v) then k.cause 0x13 else
    k.issueOp c m false (.mscale v n)

/-- mwait (R182). -/
def execMwait (s : State) : Out :=
  s.scalarWord .matrix fun k => do
    let (c, _) ← k.program
    let cl := k.st.cluster c
    if cl.fillq.isEmpty && cl.arrq.isEmpty then .ok k.done else k.wait

/-! ### The pipes -/

/-- The granules a fill operation writes. -/
def MatKind.span : MatKind → Nat × Nat
  | .mldW _ g k f sc sp => (g, granules (bCodeBytes (BitVec.ofNat 6 f) k sp + bScaleBytes k sc))
  | .mldA g _ k f sc _ _ => (g, granules (aCodeBytes (BitVec.ofNat 6 f) k + aScaleBytes k sc))
  | _ => (0, 0)

/-- A run meets a range of granules. -/
def Run.meets (r : Run) (g n : Nat) : Bool := r.granule < g + n && g < r.granule + r.count

/-- The granules that an operation touches (R170): a fill's, and those of the runs that an mma names; of an absent run its first granule. -/
def Cluster.touches (c : Cluster) (k : MatKind) : List (Nat × Nat) :=
  match k with
  | .mma _ ga gb _ _ => [ga, gb].map fun g => (g, ((c.runAt g).map (·.count)).getD 1)
  | .mldW .. | .mldA .. => [k.span]
  | _ => []

/-- Two operations of different pipes meet (R170): at a granule, or at a byte that an mst writes and a fill reads, since every operation has the
effect that it would have in issue order. -/
def State.opsMeet (s : State) (w : Who) (c : Cluster) (a b : MatKind) : Bool :=
  opSpansMeet (c.touches a) (c.touches b) ||
  match a, b with
  | .mst .., .mldW .. | .mst .., .mldA .. | .mldW .., .mst .. | .mldA .., .mst .. => opSpansMeet (s.opRanges w a) (s.opRanges w b)
  | _, _ => false

/-- The operation at the head of a pipe may begin (R170): it waits for every earlier operation of the other pipe that it meets, and for the runs of a
context that has come back (R301). -/
def State.mayBegin (s : State) (cluster : Nat) (fill : Bool) (op : MatOp) : Bool :=
  let c := s.cluster cluster
  c.refetch.isEmpty && (if fill then c.arrq else c.fillq).all fun o => op.order < o.order || !s.opsMeet (s.who (.mcc cluster)) c op.kind o.kind

/-- The head of a pipe replaced. -/
def Cluster.setHead (c : Cluster) (fill : Bool) (op : MatOp) : Cluster :=
  if fill then { c with fillq := op :: c.fillq.drop 1 } else { c with arrq := op :: c.arrq.drop 1 }
def Cluster.popHead (c : Cluster) (fill : Bool) : Cluster :=
  if fill then { c with fillq := c.fillq.drop 1 } else { c with arrq := c.arrq.drop 1 }
def Cluster.headOp (c : Cluster) (fill : Bool) : Option MatOp := (if fill then c.fillq else c.arrq).head?

/-- The time at which an operation that begins now completes, or at which row 0 of an mma is final (R178, R180); 0 where the manual states no
cycles. -/
def State.dueOf (s : State) (cluster : Nat) (op : MatOp) : Nat :=
  let c := s.cluster cluster
  match op.kind with
  | .mma j ga gb _ w => match c.runAt ga, c.runAt gb with
    | some a, some b => s.time + c.mmaCycles j a b w
    | _, _ => 0
  | .mzero _ => s.time + 8
  | .mscale .. => s.time + 136
  | _ => 0

/-- matrixOperationStart (R170, R171, R177): the head of a pipe begins. A fill destroys the runs it overlaps; an mma whose
runs are absent, of the wrong kind or no supported pair fails with cause 0x13. -/
def execMatrixOperationStart (cluster : Nat) (fill : Bool) (s : State) : Out :=
  let c := s.cluster cluster
  match c.headOp fill with
  | none => .next s
  | some op =>
    if op.started || !s.mayBegin cluster fill op then .next s else
    let go (c' : Cluster) : Out := .next (s.setCluster cluster (c'.setHead fill { op with started := true, due := s.dueOf cluster op }))
    match op.kind with
    | .mma _ ga gb _ _ =>
      match c.runAt ga, c.runAt gb with
      | some a, some b => if pairOk a b then go c else s.failOp cluster op.pc { cause := 0x13 }
      | _, _ => s.failOp cluster op.pc { cause := 0x13 }
    | .mldW .. | .mldA .. => let (g, n) := op.kind.span; go (c.destroyRuns g n)
    | _ => go c

/-- The uncorrectable error that an operation of the array pipe meets (R186): in the rows of its accumulator that it has not finished, or in a run
that it reads. -/
def State.arrayBad (s : State) (cluster : Nat) (op : MatOp) : Option Nat :=
  let acc (j : Nat) : Option Nat := s.badIn (accKey cluster (cellKey j op.rows 0)) (4 * 96 * (128 - op.rows))
  match op.kind with
  | .mma j ga gb _ _ =>
    ((acc j) :: ((s.cluster cluster).touches (.mma j ga gb false 0)).map fun x => s.badIn (larderKey cluster x.1) (4096 * x.2)).findSome? id
  | .mst j _ f .. =>
    let cell := op.rows / fmtBytes (BitVec.ofNat 6 f)
    s.badIn (accKey cluster (cellKey j (cell / 96) (cell % 96))) (4 * (12288 - cell))
  | .mscale j _ => acc j
  | _ => none

/-- One row of an mma made final (R177, R178, R179): its cells, its early promotions, and with release its chaining bit. -/
def Cluster.finishRow (c : Cluster) (op : MatOp) (j : Nat) (a b : Run) (release : Bool) (w : Nat) : Cluster × MatOp :=
  let row := op.rows
  let (c1, n) := (upFrom 0 96).foldl (fun (acc : Cluster × Nat) col =>
    let (x, p) := mmaCell a b row col w (acc.1.cell j row col)
    (acc.1.setCell j row col x, acc.2 + p.length)) (c, 0)
  let ch := Vector.ofFn fun i : Fin 4 =>
    if i.val = j then c1.chain.getD j 0 &&& ~~~((1 : BitVec 128) <<< row) else c1.chain.getD i.val 0
  let c2 : Cluster := if release then { c1 with chain := ch } else c1
  (c2, { op with rows := row + 1, promos := op.promos + n })

/-- rowFinal (R178): the next row of the mma in progress becomes final, once its cycle has come. -/
def execRowFinal (cluster : Nat) (s : State) : Out :=
  let c := s.cluster cluster
  match c.headOp false with
  | none => .next s
  | some op =>
    match op.kind with
    | .mma j ga gb release w =>
      match c.runAt ga, c.runAt gb with
      | some a, some b =>
        if !op.started || 128 ≤ op.rows || s.time < op.due + op.rows then .next s else
        if (s.arrayBad cluster op).isSome then (s.logError (accKey cluster 0)).failOp cluster op.pc { cause := 9 } else
        let (c1, op1) := c.finishRow op j a b release w
        .next (s.setCluster cluster (c1.setHead false op1))
      | _, _ => .next s
    | _ => .next s

/-- The remaining rows of an mma. -/
def Cluster.finishRows (c : Cluster) (op : MatOp) (j : Nat) (a b : Run) (release : Bool) (w : Nat) : Nat → Cluster × MatOp
  | 0 => (c, op)
  | n + 1 => let (c1, op1) := c.finishRow op j a b release w; c1.finishRows op1 j a b release w n

/-- A cell scaled by 2^n (R180). -/
def scaleCell (x : Slot) (n : Int) : Slot := (roundF32 ((f32 x).quiet.scale n) rne 0 0).1

/-- Where a byte that an mst stores lies, or what stops it (R181): a page that is not present makes it ask; anything but a scratchpad or window page
outside every region fails with cause 0x05. -/
def State.mstPlace (s : State) (w : Who) (va : Nat) : Meet Place :=
  if s.awaitsPage w va then .absent va
  else if 2 ^ 57 ≤ va then .failed 5 va 0
  else match s.leaf w.ctx va with
    | none => .absent va
    | some _ => match s.xlate w .store va with
      | .error _ => .failed 5 va 0
      | .ok p => if (p.kind != 2 && p.kind != 3) || (regionAt s.regions p.key).isSome then .failed 5 va p.key else .done p

/-- The code that an mst stores for a cell (R181): SR is taken as RNE. -/
def mstCode (fmt : BitVec 6) (vround : BitVec 5) (x : Slot) : Nat :=
  (roundTo ((fmtFloat fmt).getD fp32) (f32 x) (if vround.toNat % 8 = rsr then rne else vround.toNat % 8) (memSat vround) 0).1

/-- The address of cell i of an mst's destination. -/
def mstAddr (base stride : Nat) (fmt : BitVec 6) (i : Nat) : Nat := (base + i / 96 * stride + i % 96 * fmtBytes fmt) % 2 ^ 64

/-- The address of byte i of an mst's cells. -/
def mstByteAddr (base stride : Nat) (fmt : BitVec 6) (i : Nat) : Nat :=
  (mstAddr base stride fmt (i / fmtBytes fmt) + i % fmtBytes fmt) % 2 ^ 64

/-- Byte i of the cells that an mst stores. -/
def Cluster.mstByte (c : Cluster) (j : Nat) (fmt : BitVec 6) (vround : BitVec 5) (i : Nat) : Byte :=
  let cell := i / fmtBytes fmt
  nthD 0 (leBytes (fmtBytes fmt) (mstCode fmt vround (c.cell j (cell / 96) (cell % 96)))) (i % fmtBytes fmt)

/-- The remaining bytes of an mst written, n of them from byte i on (R181): the byte reached, and what stopped it there. A page that is not present
stops it at the page's first byte, so that every aligned 16-byte piece is written whole. -/
def State.storeCells (s : State) (w : Who) (c : Cluster) (j base : Nat) (fmt : BitVec 6) (stride : Nat) (vround : BitVec 5) :
    Nat → Nat → State × Nat × Option (Meet Unit)
  | 0, i => (s, i, none)
  | n + 1, i =>
    let va := mstByteAddr base stride fmt i
    match s.mstPlace w va with
    | .absent v => (s, i, some (.absent v))
    | .failed a b k => (s, i, some (.failed a b k))
    | .done p => ((s.touch w.ctx va).pokeBy w.ctx p.key [c.mstByte j fmt vround i]).storeCells w c j base fmt stride vround n (i + 1)

/-- The bytes of an mst's cells. -/
def mstBytes (fmt : BitVec 6) : Nat := 12288 * fmtBytes fmt

/-- A B image's sparse position nibbles that are not in order (R173). -/
def badSparse (fmt : BitVec 6) (k : Nat) (codes : List Byte) : Bool :=
  let n := 192 * fmtBits fmt / 8
  (upFrom 0 (k / 4)).any fun g => (upFrom 0 96).any fun c =>
    let pos := codeAt 3 ((codes.drop (g * (n + 48) + n)).take 48) c
    pos / 4 ≤ pos % 4

/-- The bytes that a fill reads: codes, then scales (R173, R174). -/
def State.fillBytes (s : State) (w : Who) : MatKind → Meet (List Byte)
  | .mldW va _ k f sc sp =>
    let n := bCodeBytes (BitVec.ofNat 6 f) k sp + bScaleBytes k sc
    s.engineBytes w false (n / 4096 + 2) (va + 64) n
  | .mldA _ base k f sc stride sbase =>
    let scales := if sc then s.engineBytes w true (aScaleBytes k sc / 4096 + 2) sbase (aScaleBytes k sc) else .done []
    (match s.engineRows w base stride (k * fmtBits (BitVec.ofNat 6 f) / 8) 128, scales with
      | .done a, .done b => .done (a ++ b)
      | .done _, x => x
      | x, _ => x)
  | _ => .done []

/-- The run that a fill makes of its bytes; none: the positions of a sparse image are not in order (R173). -/
def MatKind.run (kind : MatKind) (w : Who) (bs : List Byte) : Option Run :=
  match kind with
  | .mldW va g k f sc sp =>
    let nc := bCodeBytes (BitVec.ofNat 6 f) k sp
    if sp && badSparse (BitVec.ofNat 6 f) k (bs.take nc) then none
    else some ⟨g, granules (nc + bScaleBytes k sc), false, f, sc, sp, k, va, kind, w.ctx, w.kid, bs.take nc, bs.drop nc⟩
  | .mldA g base k f sc _ _ =>
    let na := aCodeBytes (BitVec.ofNat 6 f) k
    some ⟨g, granules (na + aScaleBytes k sc), true, f, sc, false, k, base, kind, w.ctx, w.kid, bs.take na, bs.drop na⟩
  | _ => none

/-- The outcome of an engine's read for the operation at the head of the fill pipe: its run enters the Larder. count: the state with the
requests counted that its blocks before an address have sent. -/
def State.fillDone (s : State) (cluster : Nat) (op : MatOp) (count : Option Nat → State) : Out :=
  let w := s.pipeWho cluster true
  match s.fillBytes w op.kind with
  | .absent va => .next (s.pageAsk w va (accessField 9 0 0 false))
  | .failed e va k =>
    let u := count (some va)
    (if e = 9 then u.logError k else u).failOp cluster op.pc { cause := e, addr := va, access := accessField 9 0 0 false }
  | .done bs =>
    let u := count none
    match op.kind.run w bs with
    | none => u.failOp cluster op.pc { cause := 0x13 }
    | some run =>
      let c := u.cluster cluster
      .next (u.setCluster cluster ({ c with larder := c.larder ++ [run] }.popHead true))

/-- A cluster's next run of a context that has come back is fetched again (R175, R301). An error of its source is a kernel fault as an error
of its fill is (DEDUCED, log 20). -/
def State.refetchRun (s : State) (cluster : Nat) : Out :=
  let c := s.cluster cluster
  match c.refetch with
  | [] => .next s
  | r :: rest =>
    let w : Who := ⟨r.ctx, some cluster, clusterDie cluster, false, r.kid, 0xFFFFFFFF, [], 1⟩
    let failed (t : State) (e va : Nat) : Out :=
      .next ((t.faultPutTrap ⟨5, r.ctx, clusterDie cluster, cluster, r.kid, 0xFFFFFFFF, 0, 0⟩
        { cause := e, addr := va, access := accessField 9 0 0 false } 4).killKernel r.ctx r.kid 3 e)
    match s.fillBytes w r.kind with
    | .absent va => .next (s.pageAsk w va (accessField 9 0 0 false))
    | .failed e va k => failed (if e = 9 then s.logError k else s) e va
    | .done bs => match r.kind.run w bs with
      | none => failed s 0x13 r.src
      | some run => .next (s.setCluster cluster { c with larder := c.larder ++ [run], refetch := rest })

/-- The requests of an image's working pages, one a distinct block, sent once by the one access that reads it (R149). -/
def State.countRange (s : State) (p : Party) (va n : Nat) : State :=
  let w := s.who p
  let ps := (upFrom (va / 64) ((va + n + 63) / 64 - va / 64)).filterMap fun b => match s.xlate w .load (64 * b) with
    | .ok q => some q
    | .error _ => none
  s.countFor p (countReqs w.die ps)

/-- The time before which an operation of the array pipe does not complete (R178, R180): of an mma that of its last row; 0 where the manual states
none. -/
def MatOp.ends (op : MatOp) : Nat :=
  match op.kind with
  | .mma .. => op.due + 127
  | _ => op.due

/-- matrixOperationComplete (R178, R180, R181): the operation in progress at the head of a pipe completes with its whole
effect, waits on a page, or fails; early promotions are added to MPROMO (R185). -/
def execMatrixOperationComplete (cluster : Nat) (fill : Bool) (s : State) : Out :=
  let c := s.cluster cluster
  let w := s.pipeWho cluster fill
  match c.headOp fill with
  | none => .next s
  | some op =>
    if !op.started || (!fill && s.time < op.ends) then .next s else
    if !fill && (s.arrayBad cluster op).isSome then (s.logError (accKey cluster 0)).failOp cluster op.pc { cause := 9 } else
    match op.kind with
    | .mldW va _ k f sc sp =>
      let n := bCodeBytes (BitVec.ofNat 6 f) k sp + bScaleBytes k sc
      s.fillDone cluster op fun stop => s.countRange (.mcc cluster) va (match stop with
        | some v => v - va
        | none => 64 + n)
    | .mldA .. => s.fillDone cluster op fun _ => s
    | .mma j ga gb release win =>
      match c.runAt ga, c.runAt gb with
      | some a, some b =>
        let (c1, op1) := c.finishRows op j a b release win (128 - op.rows)
        let s1 := s.setCluster cluster (c1.popHead false)
        let slot := (s.ownerSlot (.mcc cluster)).getD 0
        .next (match s1.hart slot with
          | some h => s1.setHart slot { h with mpromo := h.mpromo + BitVec.ofNat 64 op1.promos }
          | none => s1)
      | _, _ => s.failOp cluster op.pc { cause := 0x13 }
    | .mzero j => .next (s.setCluster cluster ({ c with acc := c.acc.filter fun e => e.1 / 12288 != j }.popHead false))
    | .mscale j n =>
      let c1 := (c.acc.filter fun e => e.1 / 12288 == j).foldl (fun t e =>
        t.setCell j (e.1 % 12288 / 96) (e.1 % 96) (scaleCell e.2 n)) c
      .next (s.setCluster cluster (c1.popHead false))
    | .mst j base f stride vround =>
      let fmt : BitVec 6 := BitVec.ofNat 6 f
      match s.storeCells w c j base fmt stride vround (mstBytes fmt - op.rows) op.rows with
      | (t, _, none) => .next (t.setCluster cluster ((t.cluster cluster).popHead false))
      | (t, i, some (.absent va)) =>
        .next ((t.setCluster cluster ((t.cluster cluster).setHead false { op with rows := i })).pageAsk w va (accessField 2 0 f false))
      | (t, _, some (.failed e va _)) => t.failOp cluster op.pc { cause := e, addr := va, access := accessField 2 0 f false }
      | (t, _, some (.done ())) => .next t

end Sys2Proof.Machine
end

