-- ==== Sys2Proof/Machine/ScalarMem.lean ====
section
/-! DEFINITION. Scalar loads and stores, atomics, the class fence and waitm (R110 to R112, R117, R222, R223, R225). -/
namespace Sys2Proof.Machine

/-! ### Loads and stores (R110, R111) -/

/-- A scalar effective address (R110): the base plus the signed offset scaled by the size. -/
def scalarEa (base : Word) (n : Nat) (off : BitVec 9) : Nat := (base + BitVec.ofNat 64 n * off.signExtend 64).toNat

/-- A read that an uncorrectable block stops has sent its requests (R149). -/
def Ctx.readStopped (k : Ctx) (w : Who) (va n : Nat) (t : Trap) : Ctx :=
  if t.cause != 9 then k else
  match k.st.xlatePieces w .load 0 0 (pieces va n) with
  | .ok pl => { k with st := k.st.countFor k.p (countReqs w.die (pl.map (·.1))) }
  | .error _ => k

/-- A load of n bytes; ext gives the register its value. -/
def loadWord (n : Nat) (ext : Nat → Word) (d base : Reg) (cls : BitVec 4) (off : BitVec 9) (s : State) : Out :=
  s.scalarWord .common fun k => do
    k.need [d] [base]
    if k.memBusy false cls.toNat (scalarEa (k.c.get base) n off) n || k.st.engineAwaits k.p (scalarEa (k.c.get base) n off) n then k.wait else
    let w := k.st.who k.p
    match k.st.load w 1 cls.toNat (scalarEa (k.c.get base) n off) n with
    | (s1, .error t) => (({ k with st := s1 } : Ctx).readStopped w (scalarEa (k.c.get base) n off) n t).engineTrap t
    | (s1, .ok (v, ps)) => .ok { k with st := s1.countFor k.p (countReqs w.die ps), c := (k.c.set d (ext v)).advance }

/-- The form of a scalar store of n bytes at an address, as SUM admits it (R213). -/
def storeForm (n va : Nat) : StoreForm := if n = 4 ∧ va % 4 = 0 then .word4 else .other

/-- A store of the low n bytes of a register. -/
def storeWord (n : Nat) (src base : Reg) (cls : BitVec 4) (off : BitVec 9) (s : State) : Out :=
  s.scalarWord .common fun k => do
    k.need [] [src, base]
    if k.memBusy true cls.toNat (scalarEa (k.c.get base) n off) n || k.st.engineAwaits k.p (scalarEa (k.c.get base) n off) n then k.wait else
    let w := k.st.who k.p
    match k.st.store w 2 cls.toNat (scalarEa (k.c.get base) n off) n (k.c.get src).toNat (storeForm n (scalarEa (k.c.get base) n off)) with
    | (s1, .error t) => ({ k with st := s1 } : Ctx).engineTrap t
    | (s1, .ok ps) => .ok { k with st := s1.countFor k.p (countReqs w.die ps), c := k.c.advance }

/-- A number of n bits, sign- or zero-extended. -/
def signed (n v : Nat) : Word := (BitVec.ofNat n v).signExtend 64
def unsigned (v : Nat) : Word := BitVec.ofNat 64 v

/-- The first piece of an access of two pieces of a vector hart performed alone, as its second follows in a later turn (R111, R234, R261): of a
load (n bytes, its register and how it extends) or a store of a register. Only an access that completes as exec performs it, of two pieces and
outside every plane region (R211), is cut so; otherwise none. -/
def State.firstPiece (s : State) (slot : Nat) (store : Bool) (n bits : Nat) (sign : Bool) (r base : Reg) (cls : BitVec 4) (off : BitVec 9) :
    Option State :=
  match s.hart slot with
  | none => none
  | some h =>
    let k : Ctx := ⟨s, .vec slot, h.sc⟩
    let va := scalarEa (h.sc.get base) n off
    let w := s.who k.p
    let ps := pieces va n
    if h.half.isSome || (if store then k.readBusy r else k.regBusy r) || k.readBusy base || k.memBusy store cls.toNat va n || ps.length != 2 then none else
    match s.xlatePieces w (if store then .store else .load) 0 cls.toNat ps with
    | .error _ => none
    | .ok pl =>
      if pl.any fun p => (regionAt s.regions p.1.key).isSome then none else
      let whole := if store then (match s.store w 2 cls.toNat va n (h.sc.get r).toNat .other with
          | (t, .ok _) => some t
          | _ => none)
        else (match s.load w 1 cls.toNat va n with
          | (t, .ok _) => some t
          | _ => none)
      match whole, pl with
      | some _, [(p, m), (q, m2)] =>
        let s1 := s.touchAll w.ctx ps
        let bytes := leBytes n (h.sc.get r).toNat
        let x : Half := ⟨store, q, m2, if store then bytes.drop m else s.peek p.key m, r, bits, sign, va, cls.toNat, countReqs w.die [p, q],
          (ps.filterMap fun y => s.pinAt h.ctx y.1 false).eraseDups⟩
        some ((if store then s1.pokeBy h.ctx p.key (bytes.take m) else s1).setHart slot { h with half := some x })
      | _, _ => none

/-- The first piece of a scalar load or store, for a word that is one. -/
def State.beginHalf (s : State) (slot : Nat) (i : Instr) : Option State :=
  match i with
  | .ldB d b c o => s.firstPiece slot false 1 8 true d b c o
  | .ldH d b c o => s.firstPiece slot false 2 16 true d b c o
  | .ldW d b c o => s.firstPiece slot false 4 32 true d b c o
  | .ldBn d b c o => s.firstPiece slot false 1 8 false d b c o
  | .ldHn d b c o => s.firstPiece slot false 2 16 false d b c o
  | .ldWn d b c o => s.firstPiece slot false 4 32 false d b c o
  | .ldD d b c o => s.firstPiece slot false 8 64 false d b c o
  | .stB x b c o => s.firstPiece slot true 1 8 false x b c o
  | .stH x b c o => s.firstPiece slot true 2 16 false x b c o
  | .stW x b c o => s.firstPiece slot true 4 32 false x b c o
  | .stD x b c o => s.firstPiece slot true 8 64 false x b c o
  | _ => none

/-- ld.b (R110). -/
def execLdB (d base : Reg) (cls : BitVec 4) (off : BitVec 9) (s : State) : Out := loadWord 1 (signed 8) d base cls off s

/-- ld.h (R110). -/
def execLdH (d base : Reg) (cls : BitVec 4) (off : BitVec 9) (s : State) : Out := loadWord 2 (signed 16) d base cls off s

/-- ld.w (R110). -/
def execLdW (d base : Reg) (cls : BitVec 4) (off : BitVec 9) (s : State) : Out := loadWord 4 (signed 32) d base cls off s

/-- ld.bn (R110). -/
def execLdBn (d base : Reg) (cls : BitVec 4) (off : BitVec 9) (s : State) : Out := loadWord 1 unsigned d base cls off s

/-- ld.hn (R110). -/
def execLdHn (d base : Reg) (cls : BitVec 4) (off : BitVec 9) (s : State) : Out := loadWord 2 unsigned d base cls off s

/-- ld.wn (R110). -/
def execLdWn (d base : Reg) (cls : BitVec 4) (off : BitVec 9) (s : State) : Out := loadWord 4 unsigned d base cls off s

/-- ld.d (R110). -/
def execLdD (d base : Reg) (cls : BitVec 4) (off : BitVec 9) (s : State) : Out := loadWord 8 unsigned d base cls off s

/-- st.b (R110). -/
def execStB (src base : Reg) (cls : BitVec 4) (off : BitVec 9) (s : State) : Out := storeWord 1 src base cls off s

/-- st.h (R110). -/
def execStH (src base : Reg) (cls : BitVec 4) (off : BitVec 9) (s : State) : Out := storeWord 2 src base cls off s

/-- st.w (R110). -/
def execStW (src base : Reg) (cls : BitVec 4) (off : BitVec 9) (s : State) : Out := storeWord 4 src base cls off s

/-- st.d (R110). -/
def execStD (src base : Reg) (cls : BitVec 4) (off : BitVec 9) (s : State) : Out := storeWord 8 src base cls off s

/-! ### Atomics (R222, R223) -/

/-- The narrowest scope that covers a place, for an accessor (R222). -/
def narrowest (w : Who) (p : Place) : Nat :=
  match p.kind with
  | 2 | 3 => if w.cluster == some p.home then 0 else if clusterDie p.home == w.die then 2 else 3
  | 4 => 5
  | 5 => 4
  | _ => if p.home == w.die then 2 else 3

/-- The new value of an atomic on bits of width n: old, operand, compare. -/
def amoValue (op : Nat) {n : Nat} (old b cmp : BitVec n) : BitVec n :=
  match op with
  | 0 => old + b
  | 1 => old &&& b
  | 2 => old ||| b
  | 3 => old ^^^ b
  | 4 => if old.slt b then old else b
  | 5 => if old.slt b then b else old
  | 6 => if old.ult b then old else b
  | 7 => if old.ult b then b else old
  | 8 => b
  | _ => if old == cmp then b else old

/-- A widened scalar atomic counts in SCOPEMISS (R223). -/
def State.countMiss (s : State) (p : Party) : State :=
  match p with
  | .vec slot => match s.hart slot with
    | some h => s.setHart slot { h with missCount := h.missCount + 1 }
    | none => s
  | .scc d => s.setDie d { s.die d with missCount := (s.die d).missCount + 1 }
  | _ => s

/-- The place of an atomic or a waitm load of n bytes at an address, or its trap: misaligned, then unmapped, then what
translation and the page kind give. -/
def Ctx.lockPlace (k : Ctx) (u : Use) (kind cls va n : Nat) : Res Place :=
  let tr (c : Nat) : Trap := { cause := c, addr := va, access := accessField kind cls 0 false }
  if va % n != 0 then k.trap (tr 3)
  else if 2 ^ 57 ≤ va then k.trap (tr 4)
  else match k.st.xlate (k.st.who k.p) u va with
    | .error c => k.trap (tr c)
    | .ok p => .ok p

/-- An amo (R223): one indivisible read-modify-write. -/
def amoWord (op : Nat) (d a b : Reg) (f : AmoForm) (s : State) : Out :=
  s.scalarWord .amo fun k => do
    k.need [d] [a, b]
    let n := if f.double then 8 else 4
    let va := (k.c.get a).toNat
    if k.memBusy true 15 va n then k.wait else
    let p ← k.lockPlace .atomic 3 15 va n
    let w := k.st.who k.p
    let s1 := k.st.touch w.ctx va
    let tr (c : Nat) : Trap := { cause := c, addr := va, access := accessField 3 15 0 false }
    match k.st.readError [(p, n)] with
    | some (c, key) => .error (if c == 9 then (s1.logError key).countFor k.p (countReqs w.die [p]) else s1, .trap (tr c))
    | none =>
      let k1 ← ({ k with st := s1 } : Ctx).sync 1 none
      let old := k1.st.peekNat p.key n
      let (v, r) : Nat × Word :=
        if f.double then
          (amoValue op (BitVec.ofNat 64 old) (k.c.get b) (k.c.get d) |>.toNat, BitVec.ofNat 64 old)
        else
          (amoValue op (BitVec.ofNat 32 old) ((k.c.get b).setWidth 32) ((k.c.get d).setWidth 32) |>.toNat, signed 32 old)
      let s2 := (k1.st.pokeBy w.ctx p.key (leBytes n v)).countFor k.p (countReqs w.die [p])
      let s3 := if f.scope.toNat < narrowest w p then s2.countMiss k.p else s2
      .ok { k1 with st := s3, c := (k.c.set d r).advance }

/-- amo.add (R223). -/
def execAmoAdd (d a b : Reg) (f : AmoForm) (s : State) : Out := amoWord 0 d a b f s

/-- amo.and (R223). -/
def execAmoAnd (d a b : Reg) (f : AmoForm) (s : State) : Out := amoWord 1 d a b f s

/-- amo.or (R223). -/
def execAmoOr (d a b : Reg) (f : AmoForm) (s : State) : Out := amoWord 2 d a b f s

/-- amo.xor (R223). -/
def execAmoXor (d a b : Reg) (f : AmoForm) (s : State) : Out := amoWord 3 d a b f s

/-- amo.min (R223): signed. -/
def execAmoMin (d a b : Reg) (f : AmoForm) (s : State) : Out := amoWord 4 d a b f s

/-- amo.max (R223): signed. -/
def execAmoMax (d a b : Reg) (f : AmoForm) (s : State) : Out := amoWord 5 d a b f s

/-- amo.minn (R223): unsigned. -/
def execAmoMinn (d a b : Reg) (f : AmoForm) (s : State) : Out := amoWord 6 d a b f s

/-- amo.maxn (R223): unsigned. -/
def execAmoMaxn (d a b : Reg) (f : AmoForm) (s : State) : Out := amoWord 7 d a b f s

/-- amo.swap (R223). -/
def execAmoSwap (d a b : Reg) (f : AmoForm) (s : State) : Out := amoWord 8 d a b f s

/-- amo.cas (R223): compares with the old d. -/
def execAmoCas (d a b : Reg) (f : AmoForm) (s : State) : Out := amoWord 9 d a b f s

/-! ### Fence and wait -/

/-- A fence that the hart has passed stands for the accesses that follow it, while a block handed over before it is left (R225). -/
def Hart.fence (h : Hart) (classes : BitVec 16) : Hart :=
  if h.blocks.isEmpty then { h with fences := [] } else
  { h with fences := (h.fences.filter fun f => h.blocks.any fun b => b.seq < f.1) ++ [(h.blockSeq, classes)] }

/-- fence.c (R225): waits for the elements of earlier vector words of the classes in the mask and of class 15, but not for queries, behind which
the later accesses of those classes wait. A scalar access takes effect when it is performed, so nothing of the scalar stream is outstanding (log 4). -/
def execFenceC (_scope : BitVec 3) (classes : BitVec 16) (s : State) : Out :=
  s.scalarWord .common fun k =>
    match k.p with
    | .vec slot => match k.st.hart slot with
      | some h =>
        if k.st.pendingAny slot h fun u => match u.cls with
            | some c => !u.query && (c == 15 || classes.getLsbD c)
            | none => false
        then k.wait else .ok { k with st := k.st.setHart slot (h.fence classes), c := k.c.advance }
      | none => .ok k.done
    | _ => .ok k.done

/-- waitm (R117): loads the doubleword and ends with the value when it differs from b; else the hart waits. The load counts
a request (R149) when it is first made, after each wake, and when it ends the wait (log 17). -/
def execWaitm (d a b : Reg) (cls : BitVec 4) (s : State) : Out :=
  s.scalarWord .waitm fun k => do
    k.need [d] [a, b]
    let va := (k.c.get a).toNat
    if k.memBusy false cls.toNat va 8 then k.wait else
    let p ← k.lockPlace .load 1 cls.toNat va 8
    let w := k.st.who k.p
    let tr (c : Nat) : Trap := { cause := c, addr := va, access := accessField 1 cls.toNat 0 false }
    if p.kind == 5 then k.trap (tr 5) else
    let s1 := k.st.touch w.ctx va
    match k.st.readError [(p, 8)] with
    | some (c, key) => .error (if c == 9 then (s1.logError key).countFor k.p (countReqs w.die [p]) else s1, .trap (tr c))
    | none =>
      let v : Word := BitVec.ofNat 64 (k.st.peekNat p.key 8)
      let asleep := match k.p with
        | .vec slot => ((k.st.hart slot).map (·.waiting)).getD false
        | _ => false
      let s2 := if asleep && v == k.c.get b then s1 else s1.countFor k.p (countReqs w.die [p])
      if v == k.c.get b then .error (s2, .wait) else
      let k1 ← ({ k with st := s2 } : Ctx).sync 9 none
      .ok { k1 with c := (k.c.set d v).advance }

/-- waitmWake (R117): a hart that waits is made runnable, so that its next turn performs its word again from the load; a
hart that does not wait is as before. -/
def execWaitmWake (slot : Nat) (s : State) : Out :=
  match s.hart slot with
  | some h =>
    match h.state with
    | .running => .next (s.setHart slot { h with waiting := false })
    | _ => .next s
  | none => .next s

end Sys2Proof.Machine
end

