-- ==== Sys2Proof/Machine/BfFun.lean ====
section
/-! DEFINITION. The functions of R125 on BF16 values. A result that no finite number of bits holds is given to 512 bits of fixed
point with a last bit that stands for what remains; log 24 says why every rounding of it is that of the exact value. -/
namespace Sys2Proof.Machine

/-- Fractional bits of the fixed-point numbers here, and 1 in them. -/
def fixBits : Nat := 512
def fixOne : Nat := 2 ^ 256 * 2 ^ 256

/-- 2 times the sum of t^(2k+1) / (2k+1) for n terms: p holds t^(2k+1) and t2 holds t^2, in fixed point. -/
def atanhGo (t2 : Nat) : Nat → Nat → Nat → Nat → Nat
  | 0, _, _, acc => 2 * acc
  | n + 1, k, p, acc => atanhGo t2 n (k + 1) (p * t2 / fixOne) (acc + p / (2 * k + 1))

/-- ln of num / den, a value from 1 to 2: twice atanh of (num - den) / (num + den). -/
def lnFix (num den : Nat) : Nat :=
  let t := (num - den) * fixOne / (num + den)
  atanhGo (t * t / fixOne) 170 0 t 0

/-- The sum of y^n / n! from a term on. -/
def expGo (y : Int) : Nat → Nat → Int → Int → Int
  | 0, _, _, acc => acc
  | m + 1, n, term, acc => expGo y m (n + 1) (term * y / ((n + 1 : Nat) : Int) / fixOne) (acc + term)

/-- exp of a fixed-point number of magnitude below 1. -/
def expFix (y : Int) : Int := expGo y 110 0 (fixOne) 0

/-- m 2^e in fixed point, rounded down. -/
def toFix (m : Nat) (e : Int) : Nat :=
  let k := e + (fixBits : Int)
  if 0 ≤ k then m * 2 ^ k.toNat else m / 2 ^ (-k).toNat

/-- A positive fixed-point magnitude that is not exact, with its last bit (log 24). -/
def inexact (neg : Bool) (n : Nat) (e : Int) : Num := .fin neg (2 * n + 1) (e - (fixBits : Int) - 1)

/-- The integer that an exact finite value is, if it is one. -/
def intOf (neg : Bool) (m : Nat) (e : Int) : Option Int :=
  let r := roundInt neg m e rtz 0
  if r.2 then none else some r.1

/-- 2^a (R125). -/
def exp2Num (x : Num) : Num × Flags :=
  match nanOf [x] with
  | some r => r
  | none =>
    match x with
    | .inf s => (if s then .fin false 0 0 else .inf false, 0)
    | .fin s m e =>
      let lim : Int := 2 ^ 13
      let n := floorNum s m e
      if lim ≤ n then (.fin false 1 lim, 0)
      else if n < -lim then (.fin false 1 (-lim), 0)
      else match intOf s m e with
        | some k => (.fin false 1 k, 0)
        | none =>
          let f : Int := if s then (fixOne : Int) * (-n) - (toFix m e : Int) else (toFix m e : Int) - (fixOne : Int) * n
          (inexact false (expFix (f * (lnFix 2 1 : Int) / fixOne)).toNat n, 0)
    | y => (y, 0)

/-- log2 a (R125). -/
def log2Num (x : Num) : Num × Flags :=
  match nanOf [x] with
  | some r => r
  | none =>
    match x with
    | .inf s => if s then (Num.canon, flagNV) else (.inf false, 0)
    | .fin s m e =>
      if m = 0 then (.inf true, flagDZ)
      else if s then (Num.canon, flagNV)
      else
        let lg := m.log2
        let whole : Int := (lg : Int) + e
        if m = 2 ^ lg then (Num.ofInt whole 0 false, 0) else
        let v : Int := whole * fixOne + ((lnFix m (2 ^ lg) * fixOne / lnFix 2 1 : Nat) : Int)
        (inexact (v < 0) v.natAbs 0, 0)
    | y => (y, 0)

/-- 1 / a (R125). -/
def rcpNum (x : Num) : Num × Flags := divNum (.fin false 1 0) x

/-- 1 / sqrt a (R125). -/
def rsqrtNum (x : Num) : Num × Flags :=
  match nanOf [x] with
  | some r => r
  | none =>
    match x with
    | .inf s => if s then (Num.canon, flagNV) else (.fin false 0 0, 0)
    | .fin s m e =>
      if m = 0 then (.inf s, flagDZ)
      else if s then (Num.canon, flagNV)
      else
        let odd : Nat := (e % 2).toNat
        let a := fixOne * 2 ^ 128 / (m * 2 ^ odd)
        let r := isqrt a
        (.fin false (2 * r + (if r * r * (m * 2 ^ odd) = fixOne * 2 ^ 128 then 0 else 1)) (-(e - odd) / 2 - 320 - 1), 0)
    | y => (y, 0)

/-- A fixed-point number below 1 squared n times. -/
def squareFix : Nat → Nat → Nat
  | 0, q => q
  | n + 1, q => squareFix n (q * q / fixOne)

/-- tanh a (R125): (1 - q) / (1 + q) with q = exp(-2|a|); close to 0 it lies just inside a, far out just inside 1. -/
def tanhNum (x : Num) : Num × Flags :=
  match nanOf [x] with
  | some r => r
  | none =>
    match x with
    | .inf s => (.fin s 1 0, 0)
    | .fin s m e =>
      if m = 0 then (.fin s 0 0, 0)
      else
        let lg : Int := (m.log2 : Int) + e
        if lg < -60 then (.fin s (m * 2 ^ 100 - 1) (e - 100), 0)
        else if 6 ≤ lg then (.fin s (2 ^ 180 - 1) (-180), 0)
        else
          let q := squareFix 8 (expFix (-(toFix m (e + 1 - 8) : Int))).toNat
          (inexact s ((fixOne - q) * fixOne / (fixOne + q)) 0, 0)
    | y => (y, 0)

end Sys2Proof.Machine
end

