-- ==== Sys2Proof/Machine/Flags.lean ====
section
/-! DEFINITION. The sticky flags and their trap enables (R42, R43), the exception indicator, comparisons, minima and
classes with the flags each raises (R107, R108, R123, R124, R128, R131). -/
namespace Sys2Proof.Machine

/-- FFLAGS holds the trap enables in bits 9:5 and the flags in bits 4:0 (register bits 12:8 and 4:0, R43). -/
def trapEnables (f : BitVec 10) : Flags := f.extractLsb' 5 5
def stickyFlags (f : BitVec 10) : Flags := f.extractLsb' 0 5

/-- A raised flag has its trap enable set (R42). -/
def flagTraps (f : BitVec 10) (fl : Flags) : Bool := (trapEnables f &&& fl) != 0

/-- The flags ORed in (R42). -/
def orFlags (f : BitVec 10) (fl : Flags) : BitVec 10 := f ||| fl.setWidth 10

/-- FFLAGS as its register (R43). -/
def fflagsWord (f : BitVec 10) : Word := ((trapEnables f).setWidth 64 <<< 8) ||| (stickyFlags f).setWidth 64

/-- FFLAGS from a written value (R43). -/
def fflagsOf (v : Word) : BitVec 10 := (v.extractLsb' 8 5) ++ (v.extractLsb' 0 5)

/-- The exception indicator of an element: NV, DZ, OF or UF (R42). -/
def indicator (fl : Flags) : Bool := (fl &&& 0x1E) != 0

/-- The flags of a comparison: NV for any NaN when the relation is ordered, else for a signalling NaN (R108, R131). -/
def cmpFlags (ordered : Bool) (x y : Num) : Flags :=
  if x.isSNaN || y.isSNaN || (ordered && (x.isNaN || y.isNaN)) then flagNV else 0

/-- x is less than y with -0 below +0, neither a NaN (R107, R123). -/
def ltZero (x y : Num) : Bool :=
  ltNum x y || (eqNum x y && (match x, y with
    | .fin s _ _, .fin t _ _ => s && !t
    | _, _ => false))

/-- The smaller or the larger of two slots under a decoder, unrounded; NaNs by R41 (R107, R123, R124). encode gives a NaN
its slot. -/
def minMax (max : Bool) (dec : Slot → Num) (quiet : Num → Slot) (a b : Slot) : Slot × Flags :=
  match nanOf [dec a, dec b] with
  | some (n, fl) => (quiet n, fl)
  | none => (if max then (if ltZero (dec a) (dec b) then b else a) else (if ltZero (dec b) (dec a) then b else a), 0)

/-- The class bit of an f32 slot (R128). -/
def classBit (x : Slot) : Nat :=
  let neg := x.getLsbD 31
  let e := x.toNat / 2 ^ 23 % 256
  let f := x.toNat % 2 ^ 23
  if e = 255 then (if f = 0 then (if neg then 0 else 7) else if f.testBit 22 then 9 else 8)
  else if e = 0 then (if f = 0 then (if neg then 3 else 4) else (if neg then 2 else 5))
  else (if neg then 1 else 6)

/-- Convert to an integer in a range with saturation values (R108, R127): lo, hi bound the range; onLo, onHi, onNaN are the
results outside it. -/
def toIntSat (x : Num) (mode rnd : Nat) (lo hi onLo onHi onNaN : Int) : Int × Flags :=
  match x with
  | .nan .. => (onNaN, flagNV)
  | .inf s => (if s then onLo else onHi, flagNV)
  | .fin s m e =>
    let (v, inexact) := roundInt s m e mode rnd
    if v < lo then (onLo, flagNV) else if hi < v then (onHi, flagNV) else (v, if inexact then flagNX else 0)

end Sys2Proof.Machine
end

