-- ==== Sys2Proof/Machine/Convoy.lean ====
section
/-! DEFINITION. Convoys: how the members of one convoy issue, probe, commit element by element on one front, stop and
resume (R60 to R73, R95, R120 to R122, R134, R135, R151, R235, R263, R264). A word's own part is a `Sem`. A convoy runs whole in one step,
or a run of its fronts (log 10). -/
namespace Sys2Proof.Machine

/-- Why a vector word goes no further: it waits, its turn ends inside (log 10), a replay holds its next synchronising event back (R355), it traps (bad:
the place of the uncorrectable block it met), the replay of its context has diverged (R355), or a query met an uncorrectable Cellar block (R207). -/
inductive VStop where
  | wait
  | pause
  | gate
  | trap (t : Trap) (bad : Option Place)
  | diverge (s : State)
  | cellar (stack pa : Nat)
  deriving DecidableEq, Repr

/-- A result that may stop. -/
abbrev VRes (α : Type) := Except VStop α

/-- The hart of a convoy in execution, apart from the rest of the state. stash: the values of the block that a block-4 store is
gathering; sent: the requests counted, by member and 64-byte block; ahead: the reads performed before their elements commit; src: the hart as the
turn's first front found it. -/
structure VC where
  st    : State
  slot  : Nat
  h     : Hart
  stash : List (Option Slot)
  sent  : List (Nat × Nat)
  ahead : List Ahead
  src   : Hart
  deriving DecidableEq, Repr

/-- Where a word stands in its convoy: its number, its block's number, its address, its environment, the VL it runs under, its issue
index, whether a later member reads or writes what it writes, whether it performs nothing (R154), the words of plane regions that it claimed at its
probe (R211), the pins that its probe took (R328), and the bytes it may touch, as addresses and lengths. -/
structure VW where
  no      : Nat
  seq     : Nat
  addr    : Word
  env     : BlockEnv
  vl      : Nat
  start   : Nat
  chained : Bool
  idle    : Bool
  claims  : Extra
  pins    : List Pin
  spans   : List (Nat × Nat)
  deriving DecidableEq, Repr

/-- A word's own part in a convoy: what it names, its mask field, how many times it passes its elements (R254), the checks at its
issue that stand before the empty-register trap and those after it, its probe, which answers the VL it leaves, the commit of one element, what
completion adds, and whether a front may stand before an element (R263). Of a word that reads memory: the reads of some of its elements
performed early (all: those of inactive elements too), and the elements that share a piece with the one before an element (R145). idle: it performs nothing
(R154); claims: the words its probe has claimed (R211); touches: the addresses, with their bytes, that an element touches (R72, R328); perm: the places of a
vldseg (R155). -/
structure Sem where
  use    : WordUse
  mask   : BitVec 5
  times  : Nat := 1
  early  : VC → VW → VRes Unit := fun _ _ => .ok ()
  issue  : VC → VW → VRes Unit := fun _ _ => .ok ()
  probe  : VC → VW → VRes Nat := fun _ w => .ok w.vl
  elem   : VC → VW → Nat → VRes VC
  finish : VC → VW → VC := fun k _ => k
  piece  : VC → VW → Nat → Bool := fun _ _ _ => true
  fetch  : VC → VW → Bool → List Nat → VC := fun k _ _ _ => k
  sharing : VC → VW → Nat → List Nat := fun _ _ _ => []
  idle   : VC → VW → Bool := fun _ _ => false
  claims : VC → VW → Extra := fun _ _ => []
  touches : VC → VW → Nat → List (Nat × Nat) := fun _ _ _ => []
  perm   : List Nat := []

/-! ### Operands -/

def VC.who (k : VC) : Who := k.h.who k.slot
def vtrap {α : Type} (t : Trap) : VRes α := .error (.trap t none)
def vcause {α : Type} (c : Nat) : VRes α := .error (.trap { cause := c } none)

/-- An element is active (R62). -/
def VC.active (k : VC) (w : VW) (m : BitVec 5) (i : Nat) : Bool := i < w.vl && k.h.selects m i

/-- The active elements from the issue index on. -/
def VC.actives (k : VC) (w : VW) (m : BitVec 5) : List Nat :=
  (upFrom w.start (w.vl - w.start)).filter fun i => k.h.selects m i

/-- The active elements from 0 on, as a whole word sees them (R134). -/
def VC.allActive (k : VC) (w : VW) (m : BitVec 5) : List Nat := (upFrom 0 w.vl).filter fun i => k.h.selects m i

/-- A base or stride field (R87): s0 is zero, s1 to s15 read as at the block's vf, s16 to s31 as they stand. -/
def VC.scalarOf (k : VC) (w : VW) (r : Reg) : Word :=
  if r = 0 then 0 else if r.toNat < 16 then w.env.s.getD r.toNat 0 else k.h.sc.get r

/-- The low 32 bits of the s register that an operand value 80 to 95 names (R86). -/
def VC.broadcast (k : VC) (x : BitVec 7) : Slot := (k.h.sc.get (BitVec.ofNat 5 (x.toNat - 64))).setWidth 32

/-- An element of a source that is no queue (R86). -/
def VC.elemOf (k : VC) (x : BitVec 7) (i : Nat) : Slot := if x.toNat < 64 then k.h.elem x.toNat i else k.broadcast x

/-- A pop of a load queue (R67). -/
def VC.popLq (k : VC) (j : Nat) : VRes (VC × Slot) :=
  let q := k.h.lq.getD j LoadQ.empty
  match q.entries with
  | [] => .error .wait
  | (x, _) :: t => .ok ({ k with h := { k.h with lq := k.h.lq.setIfInBounds j { q with entries := t } } }, x)

/-- A push into a load queue of 1,024 entries (R67). -/
def VC.pushLq (k : VC) (w : VW) (j i : Nat) (x : Slot) : VRes VC :=
  let q := k.h.lq.getD j LoadQ.empty
  if 1024 ≤ q.entries.length then .error .wait else
  .ok { k with h := { k.h with lq := k.h.lq.setIfInBounds j { q with entries := q.entries ++ [(x, ⟨w.addr, i, w.env⟩)] } } }

/-- Cause 0x12 at an element of a stream register (R160); its record names the stream register as its source (R286; log 48). -/
def streamTrap (t : Option Stream) (j : Nat) : Trap :=
  match t with
  | some q =>
    match q.err with
    | some (c, va) => { cause := 0x12, kind := 4, under := c, addr := va, info := j }
    | none => { cause := 0x12, kind := 4, info := j }
  | none => { cause := 0x12, kind := 4, info := j }

/-- A pop of a stream register (R159, R160). A register that is not bound for reading has no element to pop. -/
def VC.popQ (k : VC) (j : Nat) : VRes (VC × Slot) :=
  match k.h.q.getD j none with
  | some t =>
    if t.write || t.pat.count ≤ t.pos then vtrap { cause := 0x12, kind := 4, info := j } else
    match t.fetched with
    | x :: r => .ok ({ k with h := { k.h with q := k.h.q.setIfInBounds j (some { t with fetched := r, pos := t.pos + 1 }) } }, x)
    | [] => if t.err.isSome then vtrap (streamTrap (some t) j) else .error .wait
  | none => vtrap { cause := 0x12, kind := 4, info := j }

/-- The number that the generator of element i gives next (R39), and the hart with it advanced. -/
def Hart.draw (h : Hart) (i : Nat) : Nat × Hart :=
  let g := srStep (h.gen.getD (i % 64) 0)
  (g.toNat, { h with gen := h.gen.setIfInBounds (i % 64) g })

/-- A push into a stream register bound for writing (R159, R160): narrowed as a store narrows. -/
def VC.pushQ (k : VC) (j i : Nat) (x : Slot) : VRes VC :=
  match k.h.q.getD j none with
  | some t =>
    if !t.write || t.pat.count ≤ t.pos then vtrap { cause := 0x12, kind := 4, info := j }
    else if t.err.isSome then vtrap (streamTrap (some t) j)
    else
      let mode := t.vround.toNat % 8
      let (rnd, h1) := if narrowDraws t.pat.fmt mode then k.h.draw i else (0, k.h)
      let code := narrow t.pat.fmt x t.vround mode rnd 0
      let t1 := { t with pos := t.pos + 1, pending := t.pending ++ [BitVec.ofNat 32 code] }
      .ok { k with h := { h1 with q := h1.q.setIfInBounds j (some t1) } }
  | none => vtrap { cause := 0x12, kind := 4, info := j }

/-- One operand of element i: an element, a popped entry or a broadcast (R86). -/
def VC.operand (k : VC) (x : BitVec 7) (i : Nat) : VRes (VC × Slot) :=
  let n := x.toNat
  if 64 ≤ n && n < 72 then k.popQ (n - 64) else if 72 ≤ n && n < 76 then k.popLq (n - 72) else .ok (k, k.elemOf x i)

/-- The operands of element i in order. A queue that a word names twice pops one entry an element (R67). -/
def VC.operands (i : Nat) : List (BitVec 7) → VC → List (BitVec 7 × Slot) → VRes (VC × List Slot)
  | [], k, _ => .ok (k, [])
  | x :: xs, k, seen =>
    match seen.find? (·.1 == x) with
    | some p =>
      match VC.operands i xs k seen with
      | .ok (k1, r) => .ok (k1, p.2 :: r)
      | .error e => .error e
    | none =>
      match k.operand x i with
      | .error e => .error e
      | .ok (k1, v) =>
        match VC.operands i xs k1 ((x, v) :: seen) with
        | .ok (k2, r) => .ok (k2, v :: r)
        | .error e => .error e

/-- An element of a destination written (R86): a vector register, a stream, or nothing. -/
def VC.writeDst (k : VC) (d : BitVec 7) (i : Nat) (x : Slot) : VRes VC :=
  let n := d.toNat
  if n < 64 then .ok { k with h := k.h.setElem n i x } else if n < 72 then k.pushQ (n - 64) i x else .ok k

/-- A bit of a mask register. -/
def Hart.setMaskBit (h : Hart) (j i : Nat) (b : Bool) : Hart :=
  let m := h.m.getD j 0
  { h with m := h.m.setIfInBounds j (if b then m ||| (1 <<< i) else m &&& ~~~((1 : Mask) <<< i)) }

/-- The bits of a mask register at and above VL cleared (R121, R122). -/
def Hart.clearAbove (h : Hart) (j vl : Nat) : Hart :=
  { h with m := h.m.setIfInBounds j (maskLow (h.m.getD j 0) vl) }

/-- The flags of a vector word of a block reach the matrix program that a later fork.m of its hart has made and that has not begun: it begins with
the flags of every earlier vector word (R168). -/
def State.raiseForks (s : State) (slot seq : Nat) (fl : Flags) : State :=
  if fl = 0 then s else
  let c := slotCluster slot
  let cl := s.cluster c
  let m := cl.mcc.map fun m =>
    if m.slot == slot && !m.begun && seq < m.after then { m with sc := { m.sc with fflags := orFlags m.sc.fflags fl } } else m
  if m = cl.mcc then s else s.setCluster c { cl with mcc := m }

/-- The flags of an element ORed in, or cause 0x0E (R42, R68). -/
def VC.raise (k : VC) (fl : Flags) : VRes VC :=
  if flagTraps k.h.sc.fflags fl then vcause 0x0E
  else .ok { k with st := k.st.raiseForks k.slot ((k.h.blocks.head?.map (·.seq)).getD 0) fl,
                    h := { k.h with sc := { k.h.sc with fflags := orFlags k.h.sc.fflags fl } } }

/-- A request counted once a member and block (R149). -/
def VC.count (k : VC) (no : Nat) (p : Place) : VC :=
  if p.kind != 0 || k.sent.contains (no, p.key / 64) then k else
  let mine := p.home == clusterDie (slotCluster k.slot)
  { k with sent := (no, p.key / 64) :: k.sent,
           h := if mine then { k.h with localreq := k.h.localreq + 1 } else { k.h with remotereq := k.h.remotereq + 1 } }

/-- The state with a convoy's hart put back. -/
def VC.state (k : VC) : State := k.st.setHart k.slot k.h

/-- A synchronising event of the hart (R354, R355). -/
def VC.sync (k : VC) (kind : Nat) : VRes VC :=
  match k.state.syncEvent k.h.ctx k.h.hartid k.h.kid kind none with
  | .pass s => .ok { k with st := s }
  | .wait => .error .gate
  | .diverged s => .error (.diverge s)

/-! ### Element-wise words (R120 to R122) -/

/-- How an element is rounded: mode, saturation and the number drawn. -/
structure Rnd where
  mode : Nat
  sat  : Nat
  rnd  : Nat
  deriving DecidableEq, Repr

/-- The rounding mode of a word (R37): its field, or VROUND's mode for 7. -/
def roundMode (f : BitVec 3) (vround : BitVec 5) : Nat := if f.toNat = 7 then vround.toNat % 8 else f.toNat

/-- What an element-wise word computes: from the hart, the element, its rounding and its operands. -/
abbrev ElemOp := VC → Nat → Rnd → List Slot → Slot × Flags

/-- Where an element-wise word writes. -/
inductive Dest where
  | reg (d : BitVec 7)
  | mask (j : Nat)
  deriving DecidableEq, Repr

/-- An element-wise word: sources, whether it rounds, its destination and its operation. -/
def elementwise (use : WordUse) (f : VR) (srcs : List (BitVec 7)) (rounds : Bool) (dst : Dest) (op : ElemOp) : Sem where
  use := use
  mask := f.mask
  elem := fun k w i => do
    let act := k.active w f.mask i
    let (k1, xs) ← VC.operands i srcs k []
    if act then
      let mode := roundMode f.rnd w.env.vround
      let (rnd, h1) := if rounds && mode == rsr then k1.h.draw i else (0, k1.h)
      let (x, fl) := op k1 i ⟨mode, f.sat.toNat, rnd⟩ xs
      let k2 ← ({ k1 with h := h1 } : VC).raise fl
      let k3 ← match dst with
        | .reg d => k2.writeDst d i x
        | .mask j => .ok { k2 with h := k2.h.setMaskBit j i (x != 0) }
      .ok (if f.xm then { k3 with h := k3.h.setMaskBit f.xd.toNat i (indicator fl) } else k3)
    else
      let h2 := match dst with
        | .reg _ => k1.h
        | .mask j => k1.h.setMaskBit j i false
      .ok { k1 with h := if f.xm then h2.setMaskBit f.xd.toNat i false else h2 }
  finish := fun k w =>
    let h1 := match dst with
      | .reg _ => k.h
      | .mask j => k.h.clearAbove j w.vl
    { k with h := if f.xm then h1.clearAbove f.xd.toNat w.vl else h1 }

/-- A whole word (R134): its element commits read its sources, and everything happens at element VL - 1. -/
def wholeWord (use : WordUse) (mask : BitVec 5) (issue : VC → VW → VRes Unit) (act : VC → VW → VRes VC) : Sem where
  use := use
  mask := mask
  issue := issue
  elem := fun k w i => if i + 1 = w.vl then act k w else .ok k

/-! ### Time (R63, R64, R254, R264) -/

/-- The start-up time of a word kind (R63). -/
def WordKind.startup : WordKind → Nat
  | .plain => 4
  | .convert => 6
  | .reduce => 14
  | .memory => 8

/-- A cycle that a member opens, behind those of its convoy's members up to it (R264). -/
def addSpent (x : Spent) : List Spent → List Spent
  | [] => [x]
  | y :: t => if x.member < y.member then x :: y :: t else y :: addSpent x t

/-- A further element of the cycle that a member has open. -/
def joinSpent (x : Spent) : List Spent → List Spent
  | [] => []
  | y :: t =>
    if y.member == x.member && y.filling then
      { y with useful := y.useful + x.useful, masked := y.masked + x.masked, beyond := y.beyond + x.beyond, filling := x.filling } :: t
    else y :: joinSpent x t

/-- Cycles and slot-cycles that a hart's clock has still to pass (R63, R64; log 8). -/
def Hart.spend (h : Hart) (x : Spent) : Hart := { h with due := if x.cycles = 0 then joinSpent x h.due else addSpent x h.due }

/-- The start-up cycles of a convoy's head (R63, R264). -/
def Hart.spendStartup (h : Hart) (n : Nat) : Hart := h.spend ⟨0, n, 0, 0, 0, h.grant * n, 0, false, (0, 0, 0)⟩

/-- The entries below VL of the list that a mask field names. -/
def VC.listOf (k : VC) (w : VW) (m : BitVec 5) : List Nat := (k.h.l.getD (m.toNat % 16) []).filter (· < w.vl)

/-- The slot-cycles of element i of a word (R64, R264): a cycle opens at the first element of each group of g, and closes with its last. -/
def VC.spendElem (k : VC) (w : VW) (m : BitVec 5) (times i : Nat) : VC :=
  let g := k.h.grant
  if m.getLsbD 4 then
    let l := k.listOf w m
    if !l.contains i then k else
    let p := (l.filter (· < i)).length
    let p0 := (l.filter (· < w.start)).length
    { k with h := k.h.spend ⟨w.no, if p = p0 ∨ p % g = 0 then times else 0, times,
        times * ((if p = p0 then p0 % g else 0) + (if p + 1 = l.length then (g - l.length % g) % g else 0)), 0, 0, 0,
        p + 1 != l.length && (p + 1) % g != 0, (0, 0, 0)⟩ }
  else
    let act := k.h.selects m i
    { k with h := k.h.spend ⟨w.no, if i = w.start ∨ i % g = 0 then times else 0, times * act.toNat,
        times * ((!act).toNat + (if i = w.start then i % g else 0)), if i + 1 = w.vl then times * ((g - w.vl % g) % g) else 0, 0, 0,
        i + 1 != w.vl && (i + 1) % g != 0, (0, 0, 0)⟩ }

/-- The classes 0 to 2 of the slots of the cycle that a stop before element i leaves open (R264). -/
def VC.restOf (k : VC) (w : VW) (m : BitVec 5) (times i : Nat) : Nat × Nat × Nat :=
  let g := k.h.grant
  if g = 0 then (0, 0, 0) else
  if m.getLsbD 4 then
    let l := k.listOf w m
    let p := (l.filter (· < i)).length
    let p0 := (l.filter (· < w.start)).length
    if p = p0 || p % g = 0 || p = l.length then (0, 0, 0) else
    let rest := g - p % g
    let u := min rest (l.length - p)
    (times * u, times * (rest - u), 0)
  else if i ≤ w.start || i % g = 0 || w.vl ≤ i then (0, 0, 0)
  else
    let e := min ((i / g + 1) * g) w.vl
    let u := ((upFrom i (e - i)).filter fun j => k.h.selects m j).length
    (times * u, times * (e - i - u), times * ((i / g + 1) * g - e))

/-! ### Issue (R65, R72, R73, R86, R95, R135, R151) -/

/-- The conditions under which a word joins the convoy (R73). -/
def joins (acc : List WordUse) (u : WordUse) : Bool :=
  !(u.load && acc.any (·.load)) && !(u.store && acc.any (·.store)) && !u.query && acc.length < 8 &&
  !(acc.any fun a => a.apart && u.reads.any a.writes.contains) &&
  !(match u.index with
    | some r => acc.any fun a => a.writes.contains (.v r)
    | none => false)

/-- A register in an operand field at or above NREGS (R59). -/
def WordUse.beyond (u : WordUse) (nregs : Nat) : Bool :=
  (u.reads ++ u.writes).any fun r => match r with
    | .v n => nregs ≤ n
    | _ => false

/-- A queue among the sources. -/
def WordUse.queueSource (u : WordUse) : Bool :=
  u.reads.any fun r => match r with
    | .q _ | .lq _ => true
    | _ => false

/-- Cause 0x01 at issue from what the words name (R59, R134, R135). A whole word writes no stream. -/
def useCause01 (acc : List WordUse) (u : WordUse) (nregs : Nat) : Bool :=
  u.beyond nregs || (u.whole && u.queueSource) ||
  acc.any fun a => a.whole && (u.writes.any a.reads.contains || (a.perm && u.reads.any a.writes.contains))

/-- A register's full/empty bit says empty. -/
def Hart.isEmpty (h : Hart) (r : RegId) : Bool :=
  match r with
  | .v n => !h.full.getLsbD n
  | .s n => !h.sfull.getLsbD (n - 16)
  | _ => false

/-- Registers' full/empty bits cleared, or set (R65). -/
def Hart.markEmpty (h : Hart) (rs : List RegId) : Hart :=
  rs.foldl (fun h r => match r with
    | .v n => { h with full := h.full &&& ~~~((1 : BitVec 64) <<< n) }
    | .s n => { h with sfull := h.sfull &&& ~~~((1 : BitVec 16) <<< (n - 16)) }
    | _ => h) h

def Hart.markFull (h : Hart) (rs : List RegId) : Hart :=
  rs.foldl (fun h r => match r with
    | .v n => { h with full := h.full ||| ((1 : BitVec 64) <<< n) }
    | .s n => { h with sfull := h.sfull ||| ((1 : BitVec 16) <<< (n - 16)) }
    | _ => h) h

/-- A reply of a query in flight is still to come to a register. -/
def Hart.awaits (h : Hart) (r : RegId) : Bool :=
  match r with
  | .v n => h.queries.any fun q => q.vd == n || (q.pair && q.vd + 1 == n)
  | _ => false

/-- A stream register among the destinations that is not bound for writing (R86). -/
def Hart.unboundDst (h : Hart) (u : WordUse) : Option Nat :=
  u.writes.findSome? fun r => match r with
    | .q j => if (h.q.getD j none).any (·.write) then none else some j
    | _ => none

/-- The bytes that a word may touch: those of its elements from its issue index on, to the end of its last block of four; of a query with one combined
reply, of every element, since a resumed one reads all its rows again (R134, R197). -/
def Sem.spans (m : Sem) (k : VC) (w : VW) : List (Nat × Nat) :=
  let lo := if m.use.query && m.use.apart then 0 else w.start
  (upFrom lo ((w.vl + 3) / 4 * 4 - lo)).flatMap fun i => m.touches k w i

/-- The pins that a word's probe takes, one for each distinct page that it translates (R328). -/
def VC.pinsOf (k : VC) (m : Sem) (w : VW) : List Pin := ((m.spans k w).filterMap fun x => k.st.pinAt k.h.ctx x.1 m.use.query).eraseDups

/-- The pins held in a cluster's table (R328). -/
def State.pinsUsed (s : State) (c : Nat) : Nat := ((s.harts.filter fun e => slotCluster e.1 == c).map fun e => e.2.pins.length).sum

/-- New pins fit the cluster's table of 4,096 beside those held, held of them by earlier members of the convoy (R328). A table that nothing else uses is
never waited for. -/
def VC.pinRoom (k : VC) (held : Nat) (new : List Pin) : Bool :=
  let used := k.st.pinsUsed (slotCluster k.slot)
  new.isEmpty || used == 0 || used + held + new.length ≤ 4096

/-- The checks of a word at its issue, in their order (R95, R151, R197): cause 0x01, tokens, streams and descriptors, empty registers, and
the word's own; then its probe, which waits for free pins (R328) and answers the VL it leaves. acc: the uses of the earlier members; held: their pins.
An empty permutation register makes a vldseg wait as any empty operand does, since R65 lets the operands of VM words stall (DESIGN CHOICE, log 63: R155
asks that the register be full and does not say whether an empty one waits). -/
def VC.check (k : VC) (acc : List WordUse) (m : Sem) (w : VW) (held : Nat := 0) : VRes Nat := do
  let u := m.use
  let written (r : RegId) : Bool := acc.any fun a => a.writes.contains r
  let toks := k.h.tok.toList
  if useCause01 acc u w.env.nregs then vcause 1
  else if (upFrom 0 8).any fun j => u.tokens.getLsbD j && (nthD Token.idle toks j).state == .busy then .error .wait
  else
    match tokenTrap toks u.tokens with
    | some t => vtrap t
    | none =>
      match k.h.unboundDst u with
      | some j => vtrap { cause := 0x12, kind := 4, info := j }
      | none =>
        m.early k w
        if u.waits.any fun r => k.h.isEmpty r && !written r then vcause 8
        else if (u.reads ++ u.writes).any fun r => k.h.isEmpty r && !written r then .error .wait
        else if u.query && 8 ≤ k.h.queries.length then .error .wait
        else
          m.issue k w
          if k.pinRoom held (k.pinsOf m w) then m.probe k w else .error .wait

/-! ### The front (R68 to R70, R134, R263) -/

/-- The members of a convoy with their places in it. -/
abbrev Convoy := List (Sem × VW)

/-- The uncorrectable error that a word meets at element i in a vector register it reads (R70, R350). A query's coefficients and the source of a cadd are
such registers: cause 0x09 is raised for them too (DESIGN CHOICE, log 70: R208 lists no 0x09 for queries and cadd, and R70 and R350 except no word). -/
def VC.badSource (k : VC) (u : WordUse) (i : Nat) : Option Nat :=
  if k.st.bad.isEmpty then none else
  u.reads.findSome? fun r => match r with
    | .v n => k.st.badIn (vregKey k.slot (elemKey n i)) 4
    | _ => none

/-- What strikes a front: why, the number of the member struck, and the convoy as that member's element began. -/
structure Struck where
  why : VStop
  no  : Nat
  k   : VC

/-- The requests that an element sent before it was struck: those of the addresses before the one that failed, and of the uncorrectable block it met
(R149). -/
def VC.sentBy (k : VC) (m : Sem × VW) (i : Nat) (why : VStop) : VC :=
  match why with
  | .trap t bad =>
    let before := ((m.1.touches k m.2 i).takeWhile fun x => x.1 != t.addr).filterMap fun x =>
      (k.st.leaf k.h.ctx x.1).bind fun e => placeOf k.who e.1 e.2 x.1
    (before ++ optList bad).foldl (fun k p => k.count m.2.no p) k
  | _ => k

/-- Element i of one member: its slots are spent, and it commits unless a register that it reads is in error (cause 0x09). -/
def VC.element (k : VC) (m : Sem × VW) (i : Nat) : Except Struck VC :=
  let k1 := k.spendElem m.2 m.1.mask m.1.times i
  match k.badSource m.1.use i with
  | some key => .error ⟨.trap { cause := 9 } (some ⟨8, key, 0⟩), m.2.no, k1⟩
  | none =>
    match m.1.elem k1 m.2 i with
    | .ok k2 => .ok k2
    | .error e => .error ⟨e, m.2.no, k1.sentBy m i e⟩

/-- Element i of every member, in member order. -/
def front (ms : Convoy) (i : Nat) (k : VC) : Except Struck VC :=
  ms.foldlM (fun k m => if i < m.2.vl && m.2.start ≤ i then k.element m i else .ok k) k

/-- How the fronts of a convoy end. -/
inductive Ended where
  | done (k : VC)
  | stop (k : VC) (i : Nat) (why : VStop)

/-- A member's mask is written by a member of the same convoy. -/
def Convoy.chains (ms : Convoy) (m : Sem × VW) : Bool := ms.any fun a => (maskReg m.1.mask).any a.1.use.writes.contains

/-- The convoy as its elements from i on, n of them, leave its masks: a member goes on past what stops another. -/
def Convoy.masksAhead (ms : Convoy) (i n : Nat) (k : VC) : VC :=
  if !ms.any ms.chains then k else
  (upFrom i n).foldl (fun k j => ms.foldl (fun k m =>
    if j < m.2.vl && m.2.start ≤ j then (match k.element m j with
      | .ok k1 => k1
      | .error _ => k) else k) k) k

/-- The slots still to come of the cycles that the members have open, as a stop would leave them: member q comes to the elements from from' q on, or to
none of them (R264). -/
def VC.setRests (k : VC) (ms : Convoy) (seen : VC) (from' : Nat → Option Nat) : VC :=
  { k with h := { k.h with due := k.h.due.map fun (x : Spent) =>
      if !x.filling then x else
      match ms[x.member]?, from' x.member with
      | some m, some i => { x with rest := seen.restOf m.2 m.1.mask m.1.times i }
      | _, _ => { x with rest := (0, 0, 0) } } }

/-- A stop is one after which the convoy goes on where it stands. -/
def VStop.goesOn : VStop → Bool
  | .wait | .pause | .gate => true
  | _ => false

/-- A convoy that stands at an element when its front i is struck: it has sent what it has sent (R149); and where it does not go on, it has spent what it
has spent: the members up to the one struck have spent the cycle of element i, with the slots that would follow in it, and those behind it leave their
lanes idle from there (R64, R264). -/
def VC.afterStrike (k : VC) (ms : Convoy) (at' i : Nat) (x : Struck) : VC :=
  let k1 : VC := { k with sent := x.k.sent, h := { k.h with localreq := x.k.h.localreq, remotereq := x.k.h.remotereq } }
  if x.why.goesOn then k1.setRests ms (ms.masksAhead at' k.h.grant k) fun _ => some at'
  else
    let k2 : VC := { k1 with h := { k1.h with due := x.k.h.due } }
    k2.setRests ms (ms.masksAhead i k.h.grant x.k) fun q => if q ≤ x.no then some (i + 1) else none

/-- n fronts from element i on. base and at' are the last state and element at which the convoy may stand (R70, R263). -/
def fronts (ms : Convoy) : Nat → Nat → VC → Nat → VC → Ended
  | 0, _, _, _, k => .done (ms.foldl (fun k m => if 0 < m.2.vl then m.1.finish k m.2 else k) k)
  | n + 1, i, base, at', k =>
    let whole := ms.all fun m => m.1.piece k m.2 i
    let base1 := if whole then k else base
    let at1 := if whole then i else at'
    match front ms i k with
    | .ok k1 => fronts ms n (i + 1) base1 at1 k1
    | .error x => .stop (base1.afterStrike ms at1 i x) at1 x.why

/-- The largest VL of the members. -/
def Convoy.top (ms : Convoy) : Nat := ms.foldl (fun n m => max n m.2.vl) 0

/-- Run a convoy's fronts from an element on. -/
def Convoy.run (ms : Convoy) (i : Nat) (k : VC) : Ended := fronts ms (Convoy.top ms - i) i k i k

/-! ### Reads performed early (R145, R231 to R235; log 10) -/

/-- The members of a convoy that access memory. -/
def Convoy.accesses (ms : Convoy) : Nat := (ms.filter fun m => m.1.use.readsMem || m.1.use.writesMem).length

/-- A member writes memory that a later one reads behind it in program order: both are of one class, or one of class 15, or they share a byte (R232, R233). -/
def VC.ordered (k : VC) (a b : Sem × VW) : Bool :=
  let sameClass := match a.1.use.cls, b.1.use.cls with
    | some x, some y => x == y || x == 15 || y == 15
    | _, _ => false
  a.1.use.writesMem && b.1.use.readsMem && (sameClass || k.st.spansShare k.who a.2.spans b.2.spans)

/-- A convoy's elements go in one turn, or none of them: a member reads what an earlier one writes behind it, so that all of the earlier one comes first
(R232 to R236), or a later member overwrites what a query with one combined reply has read at its fronts (R134, R197; log 10). -/
def Convoy.tied (k : VC) : Convoy → Bool
  | [] => false
  | m :: t => t.any (k.ordered m) || (m.1.use.query && m.1.use.apart && t.any fun x => x.1.use.writes.any m.1.use.reads.contains) || Convoy.tied k t

/-- What a member has read early, in its convoy; counted unless the mask that selects its elements is still to be computed (R149). -/
def VC.withReads (k : VC) (m : Sem × VW) (all : Bool) (r : VC) : VC :=
  let k1 : VC := { k with ahead := r.ahead }
  if all then k1 else (r.ahead.drop k.ahead.length).foldl (fun k a => k.count m.2.no a.place) k1

/-- The reads of one member performed as program order has them: after the whole of every earlier member that writes memory, whose stores it
then sees, or after what of them precedes the stop that strikes the convoy; nothing when such a member has to wait, or when the member reads no memory. -/
def VC.fetchMember (k : VC) (i : Nat) (before : Convoy) (m : Sem × VW) : VC :=
  if !m.1.use.readsMem then k else
  let todo := upFrom (max i m.2.start) (m.2.vl - max i m.2.start)
  let all := Convoy.chains before m
  if before.any fun x => x.1.use.writesMem then
    match Convoy.run before i k with
    | .done k1 | .stop k1 _ (.trap ..) | .stop k1 _ .pause => k.withReads m all (m.1.fetch { k1 with ahead := k.ahead } m.2 all todo)
    | .stop .. => k
  else k.withReads m all (m.1.fetch k m.2 all todo)

def VC.fetchMembers (i : Nat) : Convoy → Convoy → VC → VC
  | _, [], k => k
  | before, m :: t, k => VC.fetchMembers i (before ++ [m]) t (k.fetchMember i before m)

/-- The reads of a convoy with several members that access memory, performed in program order before its fronts (R231, R235): the front
orders commits only. -/
def VC.fetchAhead (k : VC) (ms : Convoy) (i : Nat) : VC := if Convoy.accesses ms < 2 then k else VC.fetchMembers i [] ms k

/-- What a turn that ends inside a convoy reads before it ends: the rest of each piece that a unit-stride load has begun (R145). -/
def VC.holdPieces (k : VC) (ms : Convoy) (i : Nat) : VC :=
  ms.foldl (fun k m => if m.2.start < i then k.withReads m (ms.chains m) (m.1.fetch k m.2 (ms.chains m) (m.1.sharing k m.2 i)) else k) k

/-- A convoy whose turn ends before an element: its head pauses there. -/
def Convoy.upTo (n : Nat) : Convoy → Convoy
  | [] => []
  | m :: t => ({ m.1 with elem := fun k w i => if n ≤ i then .error .pause else m.1.elem k w i }, m.2) :: t

/-! ### Issue of a whole convoy -/

/-- What the issue of a convoy comes to: all its members, or those before a word that traps, or the convoy waits or is overtaken. -/
inductive Issued where
  | all (ms : Convoy)
  | cut (ms : Convoy) (t : Trap) (bad : Option Place)
  | halt (why : VStop)

/-- A member whose checks depend on what an earlier member computes: its mask or list, or, for xcount, its identifiers. -/
def needsEarlier (acc : List WordUse) (m : Sem) : Bool :=
  let names := maskReg m.mask ++ (if m.use.whole && m.use.kind == .plain then m.use.reads else [])
  acc.any fun a => names.any a.writes.contains

/-- A later member of the convoy reads or writes what a member writes. -/
def namedLater (m : Sem) (rest : List (Word × Sem)) : Bool :=
  rest.any fun r => (r.2.use.reads ++ r.2.use.writes).any m.use.writes.contains

/-- Issue the members in order (R72). A member whose mask an earlier member writes is probed as that member leaves it. -/
def VC.issueAll (k : VC) (b : Block) : List (Word × Sem) → Convoy → List WordUse → Nat → Issued
  | [], done, _, _ => .all done
  | (addr, m) :: rest, done, acc, vl =>
    let w : VW := ⟨done.length, b.seq, addr, b.env, vl, b.elem, namedLater m rest, false, [], [], []⟩
    let seen : VC := if needsEarlier acc m then
        (match Convoy.run done b.elem k with
          | .done k1 => { k1 with h := { k1.h with full := k.h.full, sfull := k.h.sfull } }
          | .stop k1 _ _ => { k1 with h := { k1.h with full := k.h.full, sfull := k.h.sfull } })
      else k
    match seen.check acc m w (done.flatMap fun x => x.2.pins).length with
    | .ok n =>
      let w1 : VW := { w with vl := n }
      k.issueAll b rest (done ++ [(m, { w1 with idle := m.idle seen w1, claims := m.claims seen w1, pins := seen.pinsOf m w, spans := m.spans seen w1 })]) (acc ++ [m.use]) n
    | .error (.trap t bad) => .cut done t bad
    | .error e => .halt e

/-- The members of a convoy that has issued and goes on inside, as they issued. -/
def Block.reissue (b : Block) : List (Word × Sem) → Convoy → List (Nat × Bool) → Convoy
  | [], done, _ => done
  | (addr, m) :: rest, done, vs =>
    let v := vs.headD (b.env.vl, false)
    let w : VW := ⟨done.length, b.seq, addr, b.env, v.1, b.origin, namedLater m rest, v.2, [], b.pins, []⟩
    b.reissue rest (done ++ [(m, w)]) vs.tail

/-! ### Running a convoy on a hart -/

/-- The register banks of eight that a convoy touches (R295). -/
def banksOf (ms : List (Word × Sem)) : List Nat :=
  (ms.flatMap fun m => (m.2.use.reads ++ m.2.use.writes).filterMap fun r => match r with
    | .v n => some (n / 8)
    | _ => none).eraseDups

def Hart.touchBanks (h : Hart) (now : Nat) (bs : List Nat) : Hart :=
  { h with touched := bs.foldl (fun t b => tblPut b now t) h.touched, retained := h.retained.filter fun b => !bs.contains b }

/-- The destinations that the issue of a convoy marks empty; a word with VL 0 marks none (R60, R65). -/
def Convoy.empties (ms : Convoy) : List RegId := ms.flatMap fun m => if m.2.vl = 0 then [] else m.1.use.empties

/-- A hart as a convoy issues on it: its banks are touched, the destinations of its producers are empty, the head's start-up is spent, and its age
begins anew (R63, R65, R295, R310). -/
def Hart.issueOn (h : Hart) (now wall : Nat) (ms : Convoy) : Hart :=
  let h1 := (h.touchBanks now (banksOf (ms.map fun m => (m.2.addr, m.1)))).markEmpty (Convoy.empties ms)
  match ms with
  | m :: _ => { h1.spendStartup m.1.use.kind.startup with timed := some (m.2.addr.toNat, ms.length, Convoy.top ms), lastIssue := wall, aged := 0 }
  | [] => h1

/-- The front block replaced. -/
def Hart.setBlock (h : Hart) (b : Block) : Hart := { h with blocks := b :: h.blocks.drop 1 }

/-- A trap of the vector stream at an element of the front block's word (R55, R70, R282). -/
def VC.takeTrap (k : VC) (b : Block) (t : Trap) (bad : Option Place) : Out :=
  let st := match bad with
    | some p => k.st.logError p.key
    | none => k.st
  let h1 := k.h.setBlock b.unissued
  (st.setHart k.slot h1).trapHart k.slot h1 t k.h.sc.pc

/-- The vector stream waits with its front block as given. -/
def VC.waitAt (k : VC) (b : Block) : State := { k with h := { k.h.setBlock b with vwait := true } }.state

/-- The vector stream's turn ends inside a convoy, with its front block as given. -/
def VC.pauseAt (k : VC) (b : Block) : State :=
  { k with h := { k.h.setBlock b with vwait := false, lastIssue := k.st.wall, aged := 0 } }.state

/-- What a stop of the vector stream comes to, with its front block as given. A hart whose own event diverges debug-stops at its front, which
it cannot pass (DESIGN CHOICE, log 61). -/
def VC.stopAt (k : VC) (b : Block) (why : VStop) : Out :=
  match why with
  | .wait | .gate => .next (k.waitAt b)
  | .pause => .next (k.pauseAt b)
  | .trap t bad => k.takeTrap b t bad
  | .diverge s => ({ k with st := { s with dbg := { s.dbg with src := 5 } } } : VC).takeTrap b { cause := 0x0F } none
  | .cellar stack pa => .next ((k.waitAt b).contextFault k.h.ctx stack false pa)

/-- The front block's next word is its vstop, so the block ends with its convoy (R73). -/
def State.atStop (s : State) (w : Who) (pc : Word) : Bool :=
  match s.fetchVWord w pc.toNat with
  | .ok (some x) => x.isStop
  | _ => false

/-- A convoy has committed whole: its destinations are full but where a reply is still to come, and the block moves on to the next word.
ff: it held a vldff; vl: the VL it leaves. -/
def VC.complete (k : VC) (b : Block) (ms : Convoy) (next : Word) (ff : Bool) (vl : Nat) : VC :=
  let env := if ff then { b.env with vl := vl } else b.env
  let b1 : Block := { b.moveOn next with ff := b.ff || ff, env := env }
  let h1 := if ff then { k.h with vl := min vl k.h.vl } else k.h
  let st := k.st.releaseClaims k.slot
  let h2 := { h1.markFull ((Convoy.empties ms).filter fun r => !k.h.awaits r) with vwait := false, lastIssue := k.st.wall, aged := 0 }
  if b.parts.isEmpty && k.st.atStop k.who next then { k with st := st, h := { h2 with blocks := h2.blocks.drop 1 } }
  else { k with st := st, h := h2.setBlock b1 }

/-- The fronts of an issued convoy, and what follows them. lim: how many fronts the turn has at most; struck: a pre-emption strikes the convoy where it
comes to then (R70). A tied convoy that has to wait has done nothing yet (log 10). -/
def VC.runConvoy (k : VC) (b : Block) (ms : Convoy) (next : Word) (lim : Option Nat) (struck : Bool := false) : Out :=
  let ff := ms.any fun m => m.1.use.ff
  let vl := (ms.getLast?.map fun m => m.2.vl).getD b.env.vl
  let whole := b.tied && !struck
  let part := match lim with
    | some n => if whole then ms else Convoy.upTo (b.elem + n) ms
    | none => ms
  match Convoy.run part b.elem (k.fetchAhead part b.elem) with
  | .done k1 =>
    let k2 := k1.complete b ms next ff vl
    (match b.trapNext with
      | some (t, key) => k2.takeTrap ((k2.h.blocks.head?).getD b) t (key.map fun n => ⟨8, n, 0⟩)
      | none => .next k2.state)
  | .stop k1 i why =>
    let inside : Block := { b with elem := i, sent := k1.sent, ahead := (k1.holdPieces ms i).ahead }
    match why with
    | .wait => .next (if whole then k.waitAt b else k1.waitAt inside)
    | .gate => .next (k1.waitAt inside)
    | .pause => .next (k1.pauseAt inside)
    | e => k1.stopAt { b with elem := i, sent := k1.sent } e

/-- A sample or trace record of a hart (R352). head and members: the convoy in issue; cls: the class. -/
def sampleBytes (h : Hart) (slot head elem members cls : Nat) : List Byte :=
  leBytes 8 h.cycle.toNat ++ leBytes 8 h.sc.pc.toNat ++ leBytes 8 head ++ leBytes 2 elem ++ leBytes 1 members ++ leBytes 1 cls ++
  leBytes 4 h.hartid ++ leBytes 2 h.kid ++ leBytes 2 (slotCluster slot) ++ leBytes 28 0

/-- A record put into the sample queue (R285, R352). -/
def State.samplePut (s : State) (rec : List Byte) : State := (s.queuePut s.dbg.smpPa Config.sampleLg 64 rec).1

/-- The trace record of a convoy's issue, when it is on for the hart's context (R352). -/
def State.traceConvoy (s : State) (slot : Nat) (h : Hart) (b : Block) (members : Nat) : State :=
  if s.dbg.smpTrace && s.dbg.sel == h.ctx then s.samplePut (sampleBytes h slot b.pc.toNat b.elem members 5) else s

/-- A block as its convoy issues: the members' VL, and the places of its vldseg, stay as they are (R154, R155), and its probes' pins are held (R329). -/
def Block.issue (b : Block) (k : VC) (ms : Convoy) : Block :=
  { b with issued := true, origin := b.elem, vls := ms.map fun m => (m.2.vl, m.2.idle), perm := ms.flatMap fun m => m.1.perm, pins := ms.flatMap fun m => m.2.pins,
           tied := Convoy.tied k ms }

/-- A convoy in issue: its record stands in the trace, its claims and its translations are held (R211, R329), and it has its place on the hart. -/
def VC.begin (k : VC) (b : Block) (c : Convoy) : VC :=
  let st := (k.st.traceConvoy k.slot k.h b c.length).holdClaims k.slot (c.flatMap fun m => m.2.claims)
  { k with st := (c.flatMap fun m => m.2.pins).foldl (fun t p => t.keepPin k.h.ctx p) st, h := k.h.issueOn k.st.time k.st.wall c }

/-- A query that issues with VL 0 has no element at which its synchronising event would stand (R60, R354). -/
def VC.emptyQuery (k : VC) (c : Convoy) : VRes VC :=
  match c with
  | m :: _ => if m.1.use.query && m.2.vl = 0 then k.sync 11 else .ok k
  | [] => .ok k

/-- Run a formed convoy of the front block of a hart, as far as its turn goes: its issue, its fronts, and its end (R61, R69 to R72). -/
def State.convoyUpTo (s : State) (lim : Option Nat) (struck : Bool) (slot : Nat) (h : Hart) (b : Block) (ms : List (Word × Sem)) : Out :=
  let k : VC := ⟨s, slot, h, [], b.sent, if b.issued then b.ahead else [], h⟩
  let nextOf (c : Convoy) : Word := (c.getLast?.map fun m => m.2.addr + 8).getD b.pc
  if h.grant = 0 then .next (k.waitAt b)
  else if b.issued then
    let c := b.reissue ms [] b.vls
    k.runConvoy b c (nextOf c) lim struck
  else
    let run (c : Convoy) (b1 : Block) : Out :=
      match (k.begin b c).emptyQuery c with
      | .ok k1 => k1.runConvoy b1 c (nextOf c) lim struck
      | .error e => k.stopAt b e
    match k.issueAll b ms [] [] b.env.vl with
    | .halt e => k.stopAt b e
    | .all c => run c (b.issue k c)
    | .cut [] t bad => k.takeTrap b t bad
    | .cut c t bad =>
      run c { b.issue k c with cut := c.length, parts := ⟨ms.length - c.length, b.elem, some (t, bad.map (·.key))⟩ :: b.parts }

/-- Run a formed convoy of the front block of a hart to its end. -/
def State.convoy (s : State) (slot : Nat) (h : Hart) (b : Block) (ms : List (Word × Sem)) : Out := s.convoyUpTo none false slot h b ms

/-- Run one vector word of the hart on turn as a convoy of its own: the word stands at the head of the hart's front block. -/
def State.vectorWord (s : State) (m : Sem) : Out :=
  match s.cur with
  | .vec slot =>
    match s.hart slot with
    | some h =>
      match h.blocks with
      | b :: _ => s.convoy slot h b [(b.pc, m)]
      | [] => .fault .noParty
    | none => .fault .noParty
  | _ => .fault .noParty

end Sys2Proof.Machine
end

