-- ==== Sys2Proof/Machine/VecArith.lean ====
section
/-! DEFINITION. Element-wise arithmetic: floating point, the BF16 functions, conversions, integers, immediates and compares
(R123 to R131). Each word's part is semX, and execX runs it as a convoy of its own. -/
namespace Sys2Proof.Machine

/-! ### Floating point (R123, R124) -/

/-- A slot's value in the type of a word, and the rounding to that type (R24, R123). -/
def fpDec (bf : Bool) (x : Slot) : Num := if bf then bfv x else f32 x
def fpRnd (bf : Bool) (x : Num) (r : Rnd) : Slot × Flags :=
  if bf then roundBf x r.mode r.sat r.rnd else roundF32 x r.mode r.sat r.rnd

/-- A slot as a word of the type reads it: bits 15:0 are zero under bf16 (R24). -/
def fpSlot (bf : Bool) (x : Slot) : Slot := if bf then x &&& 0xFFFF0000 else x

/-- A word whose exact result, with its own flags, is rounded once. -/
def fpRounds (use : WordUse) (bf : Bool) (f : VR) (srcs : List (BitVec 7)) (x : Nat → List Num → Num × Flags) : Sem :=
  elementwise use f srcs true (.reg f.vd) fun _ _ r xs =>
    let (v, fl) := x r.mode (xs.map (fpDec bf))
    let (y, fl') := fpRnd bf v r
    (y, fl ||| fl')

/-- A word whose result is not rounded. -/
def fpMoves (use : WordUse) (bf : Bool) (f : VR) (srcs : List (BitVec 7)) (x : List Slot → Slot × Flags) : Sem :=
  elementwise use f srcs false (.reg f.vd) fun _ _ _ xs => x (xs.map (fpSlot bf))

/-- The n-th value of a word's operands. -/
def numAt (xs : List Num) (n : Nat) : Num := nthD (.fin false 0 0) xs n
def slotAt (xs : List Slot) (n : Nat) : Slot := nthD 0 xs n

/-- (-1)^np a b + (-1)^nc c, exact, with the NaN order a, b, c (R41, R123). -/
def fmaSigned (mode : Nat) (np nc : Bool) (a b c : Num) : Num × Flags :=
  match nanOf [a, b, c] with
  | some r => r
  | none =>
    match mulNum a b with
    | (.nan s f, fl) => (.nan s f, fl)
    | (p, _) => addNum mode (if np then p.neg else p) (if nc then c.neg else c)

def semVaddFp (bf : Bool) (f : VR) : Sem :=
  fpRounds ((Instr.vaddFp bf f).uses 0) bf f [f.va, f.vb] fun m xs => addNum m (numAt xs 0) (numAt xs 1)
/-- vadd (R123). -/
def execVaddFp (bf : Bool) (f : VR) (s : State) : Out := s.vectorWord (semVaddFp bf f)

def semVsubFp (bf : Bool) (f : VR) : Sem :=
  fpRounds ((Instr.vsubFp bf f).uses 0) bf f [f.va, f.vb] fun m xs => subNum m (numAt xs 0) (numAt xs 1)
/-- vsub (R123). -/
def execVsubFp (bf : Bool) (f : VR) (s : State) : Out := s.vectorWord (semVsubFp bf f)

def semVmulFp (bf : Bool) (f : VR) : Sem :=
  fpRounds ((Instr.vmulFp bf f).uses 0) bf f [f.va, f.vb] fun _ xs => mulNum (numAt xs 0) (numAt xs 1)
/-- vmul (R123). -/
def execVmulFp (bf : Bool) (f : VR) (s : State) : Out := s.vectorWord (semVmulFp bf f)

def semVfma (bf : Bool) (f : VR) : Sem :=
  fpRounds ((Instr.vfma bf f).uses 0) bf f [f.va, f.vb, f.vc] fun m xs =>
    fmaSigned m false false (numAt xs 0) (numAt xs 1) (numAt xs 2)
/-- vfma (R123). -/
def execVfma (bf : Bool) (f : VR) (s : State) : Out := s.vectorWord (semVfma bf f)

def semVfms (bf : Bool) (f : VR) : Sem :=
  fpRounds ((Instr.vfms bf f).uses 0) bf f [f.va, f.vb, f.vc] fun m xs =>
    fmaSigned m false true (numAt xs 0) (numAt xs 1) (numAt xs 2)
/-- vfms (R123). -/
def execVfms (bf : Bool) (f : VR) (s : State) : Out := s.vectorWord (semVfms bf f)

def semVfnma (bf : Bool) (f : VR) : Sem :=
  fpRounds ((Instr.vfnma bf f).uses 0) bf f [f.va, f.vb, f.vc] fun m xs =>
    fmaSigned m true false (numAt xs 0) (numAt xs 1) (numAt xs 2)
/-- vfnma (R123). -/
def execVfnma (bf : Bool) (f : VR) (s : State) : Out := s.vectorWord (semVfnma bf f)

def semVdiv (bf : Bool) (f : VR) : Sem :=
  fpRounds ((Instr.vdiv bf f).uses 0) bf f [f.va, f.vb] fun _ xs => divNum (numAt xs 0) (numAt xs 1)
/-- vdiv (R123). -/
def execVdiv (bf : Bool) (f : VR) (s : State) : Out := s.vectorWord (semVdiv bf f)

def semVsqrt (bf : Bool) (f : VR) : Sem :=
  fpRounds ((Instr.vsqrt bf f).uses 0) bf f [f.va] fun _ xs => sqrtNum (numAt xs 0)
/-- vsqrt (R123). -/
def execVsqrt (bf : Bool) (f : VR) (s : State) : Out := s.vectorWord (semVsqrt bf f)

def semVminFp (bf : Bool) (f : VR) : Sem :=
  fpMoves ((Instr.vminFp bf f).uses 0) bf f [f.va, f.vb] fun xs => minMax false f32 slotOf (slotAt xs 0) (slotAt xs 1)
/-- vmin (R123, R124). -/
def execVminFp (bf : Bool) (f : VR) (s : State) : Out := s.vectorWord (semVminFp bf f)

def semVmaxFp (bf : Bool) (f : VR) : Sem :=
  fpMoves ((Instr.vmaxFp bf f).uses 0) bf f [f.va, f.vb] fun xs => minMax true f32 slotOf (slotAt xs 0) (slotAt xs 1)
/-- vmax (R123, R124). -/
def execVmaxFp (bf : Bool) (f : VR) (s : State) : Out := s.vectorWord (semVmaxFp bf f)

def semVabs (bf : Bool) (f : VR) : Sem :=
  fpMoves ((Instr.vabs bf f).uses 0) bf f [f.va] fun xs => (slotAt xs 0 &&& 0x7FFFFFFF, 0)
/-- vabs (R124). -/
def execVabs (bf : Bool) (f : VR) (s : State) : Out := s.vectorWord (semVabs bf f)

def semVneg (bf : Bool) (f : VR) : Sem :=
  fpMoves ((Instr.vneg bf f).uses 0) bf f [f.va] fun xs => (slotAt xs 0 ^^^ 0x80000000, 0)
/-- vneg (R124). -/
def execVneg (bf : Bool) (f : VR) (s : State) : Out := s.vectorWord (semVneg bf f)

def semVcopysign (bf : Bool) (f : VR) : Sem :=
  fpMoves ((Instr.vcopysign bf f).uses 0) bf f [f.va, f.vb] fun xs =>
    ((slotAt xs 0 &&& 0x7FFFFFFF) ||| (slotAt xs 1 &&& 0x80000000), 0)
/-- vcopysign (R124). -/
def execVcopysign (bf : Bool) (f : VR) (s : State) : Out := s.vectorWord (semVcopysign bf f)

/-! ### BF16 functions (R125) -/

def semVexp2 (f : VR) : Sem := fpRounds ((Instr.vexp2 f).uses 0) true f [f.va] fun _ xs => exp2Num (numAt xs 0)
/-- vexp2 (R125). -/
def execVexp2 (f : VR) (s : State) : Out := s.vectorWord (semVexp2 f)

def semVlog2 (f : VR) : Sem := fpRounds ((Instr.vlog2 f).uses 0) true f [f.va] fun _ xs => log2Num (numAt xs 0)
/-- vlog2 (R125). -/
def execVlog2 (f : VR) (s : State) : Out := s.vectorWord (semVlog2 f)

def semVrcp (f : VR) : Sem := fpRounds ((Instr.vrcp f).uses 0) true f [f.va] fun _ xs => rcpNum (numAt xs 0)
/-- vrcp (R125). -/
def execVrcp (f : VR) (s : State) : Out := s.vectorWord (semVrcp f)

def semVrsqrt (f : VR) : Sem := fpRounds ((Instr.vrsqrt f).uses 0) true f [f.va] fun _ xs => rsqrtNum (numAt xs 0)
/-- vrsqrt (R125). -/
def execVrsqrt (f : VR) (s : State) : Out := s.vectorWord (semVrsqrt f)

def semVtanh (f : VR) : Sem := fpRounds ((Instr.vtanh f).uses 0) true f [f.va] fun _ xs => tanhNum (numAt xs 0)
/-- vtanh (R125). -/
def execVtanh (f : VR) (s : State) : Out := s.vectorWord (semVtanh f)

/-! ### Conversions (R126 to R128) -/

/-- A conversion that rounds: it advances the generator under SR for every input (R39). -/
def converts (use : WordUse) (f : VR) (x : Rnd → Slot → Slot × Flags) : Sem :=
  elementwise use f [f.va] true (.reg f.vd) fun _ _ r xs => x r (slotAt xs 0)

def semVcvtBf16F32 (f : VR) : Sem :=
  converts ((Instr.vcvtBf16F32 f).uses 0) f fun r a => roundBf (f32 a) r.mode r.sat r.rnd
/-- vcvt.bf16.f32 (R127). -/
def execVcvtBf16F32 (f : VR) (s : State) : Out := s.vectorWord (semVcvtBf16F32 f)

def semVcvtF32I32 (f : VR) : Sem :=
  converts ((Instr.vcvtF32I32 f).uses 0) f fun r a => roundF32 (Num.ofInt a.toInt 0 false) r.mode 0 r.rnd
/-- vcvt.f32.i32 (R127). -/
def execVcvtF32I32 (f : VR) (s : State) : Out := s.vectorWord (semVcvtF32I32 f)

def semVcvtI32F32 (f : VR) : Sem :=
  converts ((Instr.vcvtI32F32 f).uses 0) f fun r a =>
    let lo : Int := -(2 ^ 31)
    let hi : Int := 2 ^ 31 - 1
    let (v, fl) := if r.sat = 2 then toIntSat (f32 a) r.mode r.rnd lo hi lo lo lo else toIntSat (f32 a) r.mode r.rnd lo hi lo hi 0
    (BitVec.ofInt 32 v, fl)
/-- vcvt.i32.f32 (R127). -/
def execVcvtI32F32 (f : VR) (s : State) : Out := s.vectorWord (semVcvtI32F32 f)

def semVcvtF32N32 (f : VR) : Sem :=
  converts ((Instr.vcvtF32N32 f).uses 0) f fun r a => roundF32 (.fin false a.toNat 0) r.mode 0 r.rnd
/-- vcvt.f32.n32 (R127). -/
def execVcvtF32N32 (f : VR) (s : State) : Out := s.vectorWord (semVcvtF32N32 f)

def semVcvtN32F32 (f : VR) : Sem :=
  converts ((Instr.vcvtN32F32 f).uses 0) f fun r a =>
    let hi : Int := 2 ^ 32 - 1
    let (v, fl) := if r.sat = 2 then toIntSat (f32 a) r.mode r.rnd 0 hi hi hi hi else toIntSat (f32 a) r.mode r.rnd 0 hi 0 hi 0
    (BitVec.ofInt 32 v, fl)
/-- vcvt.n32.f32 (R127). -/
def execVcvtN32F32 (f : VR) (s : State) : Out := s.vectorWord (semVcvtN32F32 f)

/-- An f32 slot rounded to an integral value (R127). -/
def roundSlot (a : Slot) (mode rnd : Nat) : Slot × Flags :=
  match nanOf [f32 a] with
  | some (v, fl) => (slotOf v, fl)
  | none =>
    match f32 a with
    | .fin s m e =>
      let (v, inexact) := roundInt s m e mode rnd
      (slotOf (.fin s v.natAbs 0), if inexact then flagNX else 0)
    | _ => (a, 0)

def semVround (f : VR) : Sem := converts ((Instr.vround f).uses 0) f fun r a => roundSlot a r.mode r.rnd
/-- vround (R127). -/
def execVround (f : VR) (s : State) : Out := s.vectorWord (semVround f)

def semVclass (f : VR) : Sem :=
  elementwise ((Instr.vclass f).uses 0) f [f.va] false (.reg f.vd) fun _ _ _ xs => (1 <<< classBit (slotAt xs 0), 0)
/-- vclass (R128). -/
def execVclass (f : VR) (s : State) : Out := s.vectorWord (semVclass f)

/-! ### Integers (R129, R130) -/

/-- An element-wise word over integers: no flags, no rounding. -/
def ints (use : WordUse) (f : VR) (srcs : List (BitVec 7)) (x : Slot → Slot → Slot) : Sem :=
  elementwise use f srcs false (.reg f.vd) fun _ _ _ xs => (x (slotAt xs 0) (slotAt xs 1), 0)

/-- An exact integer result under the saturation field (R129): modulo 2^32, clamped signed, or clamped unsigned. -/
def saturate (sat : Nat) (op : Int → Int → Int) (a b : Slot) : Slot :=
  match sat with
  | 0 => BitVec.ofInt 32 (op a.toInt b.toInt)
  | 1 => BitVec.ofInt 32 (clampInt (-(2 ^ 31)) (2 ^ 31 - 1) (op a.toInt b.toInt))
  | _ => BitVec.ofInt 32 (clampInt 0 (2 ^ 32 - 1) (op (a.toNat : Int) (b.toNat : Int)))


def semVaddI32 (f : VR) : Sem := ints ((Instr.vaddI32 f).uses 0) f [f.va, f.vb] (saturate f.sat.toNat (· + ·))
/-- vadd.i32 (R129). -/
def execVaddI32 (f : VR) (s : State) : Out := s.vectorWord (semVaddI32 f)

def semVsubI32 (f : VR) : Sem := ints ((Instr.vsubI32 f).uses 0) f [f.va, f.vb] (saturate f.sat.toNat (· - ·))
/-- vsub.i32 (R129). -/
def execVsubI32 (f : VR) (s : State) : Out := s.vectorWord (semVsubI32 f)

def semVmulI32 (f : VR) : Sem := ints ((Instr.vmulI32 f).uses 0) f [f.va, f.vb] (saturate f.sat.toNat (· * ·))
/-- vmul.i32 (R129). -/
def execVmulI32 (f : VR) (s : State) : Out := s.vectorWord (semVmulI32 f)

def semVmulh (f : VR) : Sem :=
  ints ((Instr.vmulh f).uses 0) f [f.va, f.vb] fun a b => BitVec.ofInt 32 (a.toInt * b.toInt / 2 ^ 32)
/-- vmulh (R129). -/
def execVmulh (f : VR) (s : State) : Out := s.vectorWord (semVmulh f)

def semVmulhn (f : VR) : Sem :=
  ints ((Instr.vmulhn f).uses 0) f [f.va, f.vb] fun a b => BitVec.ofNat 32 (a.toNat * b.toNat / 2 ^ 32)
/-- vmulhn (R129). -/
def execVmulhn (f : VR) (s : State) : Out := s.vectorWord (semVmulhn f)

def semVand (f : VR) : Sem := ints ((Instr.vand f).uses 0) f [f.va, f.vb] (· &&& ·)
/-- vand (R129). -/
def execVand (f : VR) (s : State) : Out := s.vectorWord (semVand f)

def semVor (f : VR) : Sem := ints ((Instr.vor f).uses 0) f [f.va, f.vb] (· ||| ·)
/-- vor (R129). -/
def execVor (f : VR) (s : State) : Out := s.vectorWord (semVor f)

def semVxor (f : VR) : Sem := ints ((Instr.vxor f).uses 0) f [f.va, f.vb] (· ^^^ ·)
/-- vxor (R129). -/
def execVxor (f : VR) (s : State) : Out := s.vectorWord (semVxor f)

def semVshl (f : VR) : Sem :=
  ints ((Instr.vshl f).uses 0) f [f.va, f.vb] fun a b => saturate f.sat.toNat (fun x _ => x * 2 ^ (b.toNat % 32)) a b
/-- vshl (R129). -/
def execVshl (f : VR) (s : State) : Out := s.vectorWord (semVshl f)

def semVshr (f : VR) : Sem := ints ((Instr.vshr f).uses 0) f [f.va, f.vb] fun a b => a >>> (b.toNat % 32)
/-- vshr (R129). -/
def execVshr (f : VR) (s : State) : Out := s.vectorWord (semVshr f)

def semVsra (f : VR) : Sem := ints ((Instr.vsra f).uses 0) f [f.va, f.vb] fun a b => a.sshiftRight (b.toNat % 32)
/-- vsra (R129). -/
def execVsra (f : VR) (s : State) : Out := s.vectorWord (semVsra f)

def semVminI32 (f : VR) : Sem := ints ((Instr.vminI32 f).uses 0) f [f.va, f.vb] fun a b => if b.slt a then b else a
/-- vmin.i32 (R129). -/
def execVminI32 (f : VR) (s : State) : Out := s.vectorWord (semVminI32 f)

def semVmaxI32 (f : VR) : Sem := ints ((Instr.vmaxI32 f).uses 0) f [f.va, f.vb] fun a b => if a.slt b then b else a
/-- vmax.i32 (R129). -/
def execVmaxI32 (f : VR) (s : State) : Out := s.vectorWord (semVmaxI32 f)

def semVminn (f : VR) : Sem := ints ((Instr.vminn f).uses 0) f [f.va, f.vb] fun a b => if b.ult a then b else a
/-- vminn (R129). -/
def execVminn (f : VR) (s : State) : Out := s.vectorWord (semVminn f)

def semVmaxn (f : VR) : Sem := ints ((Instr.vmaxn f).uses 0) f [f.va, f.vb] fun a b => if a.ult b then b else a
/-- vmaxn (R129). -/
def execVmaxn (f : VR) (s : State) : Out := s.vectorWord (semVmaxn f)

/-- A VI word's register fields as a VR word has them. -/
def viFields (f : VI) : VR := ⟨f.vd, f.va, 0, 0, f.mask, false, 0, f.wa, false, false, 0, 0⟩

/-- A word that combines each active element with the immediate (R130). -/
def imms (use : WordUse) (f : VI) (x : Slot → Slot) : Sem := ints use (viFields f) [f.va] fun a _ => x a

def semVaddi (f : VI) : Sem := imms ((Instr.vaddi f).uses 0) f (· + f.imm)
/-- vaddi (R130). -/
def execVaddi (f : VI) (s : State) : Out := s.vectorWord (semVaddi f)

def semVandi (f : VI) : Sem := imms ((Instr.vandi f).uses 0) f (· &&& f.imm)
/-- vandi (R130). -/
def execVandi (f : VI) (s : State) : Out := s.vectorWord (semVandi f)

def semVori (f : VI) : Sem := imms ((Instr.vori f).uses 0) f (· ||| f.imm)
/-- vori (R130). -/
def execVori (f : VI) (s : State) : Out := s.vectorWord (semVori f)

def semVxori (f : VI) : Sem := imms ((Instr.vxori f).uses 0) f (· ^^^ f.imm)
/-- vxori (R130). -/
def execVxori (f : VI) (s : State) : Out := s.vectorWord (semVxori f)

def semVshli (f : VI) : Sem := imms ((Instr.vshli f).uses 0) f (· <<< (f.imm.toNat % 32))
/-- vshli (R130). -/
def execVshli (f : VI) (s : State) : Out := s.vectorWord (semVshli f)

def semVshri (f : VI) : Sem := imms ((Instr.vshri f).uses 0) f (· >>> (f.imm.toNat % 32))
/-- vshri (R130). -/
def execVshri (f : VI) (s : State) : Out := s.vectorWord (semVshri f)

def semVsrai (f : VI) : Sem := imms ((Instr.vsrai f).uses 0) f (·.sshiftRight (f.imm.toNat % 32))
/-- vsrai (R130). -/
def execVsrai (f : VI) (s : State) : Out := s.vectorWord (semVsrai f)

/-! ### Compare to mask (R131) -/

/-- A condition on values: eq, ne, lt, le, gt, ge, un, ord. -/
def fpCond (cond : Nat) (x y : Num) : Bool :=
  match cond with
  | 0 => eqNum x y
  | 1 => !eqNum x y
  | 2 => ltNum x y
  | 3 => ltNum x y || eqNum x y
  | 4 => ltNum y x
  | 5 => ltNum y x || eqNum x y
  | 6 => x.isNaN || y.isNaN
  | _ => !(x.isNaN || y.isNaN)

/-- A condition on integers: eq, ne, lt, le, gt, ge. -/
def intCond (cond : Nat) (x y : Int) : Bool :=
  match cond with
  | 0 => x == y
  | 1 => x != y
  | 2 => x < y
  | 3 => x ≤ y
  | 4 => y < x
  | _ => y ≤ x

/-- One compare under a type and a condition, with its flags (R131). -/
def compareSlots (ty cond : Nat) (a b : Slot) : Bool × Flags :=
  if ty < 2 then
    let x := fpDec (ty == 1) a
    let y := fpDec (ty == 1) b
    (fpCond cond x y, cmpFlags (2 ≤ cond && cond < 6) x y)
  else if ty = 2 then (intCond cond a.toInt b.toInt, 0)
  else (intCond cond (a.toNat : Int) (b.toNat : Int), 0)

def semVcmp (ty : BitVec 2) (cond : BitVec 3) (f : VR) : Sem :=
  elementwise ((Instr.vcmp ty cond f).uses 0) f [f.va, f.vb] false (.mask f.vc.toNat) fun _ _ _ xs =>
    let (r, fl) := compareSlots ty.toNat cond.toNat (slotAt xs 0) (slotAt xs 1)
    (if r then 1 else 0, fl)
/-- vcmp (R131). -/
def execVcmp (ty : BitVec 2) (cond : BitVec 3) (f : VR) (s : State) : Out := s.vectorWord (semVcmp ty cond f)

end Sys2Proof.Machine
end

