-- ==== Sys2Proof/Machine/VecPerm.lean ====
section
/-! DEFINITION. Mask words and permutes (R132, R133, R136, R137). -/
namespace Sys2Proof.Machine

/-! ### Mask logic (R132) -/

/-- A word that computes a bit of a mask destination from bits of its mask operands. -/
def maskLogic (use : WordUse) (f : VR) (x : Bool → Bool → Bool) : Sem :=
  elementwise use f [] false (.mask f.vd.toNat) fun k i _ _ =>
    (if x ((k.h.mask f.va.toNat).getLsbD i) ((k.h.mask f.vb.toNat).getLsbD i) then 1 else 0, 0)

def semMand (f : VR) : Sem := maskLogic ((Instr.mand f).uses 0) f fun a b => a && b
/-- mand (R132). -/
def execMand (f : VR) (s : State) : Out := s.vectorWord (semMand f)

def semMor (f : VR) : Sem := maskLogic ((Instr.mor f).uses 0) f fun a b => a || b
/-- mor (R132). -/
def execMor (f : VR) (s : State) : Out := s.vectorWord (semMor f)

def semMxor (f : VR) : Sem := maskLogic ((Instr.mxor f).uses 0) f fun a b => a != b
/-- mxor (R132). -/
def execMxor (f : VR) (s : State) : Out := s.vectorWord (semMxor f)

def semMandn (f : VR) : Sem := maskLogic ((Instr.mandn f).uses 0) f fun a b => a && !b
/-- mandn (R132). -/
def execMandn (f : VR) (s : State) : Out := s.vectorWord (semMandn f)

def semMnot (f : VR) : Sem := maskLogic ((Instr.mnot f).uses 0) f fun a _ => !a
/-- mnot (R132). -/
def execMnot (f : VR) (s : State) : Out := s.vectorWord (semMnot f)

def semMset (f : VR) : Sem := maskLogic ((Instr.mset f).uses 0) f fun _ _ => true
/-- mset (R132). -/
def execMset (f : VR) (s : State) : Out := s.vectorWord (semMset f)

def semMclr (f : VR) : Sem := maskLogic ((Instr.mclr f).uses 0) f fun _ _ => false
/-- mclr (R132). -/
def execMclr (f : VR) (s : State) : Out := s.vectorWord (semMclr f)

def semMfromv (f : VR) : Sem :=
  elementwise ((Instr.mfromv f).uses 0) f [f.va] false (.mask f.vd.toNat) fun _ _ _ xs => (slotAt xs 0, 0)
/-- mfromv (R132): the bit pattern counts, so -0 is nonzero. -/
def execMfromv (f : VR) (s : State) : Out := s.vectorWord (semMfromv f)

def semMtov (f : VR) : Sem :=
  elementwise ((Instr.mtov f).uses 0) f [] false (.reg f.vd) fun k i _ _ =>
    (if (k.h.mask f.va.toNat).getLsbD i then 1 else 0, 0)
/-- mtov (R132). -/
def execMtov (f : VR) (s : State) : Out := s.vectorWord (semMtov f)

/-! ### Single results (R91) and mask counts (R133) -/

/-- A single result written (R91): element 0 of a vector register, or a whole s register, sign-extended for an i32. -/
def VC.single (k : VC) (d : BitVec 7) (x : Slot) (sign : Bool) : VC :=
  let n := d.toNat
  if n < 64 then { k with h := k.h.setElem n 0 x }
  else if 80 ≤ n && n < 96 then
    { k with h := { k.h with sc := k.h.sc.set (BitVec.ofNat 5 (n - 64)) (if sign then x.signExtend 64 else x.setWidth 64) } }
  else k

/-- The elements that count: active, with the bit of va set (R133). -/
def VC.counting (k : VC) (w : VW) (f : VR) : List Nat :=
  (k.allActive w f.mask).filter fun i => (k.h.mask f.va.toNat).getLsbD i

def semMpop (f : VR) : Sem :=
  wholeWord ((Instr.mpop f).uses 0) f.mask (fun _ _ => .ok ()) fun k w =>
    .ok (k.single f.vd (BitVec.ofNat 32 (k.counting w f).length) false)
/-- mpop (R133). -/
def execMpop (f : VR) (s : State) : Out := s.vectorWord (semMpop f)

def semMfirst (f : VR) : Sem :=
  wholeWord ((Instr.mfirst f).uses 0) f.mask (fun _ _ => .ok ()) fun k w =>
    .ok (k.single f.vd (match k.counting w f with
      | i :: _ => BitVec.ofNat 32 i
      | [] => BitVec.allOnes 32) true)
/-- mfirst (R133). -/
def execMfirst (f : VR) (s : State) : Out := s.vectorWord (semMfirst f)

def semMlist (f : VR) : Sem :=
  wholeWord ((Instr.mlist f).uses 0) f.mask (fun _ _ => .ok ()) fun k w =>
    .ok { k with h := { k.h with l := k.h.l.setIfInBounds f.vd.toNat (k.counting w f) } }
/-- mlist (R133). -/
def execMlist (f : VR) (s : State) : Out := s.vectorWord (semMlist f)

/-! ### Permutes (R136, R137) -/

def semVid (f : VR) : Sem :=
  elementwise ((Instr.vid f).uses 0) f [] false (.reg f.vd) fun _ i _ _ => (BitVec.ofNat 32 i, 0)
/-- vid (R136). -/
def execVid (f : VR) (s : State) : Out := s.vectorWord (semVid f)

def semVmv (f : VR) : Sem :=
  elementwise ((Instr.vmv f).uses 0) f [f.va] false (.reg f.vd) fun _ _ _ xs => (slotAt xs 0, 0)
/-- vmv (R136). -/
def execVmv (f : VR) (s : State) : Out := s.vectorWord (semVmv f)

def semVsel (f : VR) : Sem :=
  elementwise ((Instr.vsel f).uses 0) f [f.va, f.vb] false (.reg f.vd) fun k i _ xs =>
    (if (k.h.mask f.vc.toNat).getLsbD i then slotAt xs 0 else slotAt xs 1, 0)
/-- vsel (R136). -/
def execVsel (f : VR) (s : State) : Out := s.vectorWord (semVsel f)

/-- An element of a vector register written; elements at and above MVL do not exist (R59). -/
def VC.putElem (k : VC) (w : VW) (d : BitVec 7) (i : Nat) (x : Slot) : VC :=
  if d.toNat < 64 && i < mvlOf w.env.nregs then { k with h := k.h.setElem d.toNat i x } else k

/-- Elements of a destination written from values that were all read before (R134). -/
def VC.putAll (k : VC) (w : VW) (d : BitVec 7) (xs : List (Nat × Slot)) : VC :=
  xs.foldl (fun k p => k.putElem w d p.1 p.2) k

/-- A whole permute: the elements it writes, from the state before it. -/
def permutes (use : WordUse) (f : VR) (x : VC → VW → List (Nat × Slot)) : Sem :=
  wholeWord use f.mask (fun _ _ => .ok ()) fun k w => .ok (k.putAll w f.vd (x k w))

def semVcompress (f : VR) : Sem :=
  permutes ((Instr.vcompress f).uses 0) f fun k w => numbered 0 ((k.allActive w f.mask).map (k.elemOf f.va))
/-- vcompress (R137). -/
def execVcompress (f : VR) (s : State) : Out := s.vectorWord (semVcompress f)

def semVexpand (f : VR) : Sem :=
  permutes ((Instr.vexpand f).uses 0) f fun k w =>
    (numbered 0 (k.allActive w f.mask)).map fun p => (p.2, k.elemOf f.va p.1)
/-- vexpand (R137). -/
def execVexpand (f : VR) (s : State) : Out := s.vectorWord (semVexpand f)

def semVperm (f : VR) : Sem :=
  permutes ((Instr.vperm f).uses 0) f fun k w => (k.allActive w f.mask).map fun i =>
    let j := (k.elemOf f.vb i).toNat
    (i, if j < w.vl then k.elemOf f.va j else 0)
/-- vperm (R137). -/
def execVperm (f : VR) (s : State) : Out := s.vectorWord (semVperm f)

def semVslideup (f : VR) : Sem :=
  permutes ((Instr.vslideup f).uses 0) f fun k w =>
    let n := (k.broadcast f.vb).toNat
    ((k.allActive w f.mask).filter (n ≤ ·)).map fun i => (i, k.elemOf f.va (i - n))
/-- vslideup (R137). -/
def execVslideup (f : VR) (s : State) : Out := s.vectorWord (semVslideup f)

def semVslidedn (f : VR) : Sem :=
  permutes ((Instr.vslidedn f).uses 0) f fun k w =>
    let n := (k.broadcast f.vb).toNat
    (k.allActive w f.mask).map fun i => (i, if i + n < w.vl then k.elemOf f.va (i + n) else 0)
/-- vslidedn (R137). -/
def execVslidedn (f : VR) (s : State) : Out := s.vectorWord (semVslidedn f)

def semVbcast (f : VR) : Sem :=
  permutes ((Instr.vbcast f).uses 0) f fun k w =>
    let n := (k.broadcast f.vb).toNat
    (k.allActive w f.mask).map fun i => (i, if n < w.vl then k.elemOf f.va n else 0)
/-- vbcast (R137). -/
def execVbcast (f : VR) (s : State) : Out := s.vectorWord (semVbcast f)

end Sys2Proof.Machine
end

