-- ==== Sys2Proof/Machine/VecReduce.lean ====
section
/-! DEFINITION. Reductions, merge and top-k, and the expert words of major 0x0C (R45 to R47, R138 to R142, R252 to R254). -/
namespace Sys2Proof.Machine

/-! ### Trees (R45, R46) -/

/-- A node of a tree: absent, or a slot with the flags raised below it. -/
abbrev Node := Option (Slot × Flags)

/-- Two nodes combined (R45). -/
def joinNodes (add : Slot → Slot → Slot × Flags) (x y : Node) : Node :=
  match x, y with
  | some (a, fa), some (b, fb) => let (c, fc) := add a b; some (c, fa ||| fb ||| fc)
  | some a, none => some a
  | none, y => y

/-- One level of the adjacent-pair tree. -/
def treeLevel (add : Slot → Slot → Slot × Flags) : List Node → List Node
  | x :: y :: t => joinNodes add x y :: treeLevel add t
  | l => l

/-- Levels of the tree. -/
def treeLevels (add : Slot → Slot → Slot × Flags) : Nat → List Node → List Node
  | 0, l => l
  | n + 1, l => treeLevels add n (treeLevel add l)

/-- The root of the tree over at most 1,024 positions. -/
def treeRoot (add : Slot → Slot → Slot × Flags) (l : List Node) : Node := (treeLevels add 10 l).head?.getD none

/-- The FP32 tree sum to nearest even over the present terms, without flags, as queries compute it (R52); absent gives +0. -/
def treeSum (l : List (Option Slot)) : Slot :=
  match treeRoot (fun a b => (addRne a b, 0)) (l.map fun x => x.map fun v => (v, 0)) with
  | some (v, _) => v
  | none => 0

/-- The rounding mode of a reduction: a dynamic SR rounds to nearest even (R45, R138). -/
def reduceMode (f : BitVec 3) (vround : BitVec 5) : Nat :=
  let m := roundMode f vround
  if m = rsr then rne else m

/-- An addition in the type of a reduction. -/
def addIn (bf : Bool) (mode sat : Nat) (a b : Slot) : Slot × Flags :=
  let (v, fl) := addNum mode (fpDec bf a) (fpDec bf b)
  let (x, fl') := fpRnd bf v ⟨mode, sat, 0⟩
  (x, fl ||| fl')

/-- The nodes of a word's elements below VL: its active elements. -/
def VC.nodes (k : VC) (w : VW) (m : BitVec 5) (x : Nat → Slot) : List Node :=
  (upFrom 0 w.vl).map fun i => if k.h.selects m i then some (x i, 0) else none

/-- The exception mask of a whole word: the listed bits, all others zero (R121, R138). -/
def VC.excMask (k : VC) (f : VR) (bits : List Nat) : VC :=
  if f.xm then { k with h := { k.h with m := k.h.m.setIfInBounds f.xd.toNat (maskOf bits) } } else k

/-- A reduction to one result (R138): its value and flags from the state. -/
def reduces (use : WordUse) (f : VR) (sign : Bool) (x : VC → VW → Slot × Flags) : Sem :=
  wholeWord use f.mask (fun _ _ => .ok ()) fun k w => do
    let (v, fl) := x k w
    let k1 ← k.raise fl
    .ok ((k1.single f.vd v sign).excMask f (if indicator fl then [0] else []))

/-- The root, or +0 when nothing is active. -/
def rootOr (z : Slot) (n : Node) : Slot × Flags := n.getD (z, 0)

def semVredsumF32 (f : VR) : Sem :=
  reduces ((Instr.vredsumF32 f).uses 0) f false fun k w =>
    rootOr 0 (treeRoot (addIn false (reduceMode f.rnd w.env.vround) f.sat.toNat) (k.nodes w f.mask (k.elemOf f.va)))
/-- vredsum.f32 (R138). -/
def execVredsumF32 (f : VR) (s : State) : Out := s.vectorWord (semVredsumF32 f)

def semVredsumBf16 (f : VR) : Sem :=
  reduces ((Instr.vredsumBf16 f).uses 0) f false fun k w =>
    rootOr 0 (treeRoot (addIn true (reduceMode f.rnd w.env.vround) f.sat.toNat)
      (k.nodes w f.mask fun i => fpSlot true (k.elemOf f.va i)))
/-- vredsum.bf16 (R138). -/
def execVredsumBf16 (f : VR) (s : State) : Out := s.vectorWord (semVredsumBf16 f)

/-- The largest or smallest active element, with +0 above -0; any NaN gives the canonical one (R47). -/
def extreme (max : Bool) (none' : Slot) (xs : List Slot) : Slot × Flags :=
  let fl : Flags := if xs.any fun x => (f32 x).isSNaN then flagNV else 0
  if xs.any fun x => (f32 x).isNaN then (0x7FC00000, fl) else
  match xs with
  | [] => (none', 0)
  | x :: t => (t.foldl (fun a b => (minMax max f32 slotOf a b).1) x, 0)

def semVredmax (f : VR) : Sem :=
  reduces ((Instr.vredmax f).uses 0) f false fun k w => extreme true 0xFF800000 ((k.allActive w f.mask).map (k.elemOf f.va))
/-- vredmax (R138). -/
def execVredmax (f : VR) (s : State) : Out := s.vectorWord (semVredmax f)

def semVredmin (f : VR) : Sem :=
  reduces ((Instr.vredmin f).uses 0) f false fun k w => extreme false 0x7F800000 ((k.allActive w f.mask).map (k.elemOf f.va))
/-- vredmin (R138). -/
def execVredmin (f : VR) (s : State) : Out := s.vectorWord (semVredmin f)

def semVredsumI32 (f : VR) : Sem :=
  reduces ((Instr.vredsumI32 f).uses 0) f true fun k w =>
    (((k.allActive w f.mask).map (k.elemOf f.va)).foldl (fun a b => a + b) 0, 0)
/-- vredsum.i32 (R138). -/
def execVredsumI32 (f : VR) (s : State) : Out := s.vectorWord (semVredsumI32 f)

/-- The scale byte of block j in a register of scales (R139). -/
def scaleByte (x : Nat → Slot) (j : Nat) : Nat := (x (j / 4)).toNat / 2 ^ (8 * (j % 4)) % 256

/-- A block sum scaled by its block's factor (R46). -/
def scaleNode (mode sat : Nat) (s : Nat) (n : Node) : Node :=
  n.map fun (v, fl) =>
    if s = 255 then (0x7FC00000, fl) else
    let (x, fl1) := (nanOf [f32 v]).getD ((f32 v).scale ((s : Int) - 127), 0)
    let (y, fl2) := roundF32 x mode sat 0
    (y, fl ||| fl1 ||| fl2)

def semVredsumb (f : VR) : Sem :=
  reduces ((Instr.vredsumb f).uses 0) f false fun k w =>
    let mode := reduceMode f.rnd w.env.vround
    let add := addIn false mode f.sat.toNat
    let blocks := treeLevels add 2 (k.nodes w f.mask (k.elemOf f.va))
    rootOr 0 (treeRoot add ((numbered 0 blocks).map fun p => scaleNode mode f.sat.toNat (scaleByte (k.elemOf f.vb) p.1) p.2))
/-- vredsumb (R46, R138, R139). -/
def execVredsumb (f : VR) (s : State) : Out := s.vectorWord (semVredsumb f)

/-- The prefix sums of the active elements, each with the flags of its own addition (R47). -/
def scanGo (add : Slot → Slot → Slot × Flags) : Option Slot → List (Nat × Slot) → List (Nat × Slot × Flags)
  | _, [] => []
  | none, (i, x) :: t => (i, x, 0) :: scanGo add (some x) t
  | some a, (i, x) :: t => let (y, fl) := add a x; (i, y, fl) :: scanGo add (some y) t

def semVscanF32 (f : VR) : Sem :=
  wholeWord ((Instr.vscanF32 f).uses 0) f.mask (fun _ _ => .ok ()) fun k w => do
    let add := addIn false (reduceMode f.rnd w.env.vround) f.sat.toNat
    let r := scanGo add none ((k.allActive w f.mask).map fun i => (i, k.elemOf f.va i))
    let k1 ← k.raise (r.foldl (fun a x => a ||| x.2.2) 0)
    .ok ((k1.putAll w f.vd (r.map fun x => (x.1, x.2.1))).excMask f ((r.filter fun x => indicator x.2.2).map (·.1)))
/-- vscan.f32 (R47, R138). -/
def execVscanF32 (f : VR) (s : State) : Out := s.vectorWord (semVscanF32 f)

/-- The best element with its index: a NaN at its lowest index wins, else the largest at its lowest index (R47). -/
def bestOf : List (Nat × Slot) → Option (Nat × Slot)
  | [] => none
  | (i, x) :: t =>
    match bestOf t with
    | none => some (i, x)
    | some (j, y) =>
      if (f32 x).isNaN then some (i, x)
      else if (f32 y).isNaN then some (j, y)
      else if ltZero (f32 x) (f32 y) then some (j, y) else some (i, x)

def semVredmaxi (f : VR) : Sem :=
  wholeWord ((Instr.vredmaxi f).uses 0) f.mask (fun _ _ => .ok ()) fun k w => do
    let xs := (k.allActive w f.mask).map fun i => (i, k.elemOf f.va i)
    let fl : Flags := if xs.any fun p => (f32 p.2).isSNaN then flagNV else 0
    let (i, v) : Slot × Slot := match bestOf xs with
      | some (i, x) => (BitVec.ofNat 32 i, if (f32 x).isNaN then x ||| 0x00400000 else x)
      | none => (0xFFFFFFFF, 0xFF800000)
    let k1 ← k.raise fl
    .ok ((k1.putAll w f.vd [(0, v), (1, i)]).excMask f (if indicator fl then [0] else []))
/-- vredmaxi (R47, R138). -/
def execVredmaxi (f : VR) (s : State) : Out := s.vectorWord (semVredmaxi f)

/-! ### Merge and top-k (R140 to R142) -/

/-- An entry: its key, its index, its element position. -/
structure Entry where
  key : Slot
  idx : Slot
  pos : Nat
  deriving DecidableEq, Repr

/-- Keys in rank order: x stands before y (R140). -/
def keyBefore (x y : Slot) : Bool :=
  if (f32 x).isNaN then !(f32 y).isNaN else if (f32 y).isNaN then false else ltZero (f32 y) (f32 x)

/-- An entry stands before another (R140). before: the order of the keys. -/
def entryBefore (before : Slot → Slot → Bool) (x y : Entry) : Bool :=
  if before x.key y.key then true else if before y.key x.key then false
  else if x.idx == y.idx then x.pos < y.pos else x.idx.ult y.idx

/-- An entry put into a ranked list. -/
def rankIn (before : Slot → Slot → Bool) (x : Entry) : List Entry → List Entry
  | [] => [x]
  | y :: t => if entryBefore before x y then x :: y :: t else y :: rankIn before x t

/-- Entries in rank order. -/
def ranked (before : Slot → Slot → Bool) (l : List Entry) : List Entry := l.foldr (fun x acc => rankIn before x acc) []

/-- The best n entries, with the filler where fewer are present (R140): keys and indices. -/
def bestEntries (before : Slot → Slot → Bool) (n : Nat) (l : List Entry) : List (Slot × Slot) :=
  let r := ((ranked before l).take n).map fun e => (e.key, e.idx)
  r ++ List.replicate (n - r.length) (0xFF800000, 0xFFFFFFFF)

/-- The entries of a word in a range of elements. -/
def VC.entries (k : VC) (w : VW) (f : VR) (lo n : Nat) : List Entry :=
  ((k.allActive w f.mask).filter fun i => lo ≤ i && i < lo + n).map fun i => ⟨k.elemOf f.va i, k.elemOf f.vb i, i⟩

/-- Keys and indices written to a pair of registers from an element on. -/
def VC.putPairs (k : VC) (w : VW) (d : BitVec 7) (lo : Nat) (l : List (Slot × Slot)) : VC :=
  let n := numbered lo l
  (k.putAll w d (n.map fun p => (p.1, p.2.1))).putAll w (d + 1) (n.map fun p => (p.1, p.2.2))

/-- A power of two from 1 to 512 (R141). -/
def mergeOk (n : Nat) : Bool := [1, 2, 4, 8, 16, 32, 64, 128, 256, 512].contains n

def semVmergek (f : VR) : Sem :=
  let body := wholeWord ((Instr.vmergek f).uses 0) f.mask (fun _ _ => .ok ()) fun k w =>
    let n := (k.broadcast f.vc).toNat
    let out := (upFrom 0 ((w.vl + 2 * n - 1) / (2 * n))).map fun j => (j * n, bestEntries keyBefore n (k.entries w f (2 * j * n) (2 * n)))
    .ok (out.foldl (fun k p => k.putPairs w f.vd p.1 p.2) k)
  { body with early := fun k _ => if mergeOk (k.broadcast f.vc).toNat then .ok () else vcause 1 }
/-- vmergek (R141). -/
def execVmergek (f : VR) (s : State) : Out := s.vectorWord (semVmergek f)

def semVtopk (f : VR) : Sem :=
  wholeWord ((Instr.vtopk f).uses 0) f.mask (fun _ _ => .ok ()) fun k w =>
    let n := min (k.broadcast f.vc).toNat w.vl
    .ok (k.putPairs w f.vd 0 (bestEntries keyBefore n (k.entries w f 0 w.vl)))
/-- vtopk (R142). -/
def execVtopk (f : VR) (s : State) : Out := s.vectorWord (semVtopk f)

/-! ### Expert words (R252 to R254) -/

/-- A token counted in the table (R252): the saturating counter and its sticky bit; the flag says that it was full. -/
def State.countExpert (s : State) (ctx e : Nat) : State × Bool :=
  let n := (s.context ctx).expbase + e
  let x := s.expert n
  if x.counter == 0xFFFF then (s.setExpert n { x with csat := true }, true)
  else (s.setExpert n { x with counter := x.counter + 1 }, false)

/-- One token of an xcount: its table counter and its bin of the histogram. -/
def VC.countToken (k : VC) (w : VW) (d : BitVec 7) (e0 e : Nat) : VC :=
  let (s1, full) := k.st.countExpert k.h.ctx e
  let h1 := if full then { k.h with csat := true } else k.h
  let k1 : VC := { k with st := s1, h := h1 }
  if e0 ≤ e && e < e0 + w.vl && d.toNat < 64 then
    let x := k1.h.elem d.toNat (e - e0)
    if x = 0xFFFFFFFF then { k1 with h := { k1.h with hsat := true } } else k1.putElem w d (e - e0) (x + 1)
  else k1

def semXcount (f : VR) : Sem :=
  wholeWord ((Instr.xcount f).uses 0) f.mask
    (fun k w =>
      let n := (k.st.context k.h.ctx).nexp
      if (k.allActive w f.mask).any fun i => let e := (k.elemOf f.va i).toNat; 16383 < e || n ≤ e then vcause 1 else .ok ())
    fun k w =>
      let es := (k.allActive w f.mask).map fun i => (k.elemOf f.va i).toNat
      .ok (es.foldl (fun k e => k.countToken w f.vd (k.broadcast f.vb).toNat e) k)
/-- xcount (R252). -/
def execXcount (f : VR) (s : State) : Out := s.vectorWord (semXcount f)

/-- E of an xcsel from its s register (R253). -/
def Hart.experts (h : Hart) (f : VR) : Nat := (h.sc.get (BitVec.ofNat 5 (f.vb.toNat - 64))).toNat % 32

/-- The value of xcsel's s register keeps its layout: E from 1 to 16, k to 1,024, every other bit 0 (R253). -/
def selOk (v : Word) : Bool :=
  let e := v.toNat % 32
  let k := v.toNat / 2 ^ 16 % 2 ^ 11
  1 ≤ e && e ≤ 16 && k ≤ 1024 && v.toNat == k * 2 ^ 16 + e

/-- The rank of each active token of one expert, in rank order (R253). -/
def VC.ranksOf (k : VC) (w : VW) (m : BitVec 5) (r : Nat) : List Nat :=
  (ranked keyBefore ((k.allActive w m).map fun i => ⟨k.h.elem r i, BitVec.ofNat 32 i, i⟩)).map (·.pos)

/-- xcsel over e experts (R253). -/
def semXcsel (f : VR) (e : Nat) : Sem where
  use := (Instr.xcsel f).uses e
  mask := f.mask
  times := e
  early := fun k _ => if selOk (k.h.sc.get (BitVec.ofNat 5 (f.vb.toNat - 64))) then .ok () else vcause 1
  elem := fun k w i =>
    if i + 1 != w.vl then .ok k else
    let n := min ((k.broadcast f.vb).toNat / 2 ^ 16 % 2 ^ 11) w.vl
    let out := (upFrom 0 e).map fun x =>
      let r := (k.ranksOf w f.mask (f.va.toNat + x)).take n
      (x, (upFrom 0 w.vl).map fun i => match (numbered 0 r).find? fun p => p.2 == i with
        | some p => (i, BitVec.ofNat 32 p.1)
        | none => (i, (0xFFFFFFFF : Slot)))
    .ok (out.foldl (fun k p => k.putAll w (f.vd + BitVec.ofNat 7 p.1) p.2) k)
/-- xcsel (R253): E is read from its s register at issue. -/
def execXcsel (f : VR) (s : State) : Out :=
  match s.cur with
  | .vec slot => s.vectorWord (semXcsel f (((s.hart slot).map fun h => h.experts f).getD 0))
  | _ => .fault .noParty

end Sys2Proof.Machine
end

