-- ==== Sys2Proof/Machine/VecMem.lean ====
section
/-! DEFINITION. Vector memory words: loads and stores with their scales, segment loads, append queues, prefetch, accumulator
rows, atomics and reduce-on-write (R33 to R36, R144, R145, R150 to R157, R183, R203, R222, R224). -/
namespace Sys2Proof.Machine

/-! ### Element accesses -/

/-- How a memory word reaches its elements: the nibble address of an element, and the stride of its strip hint (R150, R286). -/
structure Reach where
  nib     : VC → VW → Nat → Nat
  stride  : VC → VW → Int
  indexed : Bool

/-- The data address of a VM word: its base and its offset of 32-byte units (R84, R150). -/
def vmAddr (f : VM) (k : VC) (w : VW) : Nat := (k.scalarOf w f.base + 32 * f.off.signExtend 64).toNat

/-- Units of an element address: nibbles for 4-bit formats, else bytes (R150). -/
def unitNibs (fmt : BitVec 6) : Int := if fmtBits fmt = 4 then 1 else 2

/-- The nibble address d units beyond a byte address. -/
def nibAt (fmt : BitVec 6) (base : Nat) (d : Int) : Nat := nibWrap (((2 * base : Nat) : Int) + d * unitNibs fmt)

/-- The size of an element in units of its address. -/
def fmtUnits (fmt : BitVec 6) : Nat := if fmtBits fmt = 4 then 1 else fmtBits fmt / 8

def unitReach (f : VM) : Reach where
  nib := fun k w i => nibAt f.fmt (vmAddr f k w) ((i * fmtUnits f.fmt : Nat) : Int)
  stride := fun _ _ => (fmtUnits f.fmt : Nat)
  indexed := false

def strideReach (f : VM) : Reach where
  nib := fun k w i => nibAt f.fmt (vmAddr f k w) ((i : Int) * (k.scalarOf w (f.idx.setWidth 5)).toInt)
  stride := fun k w => (k.scalarOf w (f.idx.setWidth 5)).toInt
  indexed := false

def indexReach (f : VM) : Reach where
  nib := fun k w i => nibAt f.fmt (vmAddr f k w) ((k.h.elem f.idx.toNat i).toNat : Int)
  stride := fun _ _ => 0
  indexed := true

/-- One byte of a scale array (R152): the address of the array follows the base register; the offset does not apply. -/
def scaleNib (f : VM) (k : VC) (w : VW) (j : Nat) : Nat := nibAt 9 ((k.scalarOf w (f.base + 1)).toNat) (j : Int)

/-- A trap at an element: no hint once the probe has succeeded (R286). -/
def elemTrap (f : VM) (kind : Nat) (r : Reach) (c va : Nat) : Trap :=
  { cause := c, addr := va, access := accessField kind f.cls.toNat f.fmt.toNat r.indexed }

/-- A probe fault: with the strip hint, VL less the issue index and the stride (R286). -/
def probeTrap (f : VM) (kind : Nat) (r : Reach) (k : VC) (w : VW) (c va : Nat) : Trap :=
  { elemTrap f kind r c va with hcount := w.vl - w.start, hstride := if r.indexed then 0 else r.stride k w }

/-- One thing that an element touches at the probe: a use, a format, a nibble address. -/
abbrev Touch := Use × BitVec 6 × Nat

/-- The first of an element's touches whose check fails: the cause and the address. -/
def VC.touchFault (k : VC) (xs : List Touch) : Option (Nat × Nat) :=
  xs.findSome? fun (u, c, nib) => match k.st.elemPlace k.who u c nib with
    | .ok _ => none
    | .error e => some (e, nib / 2)

/-- The lowest element whose touches fail (R72). -/
def VC.probeFault (k : VC) (xs : List (Nat × List Touch)) : Option (Nat × Nat × Nat) :=
  xs.findSome? fun (i, ts) => (k.touchFault ts).map fun e => (i, e)

/-- The early read of a member's element at a nibble address, when it was made. -/
def VC.early? (k : VC) (no : Nat) (c : BitVec 6) (nib : Nat) : Option Ahead :=
  k.ahead.find? fun a => a.no == no && a.nib == nib && a.bytes.length == fmtBytes c

/-- Read one element early (R145, R235): its bytes as they stand, and the error they meet. One whose check fails is read as it commits. -/
def VC.readAhead (no : Nat) (u : Use) (k : VC) (x : BitVec 6 × Nat) : VC :=
  if (k.early? no x.1 x.2).isSome then k else
  match k.st.elemPlace k.who u x.1 x.2 with
  | .error _ => k
  | .ok p => { k with ahead := k.ahead ++ [⟨no, x.2, p, k.st.peek p.key (fmtBytes x.1), k.st.readError [(p, fmtBytes x.1)]⟩] }

/-- Read one element at a nibble address: its code, the translation kept and the request counted; or the trap of mk. -/
def VC.readElem (k : VC) (no : Nat) (u : Use) (c : BitVec 6) (nib : Nat) (mk : Nat → Nat → Trap) : VRes (VC × Nat) :=
  match k.early? no c nib with
  | some a =>
    match a.err with
    | some (e, _) => .error (.trap (mk e (nib / 2)) (if e = 9 then some a.place else none))
    | none => .ok (({ k with st := k.st.touch k.h.ctx (nib / 2) } : VC).count no a.place, codeIn c nib a.bytes)
  | none =>
  match k.st.elemPlace k.who u c nib with
  | .error e => vtrap (mk e (nib / 2))
  | .ok p =>
    match k.st.readError [(p, fmtBytes c)] with
    | some (e, _) => .error (.trap (mk e (nib / 2)) (if e = 9 then some p else none))
    | none => .ok (({ k with st := k.st.touch k.h.ctx (nib / 2) } : VC).count no p, k.st.readCode p c nib)

/-- The claim of an element's store as it is performed: the one that the word's probe took is used up; where there is none, it is taken now
(R211). -/
def VC.useClaim (k : VC) (p : Place) (c : BitVec 6) : VC × Option Nat :=
  match regionAt k.st.regions p.key with
  | none => (k, none)
  | some r =>
    let ws := claimWords (p.key - r.key) (fmtBytes c)
    if r.rule != 0 && r.holds k.slot ws then ({ k with st := k.st.useClaims k.slot r.key ws }, none)
    else (k, (k.st.elemClaim k.who p c []).1)

/-- Store one code at a nibble address: into memory, or into the next plane of a region (R144, R211). A nibble merged into an uncorrectable byte of the
Cellar is a context fault (R207). -/
def VC.storeElem (k : VC) (no : Nat) (c : BitVec 6) (nib code : Nat) (mk : Nat → Nat → Trap) : VRes VC :=
  match k.st.elemPlace k.who .store c nib with
  | .error e => vtrap (mk e (nib / 2))
  | .ok p =>
    match k.st.elemStoreError p c with
    | some (e, _) =>
      if e = 9 && p.kind == 1 then .error (.cellar p.home ((k.st.badBlock p.key).getD p.key))
      else .error (.trap (mk e (nib / 2)) (if e = 9 then some p else none))
    | none =>
      match k.useClaim p c with
      | (_, some e) => vtrap (mk e (nib / 2))
      | (k1, none) => .ok (({ k1 with st := (k1.st.touch k.h.ctx (nib / 2)).storeElemAt k.who p c nib code } : VC).count no p)

/-! ### Loads (R33, R150, R152, R154) -/

/-- The scale mode of a word: the block's elements, 4 or 32, and whether the scales are kept apart; none without scales. -/
def vmScaling (f : VM) : Option (Nat × Bool) :=
  match f.scale.toNat / 2 with
  | 1 => some (4, f.scale.toNat % 2 == 1)
  | 2 => some (32, f.scale.toNat % 2 == 1)
  | _ => none

/-- What element i of a load touches: its data when active; the scale byte of its block when active under an applied scale, or
at the first element of each block of four when the scales are kept apart. -/
def loadTouches (f : VM) (r : Reach) (k : VC) (w : VW) (i : Nat) : List Touch :=
  let act := k.h.selects f.mask i
  let data := if act then [(Use.load, f.fmt, r.nib k w i)] else []
  match vmScaling f with
  | none => data
  | some (n, apart) =>
    if (if apart then i % 4 == 0 else act) then data ++ [(Use.load, (9 : BitVec 6), scaleNib f k w (i / n))] else data

/-- The probe of a load (R72). -/
def loadProbe (f : VM) (r : Reach) (k : VC) (w : VW) : VRes Nat :=
  match k.probeFault ((upFrom w.start (w.vl - w.start)).map fun i => (i, loadTouches f r k w i)) with
  | some (_, c, va) => vtrap (probeTrap f 1 r k w c va)
  | none => .ok w.vl

/-- A scale byte put into a register of kept-apart scales: byte j mod 4 of element j / 4 (R139, R152). -/
def Hart.setScale (h : Hart) (r j s : Nat) : Hart :=
  let x := h.elem r (j / 4)
  let sh := 8 * (j % 4)
  h.setElem r (j / 4) ((x &&& ~~~((0xFF : Slot) <<< sh)) ||| (BitVec.ofNat 32 s <<< sh))

/-- A loaded value put into element i of a load's destination (R67, R86). -/
def VC.loadInto (k : VC) (w : VW) (d : BitVec 7) (i : Nat) (x : Slot) : VRes VC :=
  if 72 ≤ d.toNat then k.pushLq w (d.toNat - 72) i x else .ok { k with h := k.h.setElem d.toNat i x }

/-- Element i of a load (R150, R152). -/
def loadElem (f : VM) (r : Reach) (k : VC) (w : VW) (i : Nat) : VRes VC := do
  let act := k.active w f.mask i
  let mk := elemTrap f 1 r
  let k0 ← match vmScaling f with
    | some (n, true) =>
      if i % 4 != 0 then .ok k else do
        let (k1, s) ← k.readElem w.no .load 9 (scaleNib f k w (i / n)) mk
        .ok { k1 with h := k1.h.setScale (f.vd.toNat + 1) (i / 4) s }
    | _ => .ok k
  if !act then (if 72 ≤ f.vd.toNat then k0.loadInto w f.vd i 0 else .ok k0) else
  let (k1, code) ← k0.readElem w.no .load f.fmt (r.nib k w i) mk
  match vmScaling f with
  | some (n, false) =>
    let (k2, s) ← k1.readElem w.no .load 9 (scaleNib f k w (i / n)) mk
    k2.loadInto w f.vd i (widen f.fmt code (if s = 255 then none else some ((s : Int) - 127)))
  | _ => k1.loadInto w f.vd i (widen f.fmt code (some 0))

/-- Elements of a load read early: what they touch; all: the data and the scale bytes of every one. -/
def loadFetch (f : VM) (r : Reach) (k : VC) (w : VW) (all : Bool) (is : List Nat) : VC :=
  (is.flatMap fun i =>
    if all then (f.fmt, r.nib k w i) :: (match vmScaling f with
      | some (n, _) => [((9 : BitVec 6), scaleNib f k w (i / n))]
      | none => [])
    else (loadTouches f r k w i).map (·.2)).foldl (VC.readAhead w.no .load) k

/-- The elements of a unit-stride load from i on that share the piece of the element before i (R145). -/
def unitSharing (f : VM) (k : VC) (w : VW) (i : Nat) : List Nat :=
  (upFrom i (w.vl - i)).takeWhile fun j => (unitReach f).nib k w j / 32 == (unitReach f).nib k w (i - 1) / 32

/-- What an element below VL touches, as addresses and bytes. -/
def spansOf (w : VW) (i : Nat) (xs : List Touch) : List (Nat × Nat) := if i < w.vl then xs.map fun x => (x.2.2 / 2, fmtBytes x.2.1) else []

def loads (use : WordUse) (f : VM) (r : Reach) (unit : Bool) : Sem where
  use := use
  mask := f.mask
  probe := loadProbe f r
  elem := loadElem f r
  fetch := loadFetch f r
  touches := fun k w i => spansOf w i (loadTouches f r k w i)
  sharing := fun k w i => if unit then unitSharing f k w i else []

def semVld (f : VM) : Sem := loads ((Instr.vld f).uses 0) f (unitReach f) true
/-- vld (R150). -/
def execVld (f : VM) (s : State) : Out := s.vectorWord (semVld f)

def semVlds (f : VM) : Sem := loads ((Instr.vlds f).uses 0) f (strideReach f) false
/-- vlds (R150). -/
def execVlds (f : VM) (s : State) : Out := s.vectorWord (semVlds f)

def semVldx (f : VM) : Sem := loads ((Instr.vldx f).uses 0) f (indexReach f) false
/-- vldx (R150, R153). -/
def execVldx (f : VM) (s : State) : Out := s.vectorWord (semVldx f)

/-- The fault of one element of a vldff: a probe fault, or cause 0x09 (R154). -/
def faultFirst (k : VC) (ts : List Touch) : Option (Nat × Nat) :=
  ts.findSome? fun (u, c, nib) => match k.st.elemPlace k.who u c nib with
    | .error e => some (e, nib / 2)
    | .ok p => match k.st.elemReadError p c with
      | some 9 => some (9, nib / 2)
      | _ => none

/-- The probe of a vldff (R154): a fault at the first active element traps, a later one bounds VL. Cause 0x09 at the first is its
commit's. -/
def ffProbe (f : VM) (k : VC) (w : VW) : VRes Nat :=
  let r := unitReach f
  match k.actives w f.mask with
  | [] => .ok w.vl
  | a :: _ =>
    match ((upFrom w.start (w.vl - w.start)).findSome? fun i => (faultFirst k (loadTouches f r k w i)).map fun e => (i, e)) with
    | none => .ok w.vl
    | some (i, c, va) => if a < i then .ok i else if c = 9 then .ok w.vl else vtrap (probeTrap f 1 r k w c va)

def semVldff (f : VM) : Sem where
  use := (Instr.vldff f).uses 0
  mask := f.mask
  probe := ffProbe f
  elem := fun k w i => if w.idle then .ok k else loadElem f (unitReach f) k w i
  fetch := fun k w all is => if w.idle then k else loadFetch f (unitReach f) k w all is
  sharing := fun k w i => if w.idle then [] else unitSharing f k w i
  touches := fun k w i => spansOf w i (loadTouches f (unitReach f) k w i)
  idle := fun k w => (k.actives w f.mask).isEmpty
/-- vldff (R154). -/
def execVldff (f : VM) (s : State) : Out := s.vectorWord (semVldff f)

/-! ### Segment loads (R155) -/

/-- The fields of a record. -/
def vmFields (f : VM) : Nat := f.scope.toNat + 1

/-- Where the fields of a record go, as the word issues: the first elements of the permutation register, or 0 up (R155). -/
def Hart.segPerm (h : Hart) (f : VM) : List Nat :=
  (upFrom 0 (vmFields f)).map fun j => if f.idx.toNat = 127 then j else (h.elem f.idx.toNat j).toNat

/-- The nibble address of field j of record i. -/
def segNib (f : VM) (k : VC) (w : VW) (i j : Nat) : Nat := nibAt f.fmt (vmAddr f k w) (((i * vmFields f + j) * fmtUnits f.fmt : Nat) : Int)

def segReach (f : VM) : Reach where
  nib := fun k w i => segNib f k w i 0
  stride := fun _ _ => ((vmFields f * fmtUnits f.fmt : Nat) : Int)
  indexed := false

/-- The records of a vldseg from i on that share a piece with the record before them (R145, R155). -/
def segSharing (f : VM) (k : VC) (w : VW) (i : Nat) : List Nat :=
  (upFrom i (w.vl - i)).takeWhile fun j => segNib f k w j 0 / 32 == segNib f k w (j - 1) (vmFields f - 1) / 32

/-- vldseg with its places: field j of record i goes to element i of register vd + place j (R155). -/
def semVldseg (f : VM) (places : List Nat) : Sem where
  use := (Instr.vldseg f).uses 0
  mask := f.mask
  issue := fun _ _ => if (upFrom 0 (vmFields f)).all places.contains then .ok () else vcause 0x12
  probe := fun k w =>
    match k.probeFault ((k.actives w f.mask).map fun i => (i, (upFrom 0 (vmFields f)).map fun j => (Use.load, f.fmt, segNib f k w i j))) with
    | some (_, c, va) => vtrap (probeTrap f 1 (segReach f) k w c va)
    | none => .ok w.vl
  elem := fun k w i =>
    if !k.active w f.mask i then .ok k else
    (upFrom 0 (vmFields f)).foldlM (fun (acc : VC) j => do
      let (k1, code) ← acc.readElem w.no .load f.fmt (segNib f k w i j) (elemTrap f 1 (segReach f))
      .ok { k1 with h := k1.h.setElem (f.vd.toNat + nthD 0 places j) i (widen f.fmt code (some 0)) }) k
  fetch := fun k w all is => ((is.filter fun i => all || k.h.selects f.mask i).flatMap fun i =>
    (upFrom 0 (vmFields f)).map fun j => (f.fmt, segNib f k w i j)).foldl (VC.readAhead w.no .load) k
  touches := fun k w i => if k.active w f.mask i then (upFrom 0 (vmFields f)).map fun j => (segNib f k w i j / 2, fmtBytes f.fmt) else []
  sharing := segSharing f
  perm := places
/-- vldseg (R155). -/
def execVldseg (f : VM) (s : State) : Out :=
  match s.cur with
  | .vec slot => s.vectorWord (semVldseg f (((s.hart slot).map fun h => h.segPerm f).getD []))
  | _ => .fault .noParty

/-! ### Stores (R35, R150, R152) -/

/-- The active elements of block j of a block-4 store, below VL. -/
def blockActive (f : VM) (k : VC) (w : VW) (j : Nat) : Bool :=
  (upFrom (4 * j) 4).any fun i => k.active w f.mask i

/-- What element i of a store touches, when the store writes it: itself, and at the first element of a written block its scale
byte, unless the scales are none. -/
def storeTouches (f : VM) (r : Reach) (k : VC) (w : VW) (i : Nat) : List Touch :=
  match vmScaling f with
  | none => if k.active w f.mask i then [(Use.store, f.fmt, r.nib k w i)] else []
  | some _ =>
    if !blockActive f k w (i / 4) then [] else
    (Use.store, f.fmt, r.nib k w i) :: (if i % 4 = 0 then [(Use.store, (9 : BitVec 6), scaleNib f k w (i / 4))] else [])

/-- The bound of the elements that a store touches: VL, or the end of the last block (R35). -/
def storeBound (f : VM) (vl : Nat) : Nat := if (vmScaling f).isSome then (vl + 3) / 4 * 4 else vl

/-- The probe of a store (R72, R211): element by element, its translations and then its claims; the words claimed. -/
def storeProbeGo (f : VM) (r : Reach) (k : VC) (w : VW) : List Touch → Extra → VRes Extra
  | [], claimed => .ok claimed
  | (u, c, nib) :: t, claimed =>
    match k.st.elemPlace k.who u c nib with
    | .error e => vtrap (probeTrap f 2 r k w e (nib / 2))
    | .ok p =>
      match k.st.elemClaim k.who p c claimed with
      | (some e, _) => vtrap (elemTrap f 2 r e (nib / 2))
      | (none, more) => storeProbeGo f r k w t more

/-- What the elements of a store from its issue index on touch. -/
def allStoreTouches (f : VM) (r : Reach) (k : VC) (w : VW) : List Touch :=
  (upFrom w.start (storeBound f w.vl - w.start)).flatMap fun i => storeTouches f r k w i

def storeProbe (f : VM) (r : Reach) (k : VC) (w : VW) : VRes Nat := (storeProbeGo f r k w (allStoreTouches f r k w) []).map fun _ => w.vl

/-- The words that a store has claimed when its probe has succeeded: those of regions whose rule counts claims (R211, R213, R214). -/
def storeClaims (f : VM) (r : Reach) (k : VC) (w : VW) : Extra :=
  if k.st.regions.isEmpty then [] else
  match storeProbeGo f r k w (allStoreTouches f r k w) [] with
  | .ok xs => xs.filter fun x => k.st.regions.any fun r => r.key == x.1 && r.rule != 0
  | .error _ => []

/-- The scale byte of a plain block-4 store (R35): NaN wins; else from the largest finite magnitude. A block whose active values are all infinite has no
finite magnitude: it takes 127, as an all-zero block does (DESIGN CHOICE, log 64: R35 does not give it). -/
def blockScale (fmt : BitVec 6) (xs : List Slot) : Nat :=
  if xs.any fun x => (f32 x).isNaN then 255 else
  let lgs : List Int := xs.filterMap fun x => match f32 x with
    | .fin _ m e => if m = 0 then none else some ((m.log2 : Int) + e)
    | _ => none
  match lgs with
  | [] => 127
  | l :: t =>
    let m := t.foldl (fun a b => if a < b then b else a) l
    let emax := ((fmtFloat fmt).map Fmt.emax).getD 0
    (clampInt 0 254 (m - emax + 127)).toNat

/-- One code of a written block: an active value scaled and rounded, drawing under SR; 0 for an inactive element or in a block of
a NaN, whose active elements draw too (R39). -/
def blockCode (f : VM) (w : VW) (s : Nat) (nan : Bool) (k : VC) (i : Nat) (x : Option Slot) : VC × Nat :=
  match x with
  | none => (k, 0)
  | some v =>
    let mode := w.env.vround.toNat % 8
    let (rnd, h1) := if narrowDraws f.fmt mode then k.h.draw i else (0, k.h)
    ({ k with h := h1 }, if nan then 0 else narrow f.fmt v w.env.vround mode rnd (127 - (s : Int)))

/-- A gathered block written (R35, R152): four codes, then the scale byte. -/
def writeBlock (f : VM) (r : Reach) (apart : Bool) (k : VC) (w : VW) (j : Nat) (xs : List (Option Slot)) : VRes VC :=
  if !xs.any Option.isSome then .ok k else
  let mk := elemTrap f 2 r
  let vals := xs.map fun x => x.getD 0
  let s := if apart then scaleByte (k.h.elem (f.vd.toNat + 1)) j else blockScale f.fmt vals
  let nan := !apart && s == 255
  let codes := (upFrom 0 4).foldlM (fun (acc : VC) n => do
    let (k1, code) := blockCode f w s nan acc (4 * j + n) (nthD none xs n)
    k1.storeElem w.no f.fmt (r.nib k w (4 * j + n)) code mk) k
  codes.bind fun k1 => k1.storeElem w.no 9 (scaleNib f k w j) s mk

/-- Element i of a store (R150, R152). A block-4 store writes a block with its last element below VL. -/
def storeWordElem (f : VM) (r : Reach) (k : VC) (w : VW) (i : Nat) : VRes VC := do
  let act := k.active w f.mask i
  let (k1, xs) ← VC.operands i [f.vd] k []
  let v := slotAt xs 0
  match vmScaling f with
  | none =>
    if !act then .ok k1 else
    let mode := w.env.vround.toNat % 8
    let (rnd, h1) := if narrowDraws f.fmt mode then k1.h.draw i else (0, k1.h)
    ({ k1 with h := h1 } : VC).storeElem w.no f.fmt (r.nib k w i) (narrow f.fmt v w.env.vround mode rnd 0) (elemTrap f 2 r)
  | some (_, apart) =>
    let held := k1.stash ++ [if act then some v else none]
    if i % 4 = 3 || i + 1 = w.vl then
      let k2 ← writeBlock f r apart k1 w (i / 4) held
      .ok { k2 with stash := [] }
    else .ok { k1 with stash := held }

/-- Before which elements a front may stand in a store (R70, R263): a piece's first element of a unit-stride store, any element of a strided or an indexed
one, and of a block-4 store the first of a block, since it writes whole blocks (R35; log 10). -/
def storePiece (f : VM) (r : Reach) (unit : Bool) (k : VC) (w : VW) (i : Nat) : Bool :=
  w.vl ≤ i || (((vmScaling f).isNone || i % 4 == 0) && (!unit || i == 0 || r.nib k w i / 32 != r.nib k w (i - 1) / 32))

def stores (use : WordUse) (f : VM) (r : Reach) (unit : Bool) : Sem where
  use := use
  mask := f.mask
  probe := storeProbe f r
  elem := storeWordElem f r
  claims := storeClaims f r
  touches := fun k w i => (storeTouches f r k w i).map fun x => (x.2.2 / 2, fmtBytes x.2.1)
  piece := storePiece f r unit

def semVst (f : VM) : Sem := stores ((Instr.vst f).uses 0) f (unitReach f) true
/-- vst (R150). -/
def execVst (f : VM) (s : State) : Out := s.vectorWord (semVst f)

def semVsts (f : VM) : Sem := stores ((Instr.vsts f).uses 0) f (strideReach f) false
/-- vsts (R150). -/
def execVsts (f : VM) (s : State) : Out := s.vectorWord (semVsts f)

def semVstx (f : VM) : Sem := stores ((Instr.vstx f).uses 0) f (indexReach f) false
/-- vstx (R150, R153). -/
def execVstx (f : VM) (s : State) : Out := s.vectorWord (semVstx f)

/-! ### Append queues (R156) -/

/-- A place of an append queue: it must lie in a working page (R144, R156). -/
def VC.queuePlace (k : VC) (c : BitVec 6) (va : Nat) : Except Nat Place :=
  match k.st.elemPlace k.who .store c (2 * va) with
  | .error e => .error e
  | .ok p => if p.kind != 0 then .error 5 else .ok p

/-- The header of an append queue: aligned to 64 bytes. -/
def VC.queueHead (k : VC) (va : Nat) : Except Nat Place :=
  if 2 ^ 57 ≤ va then .error 4 else if va % 64 != 0 then .error 3 else k.queuePlace 11 va

/-- The entry slots that the active elements of a vappend would claim as the tail stands, with the elements. The manual does not say which slots a probe
covers, since other harts may move the tail before the elements commit: it covers these (DESIGN CHOICE, log 44). -/
def VC.queueSlots (k : VC) (f : VM) (w : VW) (p : Place) : List (Nat × Nat) :=
  let cap := k.st.peekNat (p.key + 8) 4
  (numbered (k.st.peekNat p.key 8) (k.actives w f.mask)).filterMap fun x =>
    if cap ≤ x.1 then none else some (x.2, vmAddr f k w + 0x40 + 4 * x.1)

/-- The probe of a vappend: its header, and its entry slots (R72, R156). -/
def appendProbe (f : VM) (k : VC) (w : VW) : VRes Nat :=
  let va := vmAddr f k w
  let r := unitReach f
  match k.queueHead va with
  | .error c => vtrap (probeTrap f 2 r k w c va)
  | .ok p =>
    match ((k.queueSlots f w p).findSome? fun x => match k.queuePlace 11 x.2 with
        | .error c => some (c, x.2)
        | .ok _ => none) with
    | some (c, a) => vtrap (probeTrap f 2 r k w c a)
    | none => .ok w.vl

/-- What an element of a vappend touches: the header, and its entry slot as the tail stands. -/
def appendTouches (f : VM) (k : VC) (w : VW) (i : Nat) : List (Nat × Nat) :=
  if !k.active w f.mask i then [] else
  (vmAddr f k w, 24) :: (match k.queueHead (vmAddr f k w) with
    | .ok p => ((k.queueSlots f w p).filter fun x => x.1 == i).map fun x => (x.2, 4)
    | .error _ => [])

/-- One active element of a vappend: one atomic action on the queue. An entry slot that lies on another page than the probe covered, since the tail moved, may
fail its check here: the element then traps with that cause and the tail has not moved (DESIGN CHOICE, log 44: the manual does not say). -/
def appendElem (f : VM) (k : VC) (w : VW) (i : Nat) : VRes VC :=
  if !k.active w f.mask i then .ok k else
  let va := vmAddr f k w
  let mk := elemTrap f 2 (unitReach f)
  match k.queueHead va with
  | .error c => vtrap (mk c va)
  | .ok p =>
    match k.st.readError [(p, 24)] with
    | some (c, _) => .error (.trap (mk c va) (if c = 9 then some p else none))
    | none =>
      let t := k.st.peekNat p.key 8
      let cap := k.st.peekNat (p.key + 8) 4
      let batch := k.st.peekNat (p.key + 12) 4
      let v := (k.scalarOf w (f.base + 1) + BitVec.ofNat 64 i).toNat % 2 ^ 32
      let s1 := (k.st.touch k.h.ctx va).pokeBy k.h.ctx p.key (leBytes 8 ((t + 1) % 2 ^ 64))
      let k1 := ({ k with st := s1 } : VC).count w.no p
      let ea := va + 0x40 + 4 * t
      let put : VRes VC :=
        if cap ≤ t then .ok k1 else
        match k1.queuePlace 11 ea with
        | .error c => vtrap (mk c ea)
        | .ok q =>
          match k1.st.readError [(q, 4)] with
          | some (c, _) => .error (.trap (mk c ea) (if c = 9 then some q else none))
          | none => .ok (({ k1 with st := (k1.st.touch k1.h.ctx ea).pokeBy k1.h.ctx q.key (leBytes 4 v) } : VC).count w.no q)
      match put with
      | .error e => .error e
      | .ok k2 =>
        if batch != 0 && (t + 1) % batch == 0 then
          .ok { k2 with st := k2.st.pokeBy k2.h.ctx (p.key + 16) (leBytes 8 ((k2.st.peekNat (p.key + 16) 8 + 1) % 2 ^ 64)) }
        else .ok k2

def semVappend (f : VM) : Sem where
  use := (Instr.vappend f).uses 0
  mask := f.mask
  probe := appendProbe f
  touches := appendTouches f
  elem := appendElem f
/-- vappend (R156). -/
def execVappend (f : VM) (s : State) : Out := s.vectorWord (semVappend f)

/-! ### Prefetch (R157) -/

/-- One active element of a vpref: a working page counts its request; a page that is not present is asked for, once a page, with
the bytes of the word's elements on it. -/
def prefElem (f : VM) (k : VC) (w : VW) (i : Nat) : VRes VC :=
  let r := unitReach f
  let page (j : Nat) : Nat := r.nib k w j / 2 / 4096
  if !k.active w f.mask i then .ok k else
  let nib := r.nib k w i
  match k.st.elemPlace k.who .load f.fmt nib with
  | .ok p => .ok (({ k with st := k.st.touch k.h.ctx (nib / 2) } : VC).count w.no p)
  | .error 4 =>
    let mine := (k.actives w f.mask).filter fun j => page j == page i
    if 2 ^ 57 ≤ nib / 2 || mine.head? != some i then .ok k else
    let rec' := pagerRecord (nib / 2) ((mine.length * fmtBits f.fmt + 7) / 8) 1 k.h.ctx (slotCluster k.slot)
      (accessField 1 f.cls.toNat f.fmt.toNat false)
    .ok { k with st := k.st.pagerPut k.h.ctx rec' }
  | .error _ => .ok k

def semVpref (f : VM) : Sem where
  use := (Instr.vpref f).uses 0
  mask := f.mask
  touches := fun k w i => if k.active w f.mask i then [((unitReach f).nib k w i / 2, fmtBytes f.fmt)] else []
  elem := prefElem f
/-- vpref (R157). -/
def execVpref (f : VM) (s : State) : Out := s.vectorWord (semVpref f)

/-! ### Accumulator rows (R179, R183) -/

/-- The row register of a word fits a row, VL fits a row, and its chaining bit is clear (R179, R183). Words handed over before the fork
of a program that has not begun do not wait for its claims (log 25). -/
def rowIssue (f : VM) (k : VC) (w : VW) : VRes Unit :=
  let row := (k.scalarOf w f.base).toNat
  if 96 < w.vl || 128 ≤ row then vcause 0x13 else
  let cl := k.st.cluster (slotCluster k.slot)
  let early := match cl.mcc with
    | some m => m.slot == k.slot && !m.begun && w.seq < m.after
    | none => false
  if !early && (cl.chain.getD f.idx.toNat 0).getLsbD row then .error .wait else .ok ()

/-- A rounding of an accumulator cell to the format of a drain (R183). -/
def drainSlot (f : VM) (w : VW) (k : VC) (i : Nat) (x : Slot) : VC × Slot :=
  if f.fmt.toNat = 0 then (k, x) else
  let mode := w.env.vround.toNat % 8
  let (rnd, h1) := if mode = rsr then k.h.draw i else (0, k.h)
  ({ k with h := h1 }, (roundBf (f32 x) mode (memSat w.env.vround) rnd).1)

def semMdrain (f : VM) : Sem where
  use := (Instr.mdrain f).uses 0
  mask := f.mask
  issue := rowIssue f
  elem := fun k w i =>
    if !k.active w f.mask i then .ok k else
    let row := (k.scalarOf w f.base).toNat % 128
    match k.st.badIn (accKey (slotCluster k.slot) (cellKey f.idx.toNat row i)) 4 with
    | some key => .error (.trap { cause := 9 } (some ⟨8, key, 0⟩))
    | none =>
      let (k1, x) := drainSlot f w k i ((k.st.cluster (slotCluster k.slot)).cellFor k.h.ctx f.idx.toNat row i)
      .ok { k1 with h := k1.h.setElem f.vd.toNat i x }

/-- mdrain (R183). -/
def execMdrain (f : VM) (s : State) : Out := s.vectorWord (semMdrain f)

def semMfill (f : VM) : Sem where
  use := (Instr.mfill f).uses 0
  mask := f.mask
  issue := rowIssue f
  elem := fun k w i =>
    if !k.active w f.mask i then .ok k else
    let row := (k.scalarOf w f.base).toNat % 128
    let x := fpSlot (f.fmt.toNat == 1) (k.h.elem f.vd.toNat i)
    let c := slotCluster k.slot
    .ok { k with st := k.st.setCluster c (((k.st.cluster c).takeAcc k.h.ctx k.h.kid f.idx.toNat).setCell f.idx.toNat row i x) }

/-- mfill (R183). -/
def execMfill (f : VM) (s : State) : Out := s.vectorWord (semMfill f)

/-! ### Atomics (R222, R224) -/

/-- The address of an element of a vamo: base plus the byte index (R224). -/
def amoNib (f : VM) (k : VC) (w : VW) (i : Nat) : Nat := nibAt f.fmt ((k.scalarOf w f.base).toNat) ((k.h.elem f.idx.toNat i).toNat : Int)

def amoReach (f : VM) : Reach where
  nib := amoNib f
  stride := fun _ _ => 0
  indexed := true

/-- Element i of a vamo (R224): performed when the scope covers its place, else missed; its miss bit goes to mask mreg. -/
def amoElem (op : Nat) (f : VM) (k : VC) (w : VW) (i : Nat) : VRes VC := do
  let m := k.h.mreg.toNat
  let act := k.active w f.mask i
  let (k1, xs) ← VC.operands i [f.vd] k []
  if !act then .ok { k1 with h := k1.h.setMaskBit m i false } else
  let nib := amoNib f k w i
  let mk := elemTrap f 3 (amoReach f)
  match k1.st.elemPlace k1.who .atomic f.fmt nib with
  | .error e => vtrap (mk e (nib / 2))
  | .ok p =>
    if f.scope.toNat < narrowest k1.who p then
      .ok { k1 with h := { k1.h with missCount := k1.h.missCount + 1 }.setMaskBit m i true }
    else
      match k1.st.readError [(p, 4)] with
      | some (e, _) => .error (.trap (mk e (nib / 2)) (if e = 9 then some p else none))
      | none =>
        let k2 ← k1.sync 2
        let old := BitVec.ofNat 32 (k2.st.peekNat p.key 4)
        let s1 := (k2.st.touch k2.h.ctx (nib / 2)).pokeBy k2.h.ctx p.key (leBytes 4 (amoValue op old (slotAt xs 0) 0).toNat)
        let k3 := ({ k2 with st := s1 } : VC).count w.no p
        let h1 := k3.h.setMaskBit m i false
        .ok { k3 with h := if op = 8 then h1.setElem f.vd.toNat i old else h1 }

/-- A vamo (R224). mreg: the mask register that receives its miss bits. -/
def amos (op : Nat) (use : WordUse) (f : VM) (mreg : Nat) : Sem where
  use := { use with writes := .m mreg :: use.writes }
  mask := f.mask
  probe := fun k w =>
    match k.probeFault ((k.actives w f.mask).map fun i => (i, [(Use.atomic, f.fmt, amoNib f k w i)])) with
    | some (_, c, va) => vtrap (probeTrap f 3 (amoReach f) k w c va)
    | none => .ok w.vl
  touches := fun k w i => if k.active w f.mask i then [(amoNib f k w i / 2, fmtBytes f.fmt)] else []
  elem := amoElem op f
  finish := fun k w => { k with h := k.h.clearAbove k.h.mreg.toNat w.vl }

/-- SCOPEMISS.mreg of the hart on turn. -/
def State.mregOf (s : State) : Nat :=
  match s.cur with
  | .vec slot => ((s.hart slot).map fun h => h.mreg.toNat).getD 15
  | _ => 15

def semVamoAdd (o : BitVec 2) (f : VM) (mreg : Nat) : Sem := amos 0 ((Instr.vamoAdd o f).uses 0) f mreg
/-- vamo.add (R224). -/
def execVamoAdd (o : BitVec 2) (f : VM) (s : State) : Out := s.vectorWord (semVamoAdd o f s.mregOf)

def semVamoAnd (o : BitVec 2) (f : VM) (mreg : Nat) : Sem := amos 1 ((Instr.vamoAnd o f).uses 0) f mreg
/-- vamo.and (R224). -/
def execVamoAnd (o : BitVec 2) (f : VM) (s : State) : Out := s.vectorWord (semVamoAnd o f s.mregOf)

def semVamoOr (o : BitVec 2) (f : VM) (mreg : Nat) : Sem := amos 2 ((Instr.vamoOr o f).uses 0) f mreg
/-- vamo.or (R224). -/
def execVamoOr (o : BitVec 2) (f : VM) (s : State) : Out := s.vectorWord (semVamoOr o f s.mregOf)

def semVamoXor (o : BitVec 2) (f : VM) (mreg : Nat) : Sem := amos 3 ((Instr.vamoXor o f).uses 0) f mreg
/-- vamo.xor (R224). -/
def execVamoXor (o : BitVec 2) (f : VM) (s : State) : Out := s.vectorWord (semVamoXor o f s.mregOf)

def semVamoMin (o : BitVec 2) (f : VM) (mreg : Nat) : Sem := amos 4 ((Instr.vamoMin o f).uses 0) f mreg
/-- vamo.min (R224). -/
def execVamoMin (o : BitVec 2) (f : VM) (s : State) : Out := s.vectorWord (semVamoMin o f s.mregOf)

def semVamoMax (o : BitVec 2) (f : VM) (mreg : Nat) : Sem := amos 5 ((Instr.vamoMax o f).uses 0) f mreg
/-- vamo.max (R224). -/
def execVamoMax (o : BitVec 2) (f : VM) (s : State) : Out := s.vectorWord (semVamoMax o f s.mregOf)

def semVamoMinn (o : BitVec 2) (f : VM) (mreg : Nat) : Sem := amos 6 ((Instr.vamoMinn o f).uses 0) f mreg
/-- vamo.minn (R224). -/
def execVamoMinn (o : BitVec 2) (f : VM) (s : State) : Out := s.vectorWord (semVamoMinn o f s.mregOf)

def semVamoMaxn (o : BitVec 2) (f : VM) (mreg : Nat) : Sem := amos 7 ((Instr.vamoMaxn o f).uses 0) f mreg
/-- vamo.maxn (R224). -/
def execVamoMaxn (o : BitVec 2) (f : VM) (s : State) : Out := s.vectorWord (semVamoMaxn o f s.mregOf)

def semVamoSwap (o : BitVec 2) (f : VM) (mreg : Nat) : Sem := amos 8 ((Instr.vamoSwap o f).uses 0) f mreg
/-- vamo.swap (R224): the old values go to the source register. -/
def execVamoSwap (o : BitVec 2) (f : VM) (s : State) : Out := s.vectorWord (semVamoSwap o f s.mregOf)

/-! ### Reduce-on-write (R203) -/

def caddReach (f : VM) : Reach := if f.idx.toNat = 127 then unitReach f else { indexReach f with
  nib := fun k w i => nibAt f.fmt (vmAddr f k w) ((k.h.elem f.idx.toNat i).toNat : Int) }

/-- The sum that a cadd stores (R203): the old code and the slot, in the word's format. -/
def caddCode (fmt : BitVec 6) (old : Nat) (x : Slot) : Nat :=
  match fmt.toNat with
  | 0 => (addRne (BitVec.ofNat 32 old) x).toNat
  | 1 => (roundTo bf16 (addNum rne (bf16.decode old) (bfv x)).1 rne 0 0).1
  | _ => (BitVec.ofNat 32 old + x).toNat

/-- Element i of a cadd (R203): an uncorrectable block is a context fault, and a failing link to the stack is cause 0x14 (R207); the link is met first, since
the sum is asked for over it (DESIGN CHOICE, log 70: R207 does not say which prevails where both are met). -/
def caddElem (f : VM) (k : VC) (w : VW) (i : Nat) : VRes VC := do
  let act := k.active w f.mask i
  let (k1, xs) ← VC.operands i [f.vd] k []
  if !act then .ok k1 else
  let nib := (caddReach f).nib k w i
  match k1.st.elemPlace k1.who .cadd f.fmt nib with
  | .error e => vtrap (elemTrap f 2 (caddReach f) e (nib / 2))
  | .ok p =>
    if k1.st.stackDown.contains p.home then vtrap (elemTrap f 2 (caddReach f) 0x14 (nib / 2)) else
    match k1.st.badBlock p.key with
    | some b => .error (.cellar p.home b)
    | none =>
      let old := k1.st.readCode p f.fmt nib
      .ok { k1 with st := (k1.st.touch k1.h.ctx (nib / 2)).poke p.key (leBytes (fmtBytes f.fmt) (caddCode f.fmt old (slotAt xs 0))) }

def semCadd (f : VM) : Sem where
  use := (Instr.cadd f).uses 0
  mask := f.mask
  touches := fun k w i => if k.active w f.mask i then [((caddReach f).nib k w i / 2, fmtBytes f.fmt)] else []
  probe := fun k w =>
    match k.probeFault ((k.actives w f.mask).map fun i => (i, [(Use.cadd, f.fmt, (caddReach f).nib k w i)])) with
    | some (_, c, va) => vtrap (probeTrap f 2 (caddReach f) k w c va)
    | none => .ok w.vl
  elem := caddElem f
/-- cadd (R203). -/
def execCadd (f : VM) (s : State) : Out := s.vectorWord (semCadd f)

end Sys2Proof.Machine
end

