-- ==== Sys2Proof/Machine/VecQuery.lean ====
section
/-! DEFINITION. Queries of the Cellar: their checks, their results, and the replies in flight (R52, R189, R190, R193 to R202, R205,
R207). A query reads its rows when it issues (log 11). -/
namespace Sys2Proof.Machine

/-! ### Rows -/

/-- The descriptor of a query, as it stood at its block's vf (R193). -/
def queryDesc (f : VQ) (w : VW) : Option QDesc := w.env.qd.getD f.desc.toNat none

/-- The address of row i (R191). -/
def QDesc.row (d : QDesc) (i : Nat) : Nat := (d.base + BitVec.ofInt 64 ((i : Int) * d.stride)).toNat

/-- The bytes of a row. -/
def QDesc.rowBytes (d : QDesc) : Nat := d.len * fmtBits d.fmt / 8

/-- The cause of a row's probe (R197). -/
def VC.rowCause (k : VC) (d : QDesc) (i : Nat) : Option Nat :=
  let va := d.row i
  if 2 ^ 57 ≤ va then some (if 4096 < va % 4096 + d.rowBytes then 3 else 4)
  else if 4096 < va % 4096 + d.rowBytes then some 3
  else match k.st.xlate k.who .query va with
    | .error c => some c
    | .ok _ => none

/-- A row as read: its number, its stack, its codes and its slots (R26, R36, R190). -/
structure RowData where
  i     : Nat
  stack : Nat
  codes : List Nat
  xs    : List Slot
  deriving DecidableEq, Repr

/-- The codes of the elements of a row's bytes (R26). -/
def rowCodes (fmt : BitVec 6) (n : Nat) (bs : List Byte) : List Nat :=
  match fmtBits fmt with
  | 4 => (bs.flatMap fun b => [b.toNat % 16, b.toNat / 16]).take n
  | m => (upFrom 0 n).map fun j => leNat ((bs.drop (j * (m / 8))).take (m / 8))

/-- A row as data from its bytes. -/
def rowData (d : QDesc) (i stack : Nat) (bs : List Byte) : RowData :=
  let codes := rowCodes d.fmt d.len bs
  ⟨i, stack, codes, codes.map fun c => widen d.fmt c (some 0)⟩

/-- The uncorrectable block that a row meets. -/
def State.badRow (s : State) (d : QDesc) (p : Place) : Option Nat := s.bad.find? fun b => b < p.key + d.rowBytes && p.key < b + 64

/-- Where a row of an issued query lies: through the translations that its probe took, which stand until its last reply (R197, R329, R330). -/
def VC.rowPlace (k : VC) (w : VW) (va : Nat) : Except Nat Place := (k.st.withPins k.h.ctx w.pins).xlate k.who .query va

/-- A row read early (R235, R241). -/
def VC.rowAhead (w : VW) (d : QDesc) (k : VC) (i : Nat) : VC :=
  if k.ahead.any fun a => a.no == w.no && a.nib == 2 * d.row i then k else
  match k.rowPlace w (d.row i) with
  | .error _ => k
  | .ok p => { k with ahead := k.ahead ++ [⟨w.no, 2 * d.row i, p, k.st.peek p.key d.rowBytes, (k.st.badRow d p).map fun b => (9, b)⟩] }

/-- The reply of a row over its stack's link: a link that fails is cause 0x14 (R207). -/
def VC.overLink (k : VC) (stack cls : Nat) (d : QDesc) (i : Nat) (r : VRes RowData) : VRes RowData :=
  if k.st.stackDown.contains stack then vtrap { cause := 0x14, addr := d.row i, access := accessField 4 cls d.fmt.toNat false } else r

/-- Read a row: its data, or the context fault of an uncorrectable block, or cause 0x14 (R207). A row that is both uncorrectable and behind a failed link
is a context fault, since its stack reads it before a reply crosses the link (DESIGN CHOICE, log 70: R207 does not say which prevails). -/
def VC.readRow (k : VC) (w : VW) (cls : Nat) (d : QDesc) (i : Nat) : VRes RowData :=
  match k.ahead.find? fun a => a.no == w.no && a.nib == 2 * d.row i with
  | some a => match a.err with
    | some (_, b) => .error (.cellar a.place.home b)
    | none => k.overLink a.place.home cls d i (.ok (rowData d i a.place.home a.bytes))
  | none =>
  match k.rowPlace w (d.row i) with
  | .error c => vcause c
  | .ok p =>
    match k.st.badRow d p with
    | some b => .error (.cellar p.home b)
    | none => k.overLink p.home cls d i (.ok (rowData d i p.home (k.st.peek p.key d.rowBytes)))

/-- Read rows in order. -/
def VC.readRows (k : VC) (w : VW) (cls : Nat) (d : QDesc) : List Nat → VRes (List RowData)
  | [] => .ok []
  | i :: t =>
    match k.readRow w cls d i with
    | .error e => .error e
    | .ok r =>
      match k.readRows w cls d t with
      | .error e => .error e
      | .ok rs => .ok (r :: rs)

/-! ### The checks of a query (R196, R197) -/

/-- The reply bytes of a query, in half bytes: a is the number of active rows. -/
inductive ReplySize where
  | perRow (sx : Bool)
  | perColumn
  | fixed (bytes : Nat)
  deriving DecidableEq, Repr

/-- Eight times the reply exceeds the touched bytes; both counted in half bytes. -/
def overBound (z : ReplySize) (d : QDesc) (a : Nat) : Bool :=
  let sz := fmtBits d.fmt / 4
  let reply := match z with
    | .perRow sx => a * (if sx then sz else 8)
    | .perColumn => d.len * 8
    | .fixed n => 2 * n
  a * d.len * sz < 8 * reply

/-- The conditions of cause 0x07 (R196). more: the word's own. -/
def queryIssue (f : VQ) (z : ReplySize) (more : VC → VW → QDesc → Bool) (k : VC) (w : VW) : VRes Unit :=
  match queryDesc f w with
  | none => vcause 0x12
  | some d =>
    let act := k.allActive w f.mask
    if act.isEmpty then .ok () else
    if overBound z d act.length || act.any (fun i => d.rows ≤ i) || more k w d then vcause 7 else .ok ()

/-- An invalid descriptor register (R192). -/
def queryEarly (f : VQ) (_ : VC) (w : VW) : VRes Unit := if (queryDesc f w).isNone then vcause 0x12 else .ok ()

/-- A stack that a query's rows lie in has paused query expansion: the word's packets wait (R348). -/
def VC.paused (k : VC) (d : QDesc) (is : List Nat) : Bool :=
  is.any fun i => match k.st.xlate k.who .query (d.row i) with
    | .ok p => (k.st.baseDie p.home).qpause
    | .error _ => false

/-- The row that an active element of a query touches. -/
def queryTouches (f : VQ) (k : VC) (w : VW) (i : Nat) : List (Nat × Nat) :=
  match queryDesc f w with
  | some d => if k.active w f.mask i then [(d.row i, d.rowBytes)] else []
  | none => []

/-- The probe of every active row that the word reads: those from its issue index on, or every one of a query with one combined reply, which reads all its
rows again when it is resumed (R134, R197); with the strip hint (R286). -/
def queryProbe (f : VQ) (combined : Bool) (k : VC) (w : VW) : VRes Nat :=
  match queryDesc f w with
  | none => .ok w.vl
  | some d =>
    let is := if combined then k.allActive w f.mask else k.actives w f.mask
    match is.findSome? fun i => (k.rowCause d i).map fun c => (i, c) with
    | some (i, c) => vtrap { cause := c, addr := d.row i, access := accessField 4 f.cls.toNat d.fmt.toNat false,
                             hcount := w.vl - w.start, hstride := d.stride }
    | none => if k.paused d is then .error .wait else .ok w.vl

/-! ### Replies in flight (R197) -/

/-- The rows of a query read early. -/
def queryFetch (f : VQ) (k : VC) (w : VW) (is : List Nat) : VC :=
  match queryDesc f w with
  | none => k
  | some d => is.foldl (VC.rowAhead w d) k

/-- The register elements of a query's reply: held back until the reply arrives, or, when a later member of its own convoy reads them chained
or writes their register, written at once, so that producers of one register finish in program order (R65). The word's pins stay with it until its last
reply (R329). -/
def VC.reply (k : VC) (w : VW) (d : Nat) (pair whole : Bool) (ws : List (Nat × Nat × Slot)) : VC :=
  let ws := ws.filter fun x => x.2.1 < mvlOf w.env.nregs
  if w.chained then { k with h := ws.foldl (fun h x => h.setElem x.1 x.2.1 x.2.2) k.h } else
  let gone : BitVec 64 := (1 <<< d) ||| (if pair then 1 <<< (d + 1) else 0)
  let qs := if k.h.queries.any (·.vd == d) then
      k.h.queries.map fun q => if q.vd == d then { q with writes := q.writes ++ ws } else q
    else k.h.queries ++ [⟨w.seq, d, pair, whole, ws, w.pins.filter (·.query)⟩]
  { k with h := { k.h with full := k.h.full &&& ~~~gone, queries := qs } }

/-- The state once a query has read rows: each has been a bank command of its stack (R347). -/
def VC.touchRows (k : VC) (w : VW) (d : QDesc) (is : List Nat) : VC :=
  { k with st := is.foldl (fun t i => match k.rowPlace w (d.row i) with
      | .ok p => t.queryCommand p.home p.key
      | .error _ => t) k.st }

/-- The issue of a query as a synchronising event, at its first element (R354). -/
def VC.querySync (k : VC) (w : VW) (i : Nat) : VRes VC := if i = w.start then k.sync 11 else .ok k

/-- The convoy as a query with one combined reply reads its coefficients and its mask: as they stood before any member's elements, since its element
commits read them in their fronts before a later member overwrites them (R134; log 10). -/
def VC.asFound (k : VC) : VC := { k with h := k.src }

/-- A query that answers with one combined reply (R134, R197). act: its writes from the rows read. -/
def wholeQuery (use : WordUse) (f : VQ) (pair : Bool) (z : ReplySize) (more : VC → VW → QDesc → Bool)
    (act : VC → VW → QDesc → List RowData → List (Nat × Nat × Slot)) : Sem where
  use := use
  mask := f.mask
  early := queryEarly f
  issue := queryIssue f z more
  probe := queryProbe f true
  fetch := fun k w _ _ => queryFetch f k w (upFrom 0 w.vl)
  touches := queryTouches f
  elem := fun k w i => do
    let k1 ← k.querySync w i
    if i + 1 != w.vl then .ok k1 else
    match queryDesc f w with
    | none => vcause 0x12
    | some d =>
      let is := k1.asFound.allActive w f.mask
      if is.isEmpty then .ok k1 else do
      let rs ← k1.readRows w f.cls.toNat d is
      let k2 := k1.touchRows w d is
      .ok (k2.reply w f.vd.toNat pair true (act k2.asFound w d rs))

/-! ### Arithmetic (R52, R195) -/

/-- Element j of a coefficient register; elements at and above MVL are unstated (log 12). -/
def VC.coeff (k : VC) (w : VW) (f : VQ) (j : Nat) : Slot :=
  if f.co.toNat < 64 && mvlOf w.env.nregs ≤ j then Config.staleElem k.st.steps f.co.toNat j else k.elemOf f.co j

/-- A product: rounded to FP32, or the low 32 bits. -/
def qMul (fmt : BitVec 6) (c x : Slot) : Slot := if fmtInt fmt then c * x else mulRne c x

/-- A sum: rounded to FP32, or modulo 2^32. -/
def qAdd (fmt : BitVec 6) (a b : Slot) : Slot × Flags := (if fmtInt fmt then a + b else addRne a b, 0)

/-- A tree over terms, with absent ones (R45, R52). -/
def qTree (fmt : BitVec 6) (l : List (Option Slot)) : Node := treeRoot (qAdd fmt) (l.map fun x => x.map fun v => (v, 0))

/-- The value of a node; absent gives 0. -/
def nodeSlot (n : Node) : Slot := (n.getD (0, 0)).1

/-- The dot product of a row (R198). -/
def VC.dot (k : VC) (w : VW) (f : VQ) (d : QDesc) (r : RowData) : Slot :=
  nodeSlot (qTree d.fmt ((numbered 0 r.xs).map fun p => some (qMul d.fmt (k.coeff w f p.1) p.2)))

/-- 1 in the arithmetic of a format. -/
def qOne (fmt : BitVec 6) : Slot := if fmtInt fmt then 1 else 0x3F800000

/-- The narrowing of an .sx reply: to nearest even without saturation, or the low bits of an integer. -/
def qNarrow (fmt : BitVec 6) (t : Slot) : Slot :=
  match fmtFloat fmt with
  | some g => BitVec.ofNat 32 (roundTo g (f32 t) rne 0 0).1
  | none => BitVec.ofNat 32 (t.toNat % 2 ^ fmtBits fmt)

/-- The reply of a row under .sx (R198, R199). -/
def VC.dotSx (k : VC) (w : VW) (f : VQ) (d : QDesc) (r : RowData) : Slot :=
  let cs := (upFrom 0 d.len).map (k.coeff w f)
  let ps := (numbered 0 cs).filter fun p => p.2 != 0
  match ps with
  | [(j, c)] =>
    if c = qOne d.fmt then BitVec.ofNat 32 (nthD 0 r.codes j)
    else qNarrow d.fmt (qMul d.fmt c (slotAt r.xs j))
  | _ => qNarrow d.fmt (nodeSlot (qTree d.fmt ((numbered 0 cs).map fun p =>
      if p.2 != 0 then some (qMul d.fmt p.2 (slotAt r.xs p.1)) else none)))

/-- A sum over rows: a partial for each stack over its rows at their tree positions, folded in ascending stack (R52, R200). -/
def qStacks (fmt : BitVec 6) (n : Nat) (ts : List (Nat × Nat × Slot)) : Slot :=
  nodeSlot ((upFrom 0 8).foldl (fun acc s =>
    joinNodes (qAdd fmt) acc (qTree fmt ((upFrom 0 n).map fun i => (ts.find? fun t => t.1 == i && t.2.1 == s).map (·.2.2)))) none)

/-- Columns written to a register from their values. -/
def columns (d n : Nat) (x : Nat → Slot) : List (Nat × Nat × Slot) := (upFrom 0 n).map fun j => (d, j, x j)

/-! ### The six queries (R198 to R202) -/

/-- qdot's mode bit .sx (R194). -/
def qdotSx (f : VQ) : Bool := f.mode.getLsbD 0

/-- qdot in its convoy. Each element reads the whole coefficient register at its own front, so elements behind a later member's write of that register see what
it wrote (DESIGN CHOICE, log 72: R198 does not say when the register is read). -/
def semQdot (f : VQ) : Sem where
  use := f.uses false [.v f.vd.toNat]
  mask := f.mask
  early := queryEarly f
  issue := queryIssue f (.perRow (qdotSx f)) fun _ _ _ => false
  probe := queryProbe f false
  fetch := fun k w _ is => queryFetch f k w is
  touches := queryTouches f
  elem := fun k w i => do
    let k1 ← k.querySync w i
    if !k1.active w f.mask i then .ok k1 else
    match queryDesc f w with
    | none => vcause 0x12
    | some d =>
      let r ← k1.readRow w f.cls.toNat d i
      let k2 := k1.touchRows w d [i]
      .ok (k2.reply w f.vd.toNat false false [(f.vd.toNat, i, if qdotSx f then k2.dotSx w f d r else k2.dot w f d r)])
/-- qdot (R198). -/
def execQdot (f : VQ) (s : State) : Out := s.vectorWord (semQdot f)

/-- A row is longer than a register (R196). -/
def rowTooLong (_ : VC) (w : VW) (d : QDesc) : Bool := mvlOf w.env.nregs < d.len

def semQwsum (f : VQ) : Sem :=
  wholeQuery (f.uses true [.v f.vd.toNat]) f false .perColumn rowTooLong fun k w d rs =>
    columns f.vd.toNat d.len fun j => qStacks d.fmt w.vl (rs.map fun r => (r.i, r.stack, qMul d.fmt (k.coeff w f r.i) (slotAt r.xs j)))
/-- qwsum (R200). -/
def execQwsum (f : VQ) (s : State) : Out := s.vectorWord (semQwsum f)

/-- A widened key as an exact value (R24). -/
def keyNum (fmt : BitVec 6) (x : Slot) : Num :=
  if !fmtInt fmt then f32 x else Num.ofInt (if fmtSignedInt fmt then x.toInt else (x.toNat : Int)) 0 false

/-- A key meets the condition of a qfsum (R131, R194). -/
def keyMeets (fmt : BitVec 6) (cond : Nat) (x y : Slot) : Bool :=
  let a := keyNum fmt x
  let b := keyNum fmt y
  match cond with
  | 0 => eqNum a b
  | 1 => !eqNum a b
  | 2 => ltNum a b
  | 3 => ltNum a b || eqNum a b
  | 4 => ltNum b a
  | _ => ltNum b a || eqNum a b

def semQfsum (f : VQ) : Sem :=
  wholeQuery (f.uses true [.v f.vd.toNat]) f false .perColumn rowTooLong fun k w d rs =>
    let part := rs.filter fun r => keyMeets d.fmt (f.mode.toNat % 8) (slotAt r.xs d.keycol) (k.elemOf f.co 0)
    columns f.vd.toNat d.len fun j => qStacks d.fmt w.vl (part.map fun r => (r.i, r.stack, slotAt r.xs j))
/-- qfsum (R200). -/
def execQfsum (f : VQ) (s : State) : Out := s.vectorWord (semQfsum f)

/-- The order of scores (R201): of keys for f32, of integers for the integer formats. -/
def scoreBefore (fmt : BitVec 6) (x y : Slot) : Bool := if fmtInt fmt then ltNum (keyNum fmt y) (keyNum fmt x) else keyBefore x y

/-- The n best rows by score, with the filler (R140, R201). -/
def VC.bestRows (k : VC) (w : VW) (f : VQ) (d : QDesc) (n : Nat) (rs : List RowData) : List (Slot × Slot) :=
  bestEntries (scoreBefore d.fmt) n (rs.map fun r => ⟨k.dot w f d r, BitVec.ofNat 32 r.i, r.i⟩)

def semQmaxi (f : VQ) : Sem :=
  wholeQuery (f.uses true [.v f.vd.toNat]) f false (.fixed 8) (fun _ _ _ => false) fun k w d rs =>
    (k.bestRows w f d 1 rs).flatMap fun p => [(f.vd.toNat, 0, p.1), (f.vd.toNat, 1, p.2)]
/-- qmaxi (R201). -/
def execQmaxi (f : VQ) (s : State) : Out := s.vectorWord (semQmaxi f)

/-- The word's k is longer than a register (R196). -/
def kTooLong (f : VQ) (_ : VC) (w : VW) (_ : QDesc) : Bool := mvlOf w.env.nregs < f.k.toNat

def semQtopk (f : VQ) : Sem :=
  wholeQuery (f.uses true [.v f.vd.toNat, .v (f.vd.toNat + 1)]) f true (.fixed (8 * f.k.toNat)) (kTooLong f) fun k w d rs =>
    (numbered 0 (k.bestRows w f d f.k.toNat rs)).flatMap fun p => [(f.vd.toNat, p.1, p.2.1), (f.vd.toNat + 1, p.1, p.2.2)]
/-- qtopk (R201). -/
def execQtopk (f : VQ) (s : State) : Out := s.vectorWord (semQtopk f)

/-- A finite value. -/
def Num.isFin : Num → Bool
  | .fin .. => true
  | _ => false

/-- The bin of a key: floor of (x - lo) / width, computed exactly, clamped to the n bins; a NaN has none (R202). -/
def binOf (lo width x : Num) (n : Nat) : Option Nat :=
  match x with
  | .nan .. => none
  | .inf neg => some (if neg then 0 else n - 1)
  | .fin sx mx ex =>
    match lo, width with
    | .fin sl ml el, .fin sw mw ew =>
      let e := min (min ex el) ew
      let q := (scaled sx mx ex e - scaled sl ml el e) / scaled sw mw ew e
      some (clampInt 0 ((n : Int) - 1) q).toNat
    | _, _ => none

def semQhist (f : VQ) : Sem :=
  wholeQuery (f.uses true [.v f.vd.toNat]) f false (.fixed (4 * f.k.toNat))
    (fun k w d =>
      let lo := f32 (k.coeff w f 0)
      let width := f32 (k.coeff w f 1)
      kTooLong f k w d || !lo.isFin || !width.isFin || !ltNum (.fin false 0 0) width)
    fun k w d rs =>
      let bins := rs.filterMap fun r => binOf (f32 (k.coeff w f 0)) (f32 (k.coeff w f 1)) (keyNum d.fmt (slotAt r.xs d.keycol)) f.k.toNat
      columns f.vd.toNat f.k.toNat fun b => BitVec.ofNat 32 (bins.filter (· == b)).length
/-- qhist (R202). -/
def execQhist (f : VQ) (s : State) : Out := s.vectorWord (semQhist f)

/-! ### Replies (R70, R197, R205) -/

/-- One reply of a query arrives: the next element of a qdot, or a whole combined reply; with the last one the destination is full. -/
def Hart.takeReply (h : Hart) (q : Query) : Hart :=
  let rest := h.queries.filter fun x => x.vd != q.vd
  match q.whole, q.writes with
  | false, (r, i, x) :: y :: t =>
    { h.setElem r i x with queries := h.queries.map fun z => if z.vd == q.vd then { z with writes := y :: t } else z }
  | _, _ => { h.commitQuery q with queries := rest }

/-- queryReply (R197): a reply of one of the hart's queries arrives; which of several is a free choice (R206 states times only). A stream that waits for it
looks again in its own turn (R74). -/
def execQueryReply (slot : Nat) (s : State) : Out :=
  match s.hart slot with
  | none => .next s
  | some h =>
    match h.queries with
    | [] => .next s
    | q :: t =>
      let pick := nthD q (q :: t) (Config.choice s.steps % (t.length + 1))
      .next (s.setHart slot (h.takeReply (if t.isEmpty then q else pick)))

end Sys2Proof.Machine
end

