-- ==== Sys2Proof/Machine/ConvoyIssue.lean ====
section
/-! DEFINITION. The vector stream's turn: the partition of a block into convoys (R73), the issue of the next convoy, and the producers
of load queues that are restarted after a stop (R71). -/
namespace Sys2Proof.Machine

/-- The own part of a vector word in its convoy, on a hart; none for an instruction that is no vector word or is vstop. -/
def instrSem (h : Hart) : Instr → Option Sem
  | .vaddFp bf f => some (semVaddFp bf f)
  | .vsubFp bf f => some (semVsubFp bf f)
  | .vmulFp bf f => some (semVmulFp bf f)
  | .vfma bf f => some (semVfma bf f)
  | .vfms bf f => some (semVfms bf f)
  | .vfnma bf f => some (semVfnma bf f)
  | .vdiv bf f => some (semVdiv bf f)
  | .vsqrt bf f => some (semVsqrt bf f)
  | .vminFp bf f => some (semVminFp bf f)
  | .vmaxFp bf f => some (semVmaxFp bf f)
  | .vabs bf f => some (semVabs bf f)
  | .vneg bf f => some (semVneg bf f)
  | .vcopysign bf f => some (semVcopysign bf f)
  | .vexp2 f => some (semVexp2 f)
  | .vlog2 f => some (semVlog2 f)
  | .vrcp f => some (semVrcp f)
  | .vrsqrt f => some (semVrsqrt f)
  | .vtanh f => some (semVtanh f)
  | .vcvtBf16F32 f => some (semVcvtBf16F32 f)
  | .vcvtF32I32 f => some (semVcvtF32I32 f)
  | .vcvtI32F32 f => some (semVcvtI32F32 f)
  | .vcvtF32N32 f => some (semVcvtF32N32 f)
  | .vcvtN32F32 f => some (semVcvtN32F32 f)
  | .vround f => some (semVround f)
  | .vclass f => some (semVclass f)
  | .vaddI32 f => some (semVaddI32 f)
  | .vsubI32 f => some (semVsubI32 f)
  | .vmulI32 f => some (semVmulI32 f)
  | .vmulh f => some (semVmulh f)
  | .vmulhn f => some (semVmulhn f)
  | .vand f => some (semVand f)
  | .vor f => some (semVor f)
  | .vxor f => some (semVxor f)
  | .vshl f => some (semVshl f)
  | .vshr f => some (semVshr f)
  | .vsra f => some (semVsra f)
  | .vminI32 f => some (semVminI32 f)
  | .vmaxI32 f => some (semVmaxI32 f)
  | .vminn f => some (semVminn f)
  | .vmaxn f => some (semVmaxn f)
  | .vaddi f => some (semVaddi f)
  | .vandi f => some (semVandi f)
  | .vori f => some (semVori f)
  | .vxori f => some (semVxori f)
  | .vshli f => some (semVshli f)
  | .vshri f => some (semVshri f)
  | .vsrai f => some (semVsrai f)
  | .vcmp ty cond f => some (semVcmp ty cond f)
  | .mand f => some (semMand f)
  | .mor f => some (semMor f)
  | .mxor f => some (semMxor f)
  | .mandn f => some (semMandn f)
  | .mnot f => some (semMnot f)
  | .mset f => some (semMset f)
  | .mclr f => some (semMclr f)
  | .mfromv f => some (semMfromv f)
  | .mtov f => some (semMtov f)
  | .mpop f => some (semMpop f)
  | .mfirst f => some (semMfirst f)
  | .mlist f => some (semMlist f)
  | .vid f => some (semVid f)
  | .vmv f => some (semVmv f)
  | .vsel f => some (semVsel f)
  | .vcompress f => some (semVcompress f)
  | .vexpand f => some (semVexpand f)
  | .vperm f => some (semVperm f)
  | .vslideup f => some (semVslideup f)
  | .vslidedn f => some (semVslidedn f)
  | .vbcast f => some (semVbcast f)
  | .vredsumF32 f => some (semVredsumF32 f)
  | .vredsumBf16 f => some (semVredsumBf16 f)
  | .vredmax f => some (semVredmax f)
  | .vredmin f => some (semVredmin f)
  | .vredsumI32 f => some (semVredsumI32 f)
  | .vredsumb f => some (semVredsumb f)
  | .vscanF32 f => some (semVscanF32 f)
  | .vredmaxi f => some (semVredmaxi f)
  | .vmergek f => some (semVmergek f)
  | .vtopk f => some (semVtopk f)
  | .xcount f => some (semXcount f)
  | .xcsel f => some (semXcsel f (h.experts f))
  | .vld f => some (semVld f)
  | .vlds f => some (semVlds f)
  | .vldx f => some (semVldx f)
  | .vldff f => some (semVldff f)
  | .vldseg f => some (semVldseg f (h.segPerm f))
  | .vst f => some (semVst f)
  | .vsts f => some (semVsts f)
  | .vstx f => some (semVstx f)
  | .vappend f => some (semVappend f)
  | .vpref f => some (semVpref f)
  | .mdrain f => some (semMdrain f)
  | .mfill f => some (semMfill f)
  | .vamoAdd o f => some (semVamoAdd o f h.mreg.toNat)
  | .vamoAnd o f => some (semVamoAnd o f h.mreg.toNat)
  | .vamoOr o f => some (semVamoOr o f h.mreg.toNat)
  | .vamoXor o f => some (semVamoXor o f h.mreg.toNat)
  | .vamoMin o f => some (semVamoMin o f h.mreg.toNat)
  | .vamoMax o f => some (semVamoMax o f h.mreg.toNat)
  | .vamoMinn o f => some (semVamoMinn o f h.mreg.toNat)
  | .vamoMaxn o f => some (semVamoMaxn o f h.mreg.toNat)
  | .vamoSwap o f => some (semVamoSwap o f h.mreg.toNat)
  | .cadd f => some (semCadd f)
  | .qdot f => some (semQdot f)
  | .qwsum f => some (semQwsum f)
  | _ => none

/-- The own part of a decoded vector word. -/
def wordSem (h : Hart) : VWord → Option Sem
  | .core i => instrSem h i
  | .qfsum f => some (semQfsum f)
  | .qmaxi f => some (semQmaxi f)
  | .qtopk f => some (semQtopk f)
  | .qhist f => some (semQhist f)

/-- The own part of a word of the front block: a vldseg whose convoy has issued keeps the places it issued with (R155). -/
def Block.sem (b : Block) (h : Hart) (x : VWord) : Option Sem :=
  match x with
  | .core (.vldseg f) => some (semVldseg f (if b.issued then b.perm else h.segPerm f))
  | x => wordSem h x

/-- The word at an address as a member of a convoy; none where the convoy cannot go on: vstop, no instruction, or a fetch
fault. -/
def State.memberAt (s : State) (h : Hart) (b : Block) (w : Who) (pc : Word) : Option (Word × Sem) :=
  match s.fetchVWord w pc.toNat with
  | .ok (some x) => (b.sem h x).map fun m => (pc, m)
  | _ => none

/-- The members of a convoy from an address on, at most n more after those in acc (R73). -/
def State.convoyFrom (s : State) (h : Hart) (b : Block) (w : Who) : Nat → Word → List WordUse → List (Word × Sem)
  | 0, _, _ => []
  | n + 1, pc, acc =>
    match s.memberAt h b w pc with
    | none => []
    | some m => if acc.isEmpty || joins acc m.2.use then m :: s.convoyFrom h b w n (pc + 8) (acc ++ [m.2.use]) else []

/-- The next convoy of a hart's front block: at most eight words; or the members of a part of one that a trap cut short: a word of the
convoy after it does not join them (R72, R73). -/
def State.nextConvoy (s : State) (slot : Nat) (h : Hart) (b : Block) : List (Word × Sem) :=
  s.convoyFrom h b (h.who slot) (if b.cut ≠ 0 then b.cut else 8) b.pc []

/-- The vector stream of a slot goes on with its next convoy, or inside it, for at most n fronts of elements (log 10): another party may
take its turn, or a pre-emption may land, at every front where the convoy may stand. -/
def State.convoyPart (s : State) (slot n : Nat) : Out :=
  match s.hart slot with
  | some h =>
    match h.blocks with
    | b :: _ =>
      match s.nextConvoy slot h b with
      | m :: ms => s.convoyUpTo (some n) false slot h b (m :: ms)
      | [] => .next s
    | [] => .next s
  | none => .next s

/-- A pre-emption strikes the convoy of a slot that goes only in one turn after at most n of its fronts: a front where it may stand is its end (R70, R263;
log 10). Other convoys stand at such fronts of themselves. -/
def State.strikeTied (s : State) (slot n : Nat) : State :=
  match s.hart slot with
  | some h =>
    match h.blocks with
    | b :: _ =>
      if !(b.issued && b.tied) then s else
      (match s.nextConvoy slot h b with
        | m :: ms => (match s.convoyUpTo (some n) true slot h b (m :: ms) with
            | .next t => (match t.hart slot with
                | some g => if g.state == .running then t else s
                | none => s)
            | _ => s)
        | [] => s)
    | [] => s
  | none => s

/-! ### Restarted producers (R71) -/

/-- The first producer that is still to be restarted: its queue and its record. -/
def Hart.restartNext (h : Hart) : Option (Nat × Rewind) :=
  (upFrom 0 4).findSome? fun j => match (h.lq.getD j LoadQ.empty).restart with
    | r :: _ => some (j, r)
    | [] => none

/-- The load that a record names. A vldff is restarted as a vld, since its elements had loaded (R71, R154). -/
def restartSem (h : Hart) : VWord → Option Sem
  | .core (.vldff f) => some (semVld f)
  | x => wordSem h x

/-- A trap of a restarted producer: nothing of the hart's streams moves (R71). -/
def State.restartTrap (s : State) (slot : Nat) (h : Hart) (t : Trap) (bad : Option Place) : Out :=
  let st := match bad with
    | some p => s.logError p.key
    | none => s
  st.trapHart slot h t h.sc.pc

/-- A record removed once its producer has loaded its elements again. -/
def Hart.restarted (h : Hart) (j : Nat) : Hart :=
  let q := h.lq.getD j LoadQ.empty
  { h with lq := h.lq.setIfInBounds j { q with restart := q.restart.drop 1 } }

/-- Restart one producer: it loads its unconsumed elements again, and the blocks that it sends count again (R71, R149). R71 does not say which mask, list,
index register and s16 to s31 it uses, nor what its cycles are: it uses those that stand at the restart, and spends as a convoy of its own when it succeeds
and nothing when it faults (DESIGN CHOICE, log 53). -/
def State.restartLoad (s : State) (slot : Nat) (h : Hart) (j : Nat) (r : Rewind) : Out :=
  if h.grant = 0 then .next (s.setHart slot { h with vwait := true }) else
  match s.fetchVWord (h.who slot) r.waddr.toNat with
  | .error c => s.restartTrap slot h { cause := c, addr := r.waddr.toNat, access := accessField 5 0 0 false } none
  | .ok none => s.restartTrap slot h { cause := 1 } none
  | .ok (some x) =>
    match restartSem h x with
    | none => s.restartTrap slot h { cause := 1 } none
    | some m =>
      let w : VW := ⟨0, 0, r.waddr, r.env, r.env.vl, r.elem, false, false, [], [], []⟩
      let h1 := { h.spendStartup m.use.kind.startup with timed := some (r.waddr.toNat, 1, r.env.vl) }
      let k : VC := ⟨s, slot, h1, [], [], [], h1⟩
      let stop (k1 : VC) (e : VStop) : Out := match e with
        | .trap t bad => s.restartTrap slot { h with localreq := k1.h.localreq, remotereq := k1.h.remotereq } t bad
        | _ => .next (s.setHart slot { h with vwait := true })
      match m.probe k w with
      | .error e => stop k e
      | .ok _ =>
        match Convoy.run [(m, w)] r.elem k with
        | .done k1 => .next (k1.st.setHart slot { k1.h.restarted j with vwait := false, lastIssue := s.wall, aged := 0 })
        | .stop k1 _ e => stop k1 e

/-- convoyIssue (R60, R61, R63, R71, R73): the vector stream of a slot restarts its next producer, or issues and runs its next convoy;
a block that stands at its vstop ends, and a word that is no instruction or cannot be fetched traps (R94, R116). -/
def execConvoyIssue (slot : Nat) (s : State) : Out :=
  match s.hart slot with
  | none => .next s
  | some h =>
    match h.state with
    | .running =>
      match h.restartNext with
      | some (j, r) => s.restartLoad slot h j r
      | none =>
        match h.blocks with
        | [] => .next s
        | b :: rest =>
          match s.nextConvoy slot h b with
          | m :: ms => s.convoy slot h b (m :: ms)
          | [] =>
            match s.fetchVWord (h.who slot) b.pc.toNat with
            | .error c =>
              s.trapHart slot h { cause := c, addr := b.pc.toNat, access := accessField 5 0 0 false } h.sc.pc
            | .ok none => s.trapHart slot h { cause := 1 } h.sc.pc
            | .ok (some x) => if x.isStop then .next (s.setHart slot { h with blocks := rest }) else .next s
    | _ => .next s

end Sys2Proof.Machine
end

