-- ==== Sys2Proof/Machine/Forks.lean ====
section
/-! DEFINITION. Forked programs, forked harts, rendezvous and halt (R168, R182, R226 to R229). -/
namespace Sys2Proof.Machine

/-- The scalar side with which a matrix program begins (R168, R169): s2 := b, the other registers zero, the numeric
registers copied, a generator of its own seeded as g64 with seed 0. -/
def Scalar.forked (c : Scalar) (pc b : Word) : Scalar :=
  { Scalar.launch pc with fround := c.fround, vround := c.vround, fflags := c.fflags }.set 2 b

/-- The chaining bits of the accumulators in a claim mask set (R179). -/
def setClaims (chain : Vector (BitVec 128) 4) (claims : BitVec 4) : Vector (BitVec 128) 4 :=
  Vector.ofFn fun j => if claims.getLsbD j.val then BitVec.allOnes 128 else chain.getD j.val 0

/-- The chaining bits of the accumulators in a claim mask cleared. -/
def clearClaims (chain : Vector (BitVec 128) 4) (claims : BitVec 4) : Vector (BitVec 128) 4 :=
  Vector.ofFn fun j => if claims.getLsbD j.val then 0 else chain.getD j.val 0

/-- fork.m (R168, R179): a misaligned entry is cause 0x03; a busy core makes the hart wait. -/
def execForkM (a b : Reg) (s : State) : Out :=
  s.scalarWord .vecOnly fun k => do
    k.need [] [a, b]
    let h ← k.hart
    let pc := k.c.get a
    if pc.toNat % 4 != 0 then k.trap { cause := 3, addr := pc.toNat } else
    let c := slotCluster k.slot
    let cl := k.st.cluster c
    if cl.mcc.isSome then k.wait else
    let claims : BitVec 4 := (k.c.get b).setWidth 4
    let m : Mcc := ⟨k.slot, h.ctx, h.kid, k.c.forked pc (k.c.get b), false, h.blockSeq, claims, 0, 32, k.st.time, 0⟩
    let cl1 := ((upFrom 0 4).filter fun j => claims.getLsbD j).foldl (fun x j => x.takeAcc h.ctx h.kid j) cl
    .ok { k with st := k.st.setCluster c { cl1 with mcc := some m, chain := setClaims cl.chain claims },
                 c := k.c.advance }

/-- fork.c (R226): the program's registers beyond the program counter and s2 are zero, the numeric registers among them. -/
def execForkC (a b : Reg) (s : State) : Out :=
  s.scalarWord .vecOnly fun k => do
    k.need [] [a, b]
    let h ← k.hart
    let pc := k.c.get a
    if pc.toNat % 4 != 0 then k.trap { cause := 3, addr := pc.toNat } else
    let c := slotCluster k.slot
    let cl := k.st.cluster c
    if cl.seq.isSome then k.wait else
    let q : CopySeq := ⟨k.slot, h.ctx, h.kid, (Scalar.launch pc).set 2 (k.c.get b), false, h.blockSeq, Vector.replicate 8 Token.idle,
      Vector.replicate 8 none, k.st.time⟩
    .ok { k with st := k.st.setCluster c { cl with seq := some q }, c := k.c.advance }

/-- The clusters in the order in which fork.h tries them (R227). -/
def forkOrder (c : Nat) : List Nat :=
  let d := clusterDie c
  c :: ((upFrom 1 63).map fun i => 64 * d + (c % 64 + i) % 64) ++
    (upFrom 1 3).flatMap fun j => (upFrom 0 64).map fun i => 64 * ((d + j) % 4) + i

/-- fork.h (R227): after the hart's earlier vector words, which the new hart observes. While a change of the clock mode is
pending nothing is placed, and in locked-clock mode the new hart's cluster holds no hart of another kernel (R314). -/
def execForkH (d a b : Reg) (s : State) : Out :=
  s.scalarWord .vecOnly fun k => do
    k.need [d] [a, b]
    let h ← k.hart
    let pc := k.c.get a
    if pc.toNat % 4 != 0 then k.trap { cause := 3, addr := pc.toNat } else
    k.quiet
    let none' : Res Ctx := .ok (k.write d (BitVec.allOnes 64))
    match k.st.kernel h.ctx h.kid with
    | none => none'
    | some kn =>
      if k.st.clkReq != k.st.clkCur then none' else
      match (forkOrder (slotCluster k.slot)).find? fun c => k.st.clusterTakes c kn with
      | none => none'
      | some c =>
        match k.st.createHart kn c kn.nextHart pc (k.c.get b) with
        | none => none'
        | some t => .ok (({ k with st := t.setKernel { kn with nextHart := kn.nextHart + 1 } } : Ctx).write d
            (BitVec.ofNat 64 kn.nextHart))

/-- The hart has a program running on its cluster's matrix control core, or copy sequencer. -/
def Ctx.forkedM (k : Ctx) : Bool := match (k.st.cluster (slotCluster k.slot)).mcc with
  | some m => m.slot == k.slot
  | none => false
def Ctx.forkedC (k : Ctx) : Bool := match (k.st.cluster (slotCluster k.slot)).seq with
  | some q => q.slot == k.slot
  | none => false

/-- A rendezvous (R228): waits for the named programs of this hart. -/
def rdvWord (busy : Ctx → Bool) (s : State) : Out :=
  s.scalarWord .vecOnly fun k => if busy k then k.wait else .ok k.done

/-- rdv.m (R228). -/
def execRdvM (s : State) : Out := rdvWord Ctx.forkedM s

/-- rdv.c (R228). -/
def execRdvC (s : State) : Out := rdvWord Ctx.forkedC s

/-- rdv.mc (R228). -/
def execRdvMc (s : State) : Out := rdvWord (fun k => k.forkedM || k.forkedC) s

/-- halt of a vector hart (R229). It also waits for the committed elements of its write streams (log 21). -/
def Ctx.haltHart (k : Ctx) : Res Ctx := do
  let h ← k.hart
  k.settled h
  match tokenTrap h.tok.toList 0xFF with
  | some t => k.trap t
  | none =>
    if !h.bars.isEmpty then k.cause 0x0D else
    if h.q.toList.any (fun q => q.any fun t => !t.pending.isEmpty) then k.wait else
    let s1 := k.st.removeHart k.slot
    let s2 := (0 :: h.groups).foldl (fun t g => t.groupLeft h.ctx g h.kid) s1
    .ok { k with st := s2.kernelDone h.ctx h.kid }

/-- halt (R182, R226, R229). -/
def execHalt (s : State) : Out :=
  s.scalarWord .haltWord fun k =>
    match k.p with
    | .vec _ => k.haltHart
    | .mcc c =>
      let cl := k.st.cluster c
      match cl.mcc with
      | none => .error (k.st, .fault .noParty)
      | some m =>
        if !cl.fillq.isEmpty || !cl.arrq.isEmpty then k.wait else
        .ok { k with st := k.st.setCluster c { cl with mcc := none, chain := clearClaims cl.chain m.claims } }
    | .seq c =>
      let cl := k.st.cluster c
      match cl.seq with
      | none => .error (k.st, .fault .noParty)
      | some q =>
        if q.tok.toList.any fun t => t.state == .busy then k.wait else
        .ok { k with st := k.st.setCluster c { cl with seq := none } }
    | .scc _ => k.cause 1

/-- Every vector word handed over before a fork has committed (R168, R226). -/
def Hart.pastFork (h : Hart) (after : Nat) : Bool :=
  h.blocks.all (fun b => after ≤ b.seq) && h.queries.all fun q => after ≤ q.seq

/-- matrixProgramStart (R168): the program begins once the vector words before its fork have committed. -/
def execMatrixProgramStart (cluster : Nat) (s : State) : Out :=
  let cl := s.cluster cluster
  match cl.mcc with
  | some m =>
    match s.hart m.slot with
    | some h =>
      if !m.begun && h.pastFork m.after then
        .next ((s.setCluster cluster { cl with mcc := some { m with begun := true, start := s.time } }).freshEngine (s.who (.mcc cluster)))
      else .next s
    | none => .next s
  | none => .next s

/-- copyProgramStart (R226). -/
def execCopyProgramStart (cluster : Nat) (s : State) : Out :=
  let cl := s.cluster cluster
  match cl.seq with
  | some q =>
    match s.hart q.slot with
    | some h =>
      if !q.begun && h.pastFork q.after then
        .next ((s.setCluster cluster { cl with seq := some { q with begun := true, start := s.time } }).freshEngine (s.who (.seq cluster)))
      else .next s
    | none => .next s
  | none => .next s

end Sys2Proof.Machine
end

