-- ==== Sys2Proof/Machine/System.lean ====
section
/-! DEFINITION. Explicit traps, eret, logmark and tlbinv (R297 to R299, R330), interval digests and retention (R295, R355). -/
namespace Sys2Proof.Machine

/-- A word that is performed and then traps: the party stops at the next word, and the record names this one (R297). -/
def trapWord (body : Ctx → Res Trap) (s : State) : Out :=
  match s.scalar s.cur with
  | none => .fault .noParty
  | some c =>
    match body ⟨s, s.cur, c⟩ with
    | .error (t, w) => t.stopped s.cur c.pc w
    | .ok t => (s.retire s.cur c.pc).takeTrap s.cur t (c.pc + 4) c.pc

/-- trap (R297): waits as vsync, then cause 0x10 with the register's value. -/
def execTrap (a : Reg) (s : State) : Out :=
  trapWord (fun k => do
    k.need [] [a]
    k.quiet
    .ok { cause := 0x10, info := (k.c.get a).toNat }) s

/-- brk (R297). -/
def execBrk (s : State) : Out :=
  trapWord (fun k => do
    k.quiet
    .ok { cause := 0x0F }) s

/-- The core on turn of a supervisor word. -/
def Ctx.die (k : Ctx) : Nat := match k.p with
  | .scc d => d
  | _ => 0

/-- eret (R299): the held hart that TRHART names resumes, or err is set. -/
def execEret (s : State) : Out :=
  s.scalarWord .super fun k =>
    let d := k.die
    let x := k.st.die d
    match k.st.resumeHart x.trCtx x.trKernel x.trHart with
    | some t => .ok { k with st := t.setDie d { x with trErr := false }, c := k.c.advance }
    | none => .ok { k with st := k.st.setDie d { x with trErr := true }, c := k.c.advance }

/-- logmark (R298, R354): a mark in the log of the party's hart, at its place in program order. A stream controller core is no
hart of a context and logs nothing. -/
def execLogmark (a : Reg) (s : State) : Out :=
  s.scalarWord .traps fun k => do
    k.need [] [a]
    match k.p with
    | .scc _ => .ok k.done
    | _ =>
      if k.st.dbg.silMode != 0 && k.st.dbg.sel == (k.st.who k.p).ctx then k.quiet
      let k1 ← k.sync 12 (some (k.c.get a).toNat)
      .ok k1.done

/-! ### tlbinv (R330) -/

/-- The value of tlbinv keeps its layout. -/
def tlbinvOk (v : Word) : Bool := v.field 11 0 == 0 && (!v.getLsbD 57 || v.field 56 12 == 0)

/-- A cached translation is one that tlbinv removes. -/
def tlbinvHits (ctx va : Nat) (all : Bool) (e : TlbEntry) : Bool :=
  e.ctx == ctx && (all || (e.va ≤ va && va < e.va + 2 ^ e.lg))

/-- A cached image has a page among the addresses removed (R313). -/
def imageHit (ctx va : Nat) (all : Bool) (gone : List TlbEntry) (i : ImageEntry) : Bool :=
  let n := i.head.length + i.text.length
  i.ctx == ctx && (all || (i.image ≤ va / 4096 * 4096 + 4095 && va / 4096 * 4096 < i.image + n) ||
    gone.any fun e => e.va < i.image + n && i.image < e.va + 2 ^ e.lg)

/-- A hart's convoy has issued. -/
def Hart.inConvoy (h : Hart) : Bool := match h.blocks with
  | b :: _ => b.issued
  | [] => false

/-- A pin keeps in use a translation that tlbinv removes. -/
def Pin.hit (p : Pin) (va : Nat) (all : Bool) : Bool := all || p.meets va 1

/-- A hart's vector stream stopped at its front, and the claims of its word given up (R70, R211). A creloc under way goes on (R330). -/
def State.stopVector (s : State) (slot : Nat) : State :=
  match s.hart slot with
  | some h => (s.releaseClaims slot).setHart slot { h.atFront true with reloc := h.reloc, relocPins := h.relocPins, vwait := false }
  | none => s

/-- The hart's convoy in issue has a word, not a query word, that holds a pin on what tlbinv removes (R330). -/
def Hart.probedOn (h : Hart) (va : Nat) (all : Bool) : Bool := h.blocks.any fun b => b.issued && b.pins.any fun p => !p.query && p.hit va all

/-- The translations removed, from every cache; the harts whose vector words have a pin on one stop at their fronts, from where they probe
afresh. -/
def State.tlbRemove (s : State) (ctx va : Nat) (all : Bool) : State :=
  let gone := s.tlb.filter (tlbinvHits ctx va all)
  let s1 := { s with tlb := s.tlb.filter fun e => !tlbinvHits ctx va all e }
  let s2 := s1.dropImages (imageHit ctx va all gone)
  (s2.harts.filterMap fun e => if e.2.ctx == ctx && e.2.probedOn va all then some e.1 else none).foldl (fun t i => t.stopVector i) s2

/-- What else holds a pin, which tlbinv waits for (R330): query words, by their slot and block; and scalar accesses between two pieces and
crelocs, by their slot and word. -/
def State.tlbHolders (s : State) (ctx va : Nat) (all : Bool) : List (Nat × Nat × Nat) :=
  s.harts.flatMap fun e =>
    if e.2.ctx != ctx then [] else
    ((e.2.queries.filter fun q => q.pins.any fun p => p.hit va all).map fun q => (e.1, 0, q.seq)) ++
    ((e.2.blocks.filter fun b => b.issued && b.pins.any fun p => p.query && p.hit va all).map fun b => (e.1, 0, b.seq)) ++
    (if (Hart.pins.optPins e.2.half ++ e.2.relocPins).any fun p => p.hit va all then [(e.1, 1, e.2.words)] else [])

/-- A holder still stands. -/
def State.tlbHeld (s : State) (x : Nat × Nat × Nat) : Bool :=
  match s.hart x.1 with
  | none => false
  | some h =>
    if x.2.1 = 0 then (h.queries.any fun q => q.seq == x.2.2) || h.blocks.any fun b => b.issued && b.seq == x.2.2
    else (h.half.isSome || h.reloc != 0) && h.words == x.2.2

/-- tlbinv (R330): removes, then waits for the pins that it does not take away. -/
def execTlbinv (a : Reg) (s : State) : Out :=
  s.scalarWord .super fun k =>
    let v := k.c.get a
    if !tlbinvOk v then k.cause 1 else
    let ctx := v.field 63 58
    let va := v.field 56 12 * 4096
    let all := v.getLsbD 57
    let x := k.st.die k.die
    let waits (t : State) (hs : List (Nat × Nat × Nat)) : Res Ctx :=
      if hs.any t.tlbHeld then .error (t.setDie k.die { t.die k.die with tlbWait := some hs }, .wait)
      else .ok { k with st := t.setDie k.die { t.die k.die with tlbWait := none }, c := k.c.advance }
    match x.tlbWait with
    | some hs => waits k.st hs
    | none => let t := k.st.tlbRemove ctx va all; waits t (t.tlbHolders ctx va all)

/-! ### Steps of a hart that no word names -/

/-- intervalDigest (R355): a hart whose count of words is due waits as vsync does and writes its digest. -/
def execIntervalDigest (slot : Nat) (s : State) : Out :=
  match s.hart slot with
  | none => .next s
  | some h =>
    if !h.digestDue then .next s
    else if !h.quiet then .next (s.setHart slot { h with waiting := true })
    else
      match s.syncEvent h.ctx h.hartid h.kid 13 (some (s.digest slot h)) with
      | .pass t => .next (t.setHart slot { h with digestDue := false })
      | .wait => .next (s.setHart slot { h with waiting := true })
      | .diverged t => .next t

/-- retentionEntry (R295): a register bank of eight that has not been accessed for 4,096 cycles enters retention, which keeps every
bit. -/
def execRetentionEntry (slot bank : Nat) (s : State) : Out :=
  match s.hart slot with
  | none => .next s
  | some h =>
    if 8 ≤ bank || h.retained.contains bank || s.time < tblGet h.placedAt bank h.touched + 4096 then .next s
    else .next (s.setHart slot { h with retained := h.retained ++ [bank] })

end Sys2Proof.Machine
end

