-- ==== Sys2Proof/Machine/Launch.lean ====
section
/-! DEFINITION. Launch, the scoreboard, placement, lane grants, priorities, budgets and the clock mode (R102, R290, R306 to R319). -/
namespace Sys2Proof.Machine

/-! ### Kernel records and image headers (R102, R306) -/

/-- A transfer of a kernel record, when it keeps R306. -/
def parseTransfer (bs : List Byte) : Option Transfer :=
  let n := recNat bs 16 8
  if n % 64 == 0 && 64 ≤ n && n ≤ 2 ^ 40 && recNat bs 24 8 == 0 then some ⟨recNat bs 0 8, recNat bs 8 8, n, 0, false⟩ else none

/-- What a kernel record asks for. -/
structure LaunchRec where
  image  : Nat
  args   : Nat
  n      : Nat
  ctx    : Nat
  prio   : Nat
  budget : Nat
  after  : List Nat
  done   : Nat
  trans  : List Transfer
  deriving DecidableEq, Repr

/-- A kernel record, when it keeps R306. -/
def parseLaunch (bs : List Byte) : Option LaunchRec :=
  let image := recNat bs 0 8
  let args := recNat bs 8 8
  let done := recNat bs 0x30 8
  let nt := recNat bs 0x28 1
  if image % 4096 == 0 && args % 8 == 0 && recNat bs 0x14 1 < 64 && recNat bs 0x15 1 ≤ 6 && recNat bs 0x16 2 == 0 && nt ≤ 2 &&
      recNat bs 0x29 7 == 0 && done % 32 == 0 && recNat bs 0x38 8 == 0 then
    match ((upFrom 0 nt).mapM fun i => parseTransfer (bs.drop (0x40 + 32 * i))) with
    | none => none
    | some ts =>
      some ⟨image, args, recNat bs 0x10 4, recNat bs 0x14 1, recNat bs 0x15 1, recNat bs 0x18 8,
        ((upFrom 0 4).map fun i => recNat bs (0x20 + 2 * i) 2).filter (· != 0xFFFF), done, ts⟩
  else none

/-- The least multiple of n at or above a. -/
def roundUp (a n : Nat) : Nat := (a + n - 1) / n * n

/-- An image header keeps R102. -/
def headerOk (bs : List Byte) : Bool :=
  let nregs := recNat bs 6 1
  let lanes := recNat bs 7 1
  let scratch := recNat bs 8 4
  let entry := recNat bs 0x10 8
  let textEnd := 0x40 + recNat bs 0x18 8
  let nplace := recNat bs 0x34 4
  let place := recNat bs 0x38 8
  let placeEnd := if nplace = 0 then textEnd else roundUp textEnd 16 + 16 * nplace
  let dataoff := recNat bs 0x20 8
  recNat bs 0 4 == 0x314B5944 && recNat bs 4 2 == 1 && [8, 16, 32, 64].contains nregs && [8, 16, 32, 64].contains lanes &&
  scratch % 4096 == 0 && scratch ≤ 2 ^ 21 && recNat bs 0x0C 2 < 2 && recNat bs 0x0E 2 == 0 &&
  entry % 4 == 0 && 0x40 ≤ entry && entry < textEnd &&
  (if dataoff = 0 then recNat bs 0x28 8 == 0 else dataoff == roundUp placeEnd 4096) &&
  recNat bs 0x30 4 % 8 == 0 && place == (if nplace = 0 then 0 else roundUp textEnd 16)

/-- A kernel from its record and header, before it has a KERNELID. -/
def newKernel (die : Nat) (r : LaunchRec) (head text : List Byte) : Kernel :=
  { ctx := r.ctx, kid := 0, die := die, state := .waiting, image := r.image, args := BitVec.ofNat 64 (r.args % 2 ^ 57), n := r.n,
    prio := r.prio, budget := r.budget, after := r.after, done := r.done, trans := r.trans, nregs := recNat head 6 1,
    lanes := recNat head 7 1, scratch := recNat head 8 4, elastic := recNat head 0x0C 2 == 1, entry := recNat head 0x10 8,
    text := text, placed := 0, nextHart := r.n, count := 0, refresh := 0, retry := 0, broken := false, readyAt := 0, aged := 0,
    order := 0, launched := 0, doomed := none }

/-! ### The image cache (R312, R313) -/

/-- Bytes of an image page by page, as far as its pages are readable; the state keeps the translations. -/
def State.readImage (s : State) (w : Who) (va : Nat) : Nat → Nat → State × List Byte
  | 0, _ => (s, [])
  | fuel + 1, n =>
    if n = 0 then (s, []) else
    match s.xlate w .load va with
    | .error _ => (s, [])
    | .ok p =>
      let m := min n (4096 - va % 4096)
      let (s1, rest) := (s.touch w.ctx va).readImage w (va + m) fuel (n - m)
      (s1, s.peek p.key m ++ rest)

/-- Who reads an image or record through a context for a controller. -/
def launchWho (ctx die : Nat) : Who := ⟨ctx, none, die, true, 0xFFFF, 0xFFFFFFFF, [], 0⟩

/-- The cache with an entry used now; the least recently launched goes when the cache is full. -/
def useImage (l : List ImageEntry) (e : ImageEntry) : List ImageEntry :=
  let others := l.filter fun i => !(i.ctx == e.ctx && i.image == e.image)
  let kept := if others.length < 64 then others else
    match others with
    | [] => []
    | x :: t => others.erase (t.foldl (fun a b => if b.used < a.used then b else a) x)
  kept ++ [e]

/-- An image's header and cached text: those of the live entry, or read through the context (R313). The cause of the header's page, or the state with
the translations kept, and what the cache holds once the kernel is launched. -/
def State.imageFor (s : State) (d ctx image : Nat) : Except Nat (State × ImageEntry) :=
  match (s.die d).images.find? fun i => i.ctx == ctx && i.image == image with
  | some e => .ok (s, e)
  | none =>
    let w := launchWho ctx d
    match (if 2 ^ 57 ≤ image then .error 4 else s.xlate w .load image) with
    | .error c => .error (if c = 4 then 4 else 5)
    | .ok p =>
      let head := s.peek p.key 64
      let (s1, bs) := s.readImage w image 6 (64 + min (recNat head 0x18 8) 16384)
      .ok (s1, ⟨ctx, image, head, bs.drop 64, 0⟩)

/-- The image of a kernel that is launched now stands in its controller's cache as the one launched last (R313). fresh: it was read for this
launch; otherwise only an entry that still stands is marked. -/
def State.cacheImage (s : State) (d : Nat) (fresh : Bool) (e : ImageEntry) : State :=
  let x := s.die d
  if fresh || x.images.any fun i => i.ctx == e.ctx && i.image == e.image
  then s.setDie d { x with images := useImage x.images { e with used := s.launches } } else s

/-! ### klaunch (R316) -/

/-- Live kernels that a controller holds (R308). -/
def State.heldBy (s : State) (d : Nat) : Nat := (s.kernels.filter fun k => k.die == d).length

/-- The next KERNELID of a context: counting up modulo 65,535, skipping live ones. -/
def State.nextKid (s : State) (ctx : Nat) : Nat :=
  let n := (s.context ctx).nextKid
  ((upFrom 0 1025).map fun i => (n + i) % 65535).find? (fun id => (s.kernel ctx id).isNone) |>.getD n

/-- A kernel enters the scoreboard as waiting, for those of the kernels named in after that are live (R308): the state and its KERNELID. -/
def State.enter (s : State) (k : Kernel) : State × Nat :=
  let id := s.nextKid k.ctx
  let c := s.context k.ctx
  let s1 := s.setContext k.ctx { c with nextKid := (id + 1) % 65535 }
  let k1 : Kernel := { k with kid := id, order := s1.launches, launched := s1.time, after := k.after.filter fun a => (s1.kernel k.ctx a).isSome }
  let s2 : State := { s1 with kernels := s1.kernels ++ [k1], launches := s1.launches + 1 }
  ((upFrom 0 k.trans.length).foldl (fun t n => t.freshEngine (transferWho k1 n)) s2, id)
where
  /-- Who makes the accesses of an input transfer of a kernel (log 58). -/
  transferWho (k : Kernel) (n : Nat) : Who := { launchWho k.ctx k.die with eng := 512 + 2 * k.kid + n }

/-- A klaunch with its kernel read: refused, which leaves the machine as old stands, entered, or waiting for a scoreboard place. fresh: its image was
read for this launch. -/
def Ctx.launch (k : Ctx) (old : State) (fresh : Bool) (d : Reg) (kn : Kernel) : Res Ctx :=
  let die := k.die
  let set (p : Option (Reg × Kernel × Bool)) (s : State) : State := s.setDie die { s.die die with pendingLaunch := p }
  if (k.st.context kn.ctx).state != 1 then
    .ok (({ k with st := set none old } : Ctx).write d (BitVec.ofInt 64 (-3)))
  else if !kn.elastic && 2048 < kn.n then
    .ok (({ k with st := set none old } : Ctx).write d (BitVec.ofInt 64 (-2)))
  else if 256 ≤ k.st.heldBy die then .error (set (some (d, kn, fresh)) k.st, .wait)
  else
    let s1 := (set none k.st).cacheImage die fresh ⟨kn.ctx, kn.image, kn.text.take 64, kn.text.drop 64, 0⟩
    let (t, id) := s1.enter kn
    .ok (({ k with st := t } : Ctx).write d (BitVec.ofNat 64 id))

/-- klaunch (R316). A klaunch that waits for a place keeps the record and header it has read, and the image that it has read enters the cache when it is
admitted (R313). The header's page is tested before the record's
layout, where the record names a context (log 57). -/
def execKlaunch (d a : Reg) (s : State) : Out :=
  s.scalarWord .super fun k =>
    let die := k.die
    match (k.st.die die).pendingLaunch with
    | some (r, kn, fresh) => k.launch k.st fresh r kn
    | none =>
      let va := (k.c.get a).toNat
      if va % 128 != 0 then k.trap { cause := 3, addr := va } else
      match (if 2 ^ 57 ≤ va then .error 4 else k.st.xlate (k.st.who k.p) .load va) with
      | .error c => k.trap { cause := if c = 4 then 4 else 5, addr := va }
      | .ok p =>
        let bs := k.st.peek p.key 128
        let refused : Res Ctx := .ok (k.write d (BitVec.allOnes 64))
        let ctx := recNat bs 0x14 1
        let image := recNat bs 0 8
        if 64 ≤ ctx then refused else
        match (k.st.touch 0 va).imageFor die ctx image with
        | .error c => k.trap { cause := c, addr := image }
        | .ok (t, e) =>
          match parseLaunch bs with
          | none => refused
          | some r =>
            if headerOk e.head then ({ k with st := t } : Ctx).launch k.st true d (newKernel die r e.head (e.head ++ e.text)) else refused

/-- scoreboardAdmit (R316): a klaunch that waits finds a place and completes. -/
def execScoreboardAdmit (die : Nat) (s : State) : Out :=
  match (s.die die).pendingLaunch with
  | none => .next s
  | some (d, kn, fresh) =>
    if 256 ≤ s.heldBy die then .next s else
    match (⟨s, .scc die, (s.die die).core⟩ : Ctx).launch s fresh d kn with
    | .ok k => .next (k.finish (s.die die).core.pc s)
    | .error (t, _) => .next t

/-! ### kwait, kkill, kprio (R315, R317 to R319) -/

/-- The kernel that a register names: its context and KERNELID; none when a bit above 21 is set. -/
def kernelName (v : Word) : Option (Nat × Nat) := if v.toNat < 2 ^ 22 then some (v.field 21 16, v.field 15 0) else none

/-- kwait (R317). -/
def execKwait (a : Reg) (s : State) : Out :=
  s.scalarWord .super fun k =>
    match kernelName (k.c.get a) with
    | none => k.cause 1
    | some (ctx, kid) => if (k.st.kernel ctx kid).isSome then k.wait else .ok k.done

/-- kkill (R287, R318): the kernel's end is decided, and the word waits until the cleanup of that kernel has completed. -/
def execKkill (a : Reg) (s : State) : Out :=
  s.scalarWord .super fun k =>
    match kernelName (k.c.get a) with
    | none => k.cause 1
    | some (ctx, kid) =>
      let x := k.st.die k.die
      match x.killing with
      | some order =>
        if k.st.kernels.any fun y => y.order == order then k.wait
        else .ok ({ k with st := k.st.setDie k.die { x with killing := none } } : Ctx).done
      | none =>
        match k.st.kernel ctx kid with
        | none => .ok k.done
        | some y => .error ((k.st.killKernel ctx kid 3 0).setDie k.die { x with killing := some y.order }, .wait)

/-- kprio (R319). -/
def execKprio (a b : Reg) (s : State) : Out :=
  s.scalarWord .super fun k =>
    match kernelName (k.c.get a) with
    | none => k.cause 1
    | some (ctx, kid) =>
      let p := (k.c.get b).toNat
      if 6 < p then k.cause 1 else
      match k.st.kernel ctx kid with
      | none => .ok k.done
      | some kn => .ok { k with st := k.st.setKernel { kn with prio := p }, c := k.c.advance }

/-! ### Input transfers and readiness (R306, R308) -/

/-- The place of a run of a transfer's source, when reading it meets no error. -/
def State.engineBlock (s : State) (w : Who) (src n : Nat) : Meet Place :=
  match s.enginePlace w .load 9 (2 * src) with
  | .done p => (match s.readError [(p, n)] with
    | some (e, key) => .failed e src key
    | none => .done p)
  | x => x

/-- One run of a transfer, within an aligned 64-byte block of its source and of its destination, as n8; true: what stopped it lies on the
destination's side. -/
def State.transferRun (s : State) (w : Who) (src dst n : Nat) : Bool × Meet State :=
  match s.engineBlock w src n with
  | .absent va => (false, .absent va)
  | .failed e va k => (false, .failed e va k)
  | .done p =>
    let s1 := s.touch w.ctx src
    match s1.enginePlace w .store 9 (2 * dst) with
    | .absent va => (true, .absent va)
    | .failed e va k => (true, .failed e va k)
    | .done q =>
      match s1.elemStoreError q 9 with
      | some (e, key) => (true, .failed e dst key)
      | none =>
        match s1.claims w (.fmt 9) [(q, n)] with
        | some e => (true, .failed e dst q.key)
        | none => (true, .done ((s1.touch w.ctx dst).storeAt w q.key (s1.peek p.key n)))

/-- A transfer from its position on: the state, the position reached, and what stopped it, on its source's or (true) its destination's side. -/
def State.transferGo (s : State) (w : Who) (t : Transfer) : Nat → Nat → State × Nat × Option (Bool × Meet Unit)
  | 0, pos => (s, pos, none)
  | fuel + 1, pos =>
    if t.size ≤ pos then (s, pos, none) else
    let a := t.src + pos
    let b := t.dst + pos
    let n := min (min (64 - a % 64) (64 - b % 64)) (t.size - pos)
    match s.transferRun w a b n with
    | (_, .done u) => u.transferGo w t fuel (pos + n)
    | (side, .absent va) => (s, pos, some (side, .absent va))
    | (side, .failed e va k) => (s, pos, some (side, .failed e va k))

/-- A waiting kernel's transfer comes as far as a free number of its runs takes it, and goes on (R164, R318; log 14). -/
def State.transferAdvance (s : State) (ctx kid n fuel : Nat) : Out :=
  match s.kernel ctx kid with
  | none => .next s
  | some k =>
    match k.state, k.trans[n]? with
    | .waiting, some t =>
      if t.done then .next s else
      let (u, pos, _) := s.transferGo (State.enter.transferWho k n) t (fuel % (t.size / 32 + 2)) t.pos
      .next (u.setKernel { k with trans := setNth { t with pos := pos } k.trans n })
    | _, _ => .next s

/-- inputTransferComplete (R306, R308): the remaining bytes of a waiting kernel's transfer; a failure ends the kernel as failed, with no
fault record; a page that is not present is asked for, and one that the pager refuses fails the transfer (R162, R333). How far a transfer has come
when a kill or another party's access lands is a free choice of State.transferAdvance (log 14). -/
def execInputTransferComplete (ctx kid n : Nat) (s : State) : Out :=
  match s.kernel ctx kid with
  | none => .next s
  | some k =>
    match k.state, k.trans[n]? with
    | .waiting, some t =>
      if t.done then .next s else
      let w := State.enter.transferWho k n
      let (u, pos, stop) := s.transferGo w t (t.size / 32 + 2) t.pos
      let kept (d : Bool) : State := u.setKernel { k with trans := setNth { t with pos := pos, done := d } k.trans n }
      match stop with
      | none => .next (kept true)
      | some (_, .failed e _ key) => .next ((if e = 9 then u.logError key else u).endKernel k 4 e)
      | some (side, .absent va) =>
        .next (if s.awaitsPage w va && Config.refuses s.steps then u.endKernel k 4 4
          else (kept false).pageAsk w va (accessField (if side then 7 else 6) 0 9 false))
      | some (_, .done ()) => .next (kept false)
    | _, _ => .next s

/-- kernelReady (R308): the kernels named in after have ended and the transfers are performed; a transfer-only kernel is done. -/
def execKernelReady (ctx kid : Nat) (s : State) : Out :=
  match s.kernel ctx kid with
  | none => .next s
  | some k =>
    if k.state == .waiting && k.trans.all (·.done) && k.after.isEmpty then
      .next (if k.n = 0 then s.endKernel k 2 0 else s.setKernel { k with state := .ready, readyAt := s.wall })
    else .next s

/-! ### Placement (R309, R314) -/

/-- The effective priority of a kernel (R310). -/
def Kernel.effective (k : Kernel) : Nat := min 6 (k.prio + k.aged)

/-- The cluster that takes a kernel's next hart: first fit from its launching die's first cluster. -/
def State.findCluster (s : State) (k : Kernel) : Option Nat :=
  ((upFrom 0 256).map fun i => (64 * k.die + i) % 256).find? fun c => s.clusterTakes c k

/-- The next hart of a kernel placed. -/
def State.placeOne (s : State) (k : Kernel) : Option (State × Kernel) :=
  match s.findCluster k with
  | none => none
  | some c => (s.createHart k c k.placed (BitVec.ofNat 64 (k.image + k.entry)) 0).map fun t => (t, { k with placed := k.placed + 1 })

/-- As many harts of a kernel as fit, at most n. -/
def State.placeMany (s : State) (k : Kernel) : Nat → State × Kernel
  | 0 => (s, k)
  | n + 1 =>
    match s.placeOne k with
    | none => (s, k)
    | some (t, k1) => t.placeMany k1 n

/-- The dispatcher's pass over kernels in order: a gang that does not fit stops it, an elastic kernel takes what fits. -/
def State.dispatch (s : State) : List Kernel → State
  | [] => s
  | k :: rest =>
    let (t, k1) := s.placeMany k (min (k.n - k.placed) 2048)
    let put := t.setKernel { k1 with state := if 0 < k1.placed then .running else k.state }
    if k.elastic then put.dispatch rest
    else if k1.placed = k1.n then put.dispatch rest else s

/-- A kernel's place in the dispatcher's order (R309): effective priority, then the cycle of its klaunch, then its die, then the order of the die's
klaunches. -/
def Kernel.place (k : Kernel) : Nat := (((6 - k.effective) * 2 ^ 64 + k.launched) * 4 + k.die) * 2 ^ 64 + k.order

/-- The kernels with harts to place, in the dispatcher's order. Those launched in this cycle are considered once it is over, so that the order of
their dies stands (R309). A kernel of a context that is saved is passed over, and a gang among such kernels blocks nothing behind it (DESIGN CHOICE, log 75:
R309 does not say). -/
def State.toPlace (s : State) : List Kernel :=
  sortBy Kernel.place
    (s.kernels.filter fun k => (k.state == .ready || k.state == .running) && k.doomed.isNone && k.placed < k.n && k.launched < s.time &&
      (s.context k.ctx).state == 1)

/-- hartPlacement (R309): one pass of the dispatcher; nothing is placed while a change of the clock mode is pending (R314). -/
def execHartPlacement (s : State) : Out := .next (if s.clkReq != s.clkCur then s else s.dispatch s.toPlace)

/-! ### Grants and priorities (R310, R311) -/

/-- A hart's issue priority (R310). -/
def State.issuePrio (s : State) (h : Hart) : Nat := min 6 (((s.kernel h.ctx h.kid).map (·.effective)).getD 0 + h.aged)

/-- A hart is runnable as R74 and R311 read it. -/
def Hart.runnable (h : Hart) : Bool := h.state == .running && !h.waiting && h.parked.all fun p => p.go

/-- A running hart's vector stream has a word to run or a producer to restart, and does not wait with it (R74). -/
def Hart.wordsToRun (h : Hart) : Bool := h.state == .running && !h.vwait && (!h.blocks.isEmpty || h.restartNext.isSome)

/-- A hart's vector stream has a word to run or a producer to restart, or is in the time of one (R63, R311). -/
def Hart.unfinished (h : Hart) : Bool := !h.blocks.isEmpty || !h.queries.isEmpty || h.restartNext.isSome || !h.due.isEmpty

/-- The harts of a cluster in the order in which a regrant takes them: those with an unfinished vector word, then the other runnable ones. -/
def State.grantOrder (s : State) (c : Nat) : List (Nat × Hart) :=
  let key (e : Nat × Hart) : Nat := ((6 - s.issuePrio e.2) * 2 ^ 128 + e.2.placedAt) * 2048 + e.1
  let mine := s.harts.filter fun e => slotCluster e.1 == c && e.2.state == .running
  sortBy key (mine.filter fun e => e.2.unfinished) ++ sortBy key (mine.filter fun e => !e.2.unfinished && e.2.runnable)

/-- The grants that a regrant decides for harts taken in order from the lanes left. -/
def grants : List (Nat × Hart) → Nat → List (Nat × Nat)
  | [], _ => []
  | (i, h) :: t, left =>
    let g := grantOf h.lanes left
    (i, g) :: grants t (left - g)

/-- A hart stands at a boundary between convoys (R61): none of its convoys is in issue, and the clock has reached the end of the last. -/
def Hart.atBoundary (h : Hart) : Bool := !h.inConvoy && h.lead == 0

/-- A hart takes a grant. -/
def Hart.take (h : Hart) (g : Nat) : Hart := { h with grant := g, nextGrant := none, vwait := h.vwait && (g == 0 || h.grant != 0) }

/-- The decided grants of a cluster's harts that stand at a boundary take effect: first those that give lanes up, then, in slot order, those that the
free lanes allow, so that the sum never exceeds 64 (R61). -/
def State.applyGrants (s : State) (cluster : Nat) : State :=
  let s1 : State := { s with harts := s.harts.map fun (e : Nat × Hart) =>
    match e.2.nextGrant with
    | some g => if slotCluster e.1 == cluster && e.2.atBoundary && g ≤ e.2.grant then (e.1, e.2.take g) else e
    | none => e }
  s1.harts.foldl (fun (t : State) (e : Nat × Hart) =>
    match e.2.nextGrant with
    | some g =>
      if slotCluster e.1 == cluster && e.2.atBoundary && t.lanesUsed cluster - e.2.grant + g ≤ 64 then t.setHart e.1 (e.2.take g) else t
    | none => t) s1

/-- regrant (R61, R311): the grants are decided anew, and take effect at each hart's boundary; in locked-clock mode a hart that has lanes keeps them, so
only lanes that no hart holds are given out, and those that a held hart returns (R282, R314; log 73). -/
def State.regrant (s : State) (cluster : Nat) : State :=
  let kept (h : Hart) : Bool := s.clkCur && h.grant != 0 && h.state == .running
  let used := ((s.harts.filter fun e => slotCluster e.1 == cluster && kept e.2).map fun e => e.2.grant).sum
  let gs := grants ((s.grantOrder cluster).filter fun e => !kept e.2) (64 - used)
  let given (i : Nat) : Nat := ((gs.find? fun g => g.1 == i).map (·.2)).getD 0
  let s1 : State := { s with harts := s.harts.map fun (e : Nat × Hart) =>
    if (slotCluster e.1 == cluster && !kept e.2) = true then (e.1, { e.2 with nextGrant := some (given e.1) }) else e }
  s1.applyGrants cluster

/-- regrant (R311). -/
def execRegrant (cluster : Nat) (s : State) : Out := .next (s.regrant cluster)

/-- One millisecond on the clock of wall. -/
def wallMs : Nat := 1000 * 100 * 232792560

/-- priorityAging (R310): the whole milliseconds that kernels have been ready without being fully placed, and that runnable harts have
taken no issue turn; a hart is runnable through its scalar or through its vector stream (R74). Once a kernel is fully placed its m stands as it was, and its
harts issue with it (DESIGN CHOICE, log 74: R310 gives m only while it is not). -/
def State.aging (s : State) : State :=
  { s with
    kernels := s.kernels.map fun k =>
      if (k.state == .ready || k.state == .running) && k.placed < k.n then { k with aged := (s.wall - k.readyAt) / wallMs } else k,
    harts := s.harts.map fun e => if e.2.runnable || e.2.wordsToRun then (e.1, { e.2 with aged := (s.wall - e.2.lastIssue) / wallMs }) else e }

/-- priorityAging (R310). -/
def execPriorityAging (s : State) : Out := .next s.aging

/-- budgetExceeded (R290): a record of kind 8, and the kernel is killed with cause 0x11. -/
def execBudgetExceeded (ctx kid : Nat) (s : State) : Out :=
  match s.kernel ctx kid with
  | none => .next s
  | some k =>
    if k.state == .running && k.budget != 0 && k.budget ≤ k.count then
      .next ((s.faultPut ctx (faultRecord ⟨8, ctx, k.die, 0xFFFF, kid, 0xFFFFFFFF, 0, 0⟩ { cause := 0x11 } 4)).killKernel ctx kid 3 0x11)
    else .next s

/-- clockModeChange (R314): the mode follows req at a moment when no hart is placed. -/
def execClockModeChange (s : State) : Out :=
  .next (if s.clkReq != s.clkCur && s.harts.isEmpty then
    { s with clkCur := s.clkReq, clkMHz := if s.clkReq then 1800 else 2100 } else s)

end Sys2Proof.Machine
end

