-- ==== Sys2Proof/Machine/Image.lean ====
section
/-! DEFINITION. Context images: the coder, the sections, ctxsave and ctxload (R187, R291 to R294, R300 to R302). What R292 gives no layout for
is kept in the device beside the image (log 20). -/
namespace Sys2Proof.Machine

/-! ### The coder (R293) -/

/-- The number of leading words equal to x. -/
def runLength (x : Nat) : List Nat → Nat
  | [] => 0
  | y :: t => if y = x then runLength x t + 1 else 0

/-- A control word. -/
def control (kind n : Nat) : Nat := kind * 2 ^ 62 + n

/-- The pending literal, newest word first, as its token. -/
def flushLit (lit : List Nat) : List Nat := if lit.isEmpty then [] else control 0 lit.length :: lit.reverse

/-- Code words greedily from the left; lit: the literal that is being extended. -/
def codeWords : Nat → List Nat → List Nat → List Nat
  | 0, _, lit => flushLit lit
  | _, [], lit => flushLit lit
  | n + 1, x :: t, lit =>
    let r := runLength x t + 1
    if x = 0 && 2 ≤ r then flushLit lit ++ control 1 r :: codeWords n (t.drop (r - 1)) []
    else if x != 0 && 3 ≤ r then flushLit lit ++ control 2 r :: x :: codeWords n (t.drop (r - 1)) []
    else codeWords n t (x :: lit)

/-- Decode tokens to exactly want words; none for a malformed token or a mismatch. -/
def decodeWords : Nat → List Nat → Nat → Option (List Nat)
  | _, [], want => if want = 0 then some [] else none
  | 0, _, _ => none
  | fuel + 1, w :: t, want =>
    let kind := w / 2 ^ 62
    let n := w % 2 ^ 32
    if w / 2 ^ 32 % 2 ^ 30 != 0 || n = 0 || want < n then none else
    match kind with
    | 0 => if t.length < n then none else (decodeWords fuel (t.drop n) (want - n)).map fun r => t.take n ++ r
    | 1 => (decodeWords fuel t (want - n)).map fun r => List.replicate n 0 ++ r
    | 2 => match t with
      | x :: u => (decodeWords fuel u (want - n)).map fun r => List.replicate n x ++ r
      | [] => none
    | _ => none

/-- Bytes as 64-bit words; the length is a multiple of 8. -/
def toWords (bs : List Byte) : List Nat := (chunks 8 (bs.length / 8 + 1) bs).map leNat

/-- Bytes filled with zeros to a multiple of 8. -/
def pad8 (bs : List Byte) : List Byte := bs ++ List.replicate ((8 - bs.length % 8) % 8) 0

/-! ### Sections (R292) -/

/-- A section: its kind, its id and its payload. -/
structure Section where
  kind : Nat
  id   : Nat
  raw  : List Byte
  deriving DecidableEq, Repr

/-- A section as stored: its header and its coded payload. -/
def Section.bytes (x : Section) : List Byte :=
  let raw := pad8 x.raw
  let coded := (codeWords raw.length (toWords raw) []).flatMap (leBytes 8)
  leBytes 2 x.kind ++ leBytes 2 0 ++ leBytes 4 x.id ++ leBytes 8 raw.length ++ leBytes 8 coded.length ++ leBytes 8 0 ++ coded

/-- An image of sections. -/
def imageBytes (xs : List Section) : List Byte :=
  let body := xs.flatMap Section.bytes
  leBytes 4 0x58435944 ++ leBytes 2 1 ++ leBytes 2 xs.length ++ leBytes 8 (64 + body.length) ++ List.replicate 48 0 ++ body

/-- The sections of an image's body; none when it is malformed. -/
def parseSections : Nat → List Byte → Option (List Section)
  | 0, bs => if bs.isEmpty then some [] else none
  | n + 1, bs =>
    let kind := recNat bs 0 2
    let raw := recNat bs 8 8
    let coded := recNat bs 16 8
    if bs.length < 32 + coded || kind = 0 || 5 < kind || raw % 8 != 0 || coded % 8 != 0 then none else
    match decodeWords (coded / 8 + 1) (toWords ((bs.drop 32).take coded)) (raw / 8), parseSections n (bs.drop (32 + coded)) with
    | some ws, some rest => some (⟨kind, recNat bs 4 4, ws.flatMap (leBytes 8)⟩ :: rest)
    | _, _ => none

/-- The scalar side of a program in a cluster section, 37 words. -/
def scalarBytes (c : Scalar) : List Byte :=
  words8 (c.pc.toNat :: c.x.toList.map (·.toNat)) ++ words8 [c.fround.toNat, c.vround.toNat, c.fflags.toNat, c.g64.toNat]

/-- A queued matrix operation, nine words (log 20). -/
def savedOp (o : MatOp) : List Byte :=
  let fs : List Nat := match o.kind with
    | .mldW a g k f sc sp => [0, a, g, k * 256 + f * 4 + sc.toNat * 2 + sp.toNat, 0, 0]
    | .mldA g b k f sc st sb => [1, b, g, k * 256 + f * 4 + sc.toNat * 2, st, sb]
    | .mma j a b r w => [2, j, a, b, r.toNat, w]
    | .mzero j => [3, j, 0, 0, 0, 0]
    | .mst j b f st v => [4, j, b, f, st, v.toNat]
    | .mscale j n => [5, j, (n % 2 ^ 64).toNat, 0, 0, 0]
  words8 (o.pc.toNat :: o.order :: (o.rows * 2 + o.started.toNat) :: fs)

/-- The stores of the step in progress on a region: of each its offset, part, hart and bytes (log 20). -/
def storeBytes (p : PlaneStore) : List Byte := words8 [p.off, p.bytes.length, p.part, p.kid, p.hart] ++ pad8 p.bytes

/-- A region's record and group in a section (log 20). -/
def regionHead (r : Region) : List Byte :=
  words8 [r.va, r.size, r.rule + 256 * r.type + 2 ^ 16 * r.flags + 2 ^ 20 * r.dying.toNat, r.group, r.off, r.status, r.kid, r.stores.length]

/-- A region in a section (R292): its record and group, its present plane where the section holds one, and the stores of the step in progress. -/
def regionBytes (r : Region) (present : List Byte) : List Byte := regionHead r ++ present ++ r.stores.flatMap storeBytes

/-- The tiles of a cluster: 4 accumulators of 128 rows and 96 columns. -/
def tileBytes (acc : Tbl Slot) : List Byte := (upFrom 0 49152).flatMap fun i => leBytes 4 (tblGet 0 i acc).toNat

/-- The part of a cluster that a context owns (log 20). -/
def Cluster.ofContext (c : Cluster) (ctx : Nat) : Cluster :=
  let mine (j : Nat) : Bool := match c.accUser.getD j none with
    | some u => u.1 == ctx
    | none => false
  let prog := match c.mcc with
    | some m => m.ctx == ctx
    | none => false
  { c with acc := c.acc.filter fun e => mine (e.1 / 12288),
           accUser := c.accUser.map fun u => match u with
             | some v => if v.1 == ctx then some v else none
             | none => none,
           chain := if prog then c.chain else Vector.replicate 4 0,
           mcc := if prog then c.mcc else none, fillq := if prog then c.fillq else [], arrq := if prog then c.arrq else [],
           larder := c.larder.filter fun r => r.ctx == ctx, refetch := c.refetch.filter fun r => r.ctx == ctx,
           copies := c.copies.filter fun k => k.ctx == ctx,
           seq := match c.seq with
             | some q => if q.ctx == ctx then some q else none
             | none => none,
           allocs := c.allocs.filter fun a => a.ctx == ctx, granted := 0 }

/-- The part of a cluster that stays when a context leaves it. -/
def Cluster.without (c : Cluster) (ctx : Nat) : Cluster :=
  let p := c.ofContext ctx
  { c with acc := c.acc.filter fun e => !p.acc.contains e,
           accUser := c.accUser.map fun u => match u with
             | some v => if v.1 == ctx then none else some v
             | none => none,
           chain := if p.mcc.isSome then Vector.replicate 4 0 else c.chain,
           mcc := if p.mcc.isSome then none else c.mcc, fillq := if p.mcc.isSome then [] else c.fillq,
           arrq := if p.mcc.isSome then [] else c.arrq, larder := c.larder.filter fun r => r.ctx != ctx,
           refetch := c.refetch.filter fun r => r.ctx != ctx,
           copies := c.copies.filter fun k => k.ctx != ctx, seq := if p.seq.isSome then none else c.seq,
           allocs := c.allocs.filter fun a => a.ctx != ctx }

/-- The dirty blocks of a cluster's scratchpad that are a context's: those of its allocations, and those that it last stored to (R292, R293). -/
def State.dirtyBlocks (s : State) (ctx c : Nat) : List Nat :=
  let cl := s.cluster c
  (upFrom 0 512).filter fun b => cl.dirty.getLsbD b &&
    ((cl.allocs.any fun a => a.ctx == ctx && a.offset ≤ 4096 * b && 4096 * b < a.offset + a.size) ||
      tblFind (scratchKey c (4096 * b) / 4096) s.owners == some ctx)

/-- A set of blocks as a map. -/
def blockMap (bs : List Nat) : BitVec 512 := bs.foldl (fun d b => d ||| ((1 : BitVec 512) <<< b)) 0

/-- The payload of a cluster section: p is the context's part of the cluster. -/
def clusterSection (p : Cluster) (c : Nat) (regs : List Region) (dirty : List Nat) : List Byte :=
  tileBytes p.acc ++
  words8 [match p.mcc with
    | some m => m.claims.toNat + 16 * m.released.toNat
    | none => 0] ++
  p.chain.toList.flatMap (fun x => leBytes 16 x.toNat) ++
  (match p.mcc with
    | some m => words8 [m.w, 1] ++ scalarBytes m.sc
    | none => words8 [0, 0]) ++
  words8 [p.fillq.length, p.arrq.length] ++ (p.fillq ++ p.arrq).flatMap savedOp ++
  (match p.seq with
    | some q => words8 [1] ++ scalarBytes q.sc ++ (upFrom 0 8).flatMap (fun j => tokenBytes (q.tok.getD j Token.idle) (p.copyOf (.seq c) j)) ++
      q.q.toList.flatMap streamBytes
    | none => words8 [0]) ++
  ((upFrom 0 96).flatMap fun j => let b := tblGet (⟨0, 0, 0⟩ : Barrier) j p.bars; words8 [b.count, b.arrived, b.phase]) ++
  words8 [regs.length] ++ regs.flatMap (fun r => regionBytes r []) ++ leBytes 64 (blockMap dirty).toNat

/-- The exact sum of a word's stores as R292 holds it: its flags and a 384-bit number. -/
def wideRecord (r : Region) (off : Nat) : List Byte :=
  let xs := (r.stores.filter fun p => p.off == off).map fun p => BitVec.ofNat 32 (leNat p.bytes)
  let nums := xs.map f32
  let fin (x : Num) : Int := match x with
    | .fin neg m e => scaled neg m e (-149)
    | _ => 0
  let sum : Int := if r.type = 0 then (nums.map fin).sum
    else (xs.map fun x => if r.type = 1 then x.toInt else (x.toNat : Int)).sum
  let flag (b : Bool) (n : Nat) : Nat := if b then n else 0
  let flags := if r.type = 0 then 1 + flag (nums.contains (.inf false)) 2 + flag (nums.contains (.inf true)) 4 +
    flag (nums.any Num.isNaN) 8 + flag (xs.all fun x => x == 0x80000000) 16 else 1
  leBytes 8 (r.va + off) ++ leBytes 4 flags ++ leBytes 4 0 ++ leBytes 48 (sum % 2 ^ 384).toNat

/-- Clusters that hold anything of a context. -/
def State.clustersOf (s : State) (ctx : Nat) : List Nat :=
  (upFrom 0 256).filter fun c =>
    let p := (s.cluster c).ofContext ctx
    s.onCluster ctx c || !p.allocs.isEmpty || p.mcc.isSome || p.seq.isSome ||
      !p.acc.isEmpty || !p.larder.isEmpty || !p.refetch.isEmpty || !p.copies.isEmpty || !(s.dirtyBlocks ctx c).isEmpty ||
      s.regions.any fun r => r.ctx == ctx && r.scratch && r.home == c

/-- The sections of a context: harts, clusters, scratchpad blocks, plane store regions, wide accumulators (log 20: this order). -/
def State.sectionsOf (s : State) (ctx : Nat) : List Section :=
  let cs := s.clustersOf ctx
  let mine := s.regions.filter fun r => r.ctx == ctx
  (s.harts.filter fun e => e.2.ctx == ctx).map (fun e => ⟨1, e.1, s.hartSection e.1 e.2 false⟩) ++
  cs.map (fun c =>
    ⟨2, c, clusterSection ((s.cluster c).ofContext ctx) c (mine.filter fun r => r.scratch && r.home == c) (s.dirtyBlocks ctx c)⟩) ++
  (cs.filterMap fun c =>
    let bs := s.dirtyBlocks ctx c
    if bs.isEmpty then none else some ⟨3, c, bs.flatMap fun b => s.peek (scratchKey c (4096 * b)) 4096⟩) ++
  ((mine.filter fun r => !r.scratch).map fun r => ⟨4, r.home, regionBytes r (s.peek r.key r.size)⟩) ++
  ((upFrom 0 4).filterMap fun d =>
    let rs := mine.filter fun r => r.rule == 1 && r.die == d && !r.stores.isEmpty
    if rs.isEmpty then none else some ⟨5, d, rs.flatMap fun r => (r.stores.map (·.off)).eraseDups.flatMap (wideRecord r)⟩)

/-! ### Stopping (R164, R187, R300) -/

/-- The elements of a copy that still lie below the next 4 KiB boundary of destination bytes. -/
def Copy.toBoundary (c : Copy) : Nat :=
  let page (i : Nat) : Nat := c.dst.nib (c.target i) / 8192
  if !c.started then 0 else
  match ((upFrom c.pos (c.dst.count - c.pos)).find? fun i => page i != page c.pos) with
  | some i => i - c.pos
  | none => c.dst.count - c.pos

/-- A copy run to its next boundary (R164): its position is kept, and its requests count (R149). -/
def State.preemptCopy (s : State) (cluster : Nat) (c : Copy) : State :=
  let w := s.copyWho c
  let (t, i, ps, qs, _) := s.copyElems w c c.toBoundary c.pos [] []
  let n1 := countReqs w.die ps
  let n2 := countReqs w.die qs
  let u := t.countFor c.owner (n1.1 + n2.1, n1.2 + n2.2)
  let cl := u.cluster cluster
  u.setCluster cluster { cl with copies := cl.copies.map fun x => if x.owner == c.owner && x.tok == c.tok then { x with pos := i } else x }

/-- An array-pipe operation in progress completes before the program is saved (R187). -/
def State.settleArray (s : State) (c : Nat) : State :=
  match (s.cluster c).arrq with
  | o :: _ => if o.started then (match execMatrixOperationComplete c false s with
      | .next t => t
      | _ => s) else s
  | [] => s

/-- A hart stopped at its front for a save: both streams, its lanes given up (R70, R300). A convoy that goes only in one turn is struck at a front of a
free choice (R263; log 10). -/
def State.preemptHart (s : State) (slot : Nat) : State :=
  let s1 := ((s.strikeTied slot (Config.choice (s.steps + slot) % 1024)).stopVector slot).settleHalf slot
  match s1.hart slot with
  | some h => s1.setHart slot { h with grant := 0, nextGrant := none, timed := none, reloc := 0, relocPins := [] }
  | none => s1

/-- The context with every hart at its front, copies at a boundary and array operations complete (R300). -/
def State.preempt (s : State) (ctx : Nat) : State :=
  let s1 := (s.harts.filterMap fun e => if e.2.ctx == ctx then some e.1 else none).foldl (fun t i => t.preemptHart i) s
  let cs := s1.clustersOf ctx
  let s2 := cs.foldl (fun t c => t.settleArray c) s1
  cs.foldl (fun t c => ((t.cluster c).copies.filter fun k => k.ctx == ctx).foldl (fun u k => u.preemptCopy c k) t) s2

/-- A cluster's part of a context as the device keeps it: one operation in progress in the fill pipe is to be performed again from its start,
and live runs are to be fetched again (R175, R187). dirty: every block of the image may come back. -/
def Cluster.kept (c : Cluster) : Cluster :=
  { c with larder := [], refetch := c.refetch ++ c.larder.map fun r => { r with codes := [], scales := [] },
           fillq := c.fillq.map fun o => { o with started := false, rows := 0, promos := 0 }, dirty := BitVec.allOnes 512 }

/-- The context's state leaves the part (R294, R300): kept beside the image, and every store it used is zeroed. -/
def State.saveAway (s : State) (ctx : Nat) : State :=
  let c := s.context ctx
  let cs := s.clustersOf ctx
  let keep := cs.map fun i => (i, ((s.cluster i).ofContext ctx).kept)
  let mine := s.harts.filter fun e => e.2.ctx == ctx
  let c1 := { c with saved := mine.map fun e => (e.1, { e.2 with stopDue := tblFind e.1 s.dbg.stops }), savedClusters := keep,
                     savedRegions := s.regions.filter fun r => r.ctx == ctx, state := 2 }
  let s1 := s.setContext ctx c1
  let s2 : State := { s1 with harts := s1.harts.filter fun e => e.2.ctx != ctx,
                              dbg := { s1.dbg with stops := s1.dbg.stops.filter fun x => !mine.any fun e => e.1 == x.1 } }
  let s3 := (s2.regions.filter fun r => r.ctx == ctx).foldl (fun t r => t.releaseRegion r true) s2
  let s4 := keep.foldl (fun t e => e.2.allocs.foldl (fun u a => u.freshRange (scratchKey e.1 a.offset) a.size) t) s3
  let s5 := cs.foldl (fun t i => t.setCluster i ((t.cluster i).without ctx)) s4
  let s6 := s5.freeBlocks ctx fun _ => true
  cs.foldl (fun t i => if t.harts.any fun e => slotCluster e.1 == i then t else t.setCluster i { t.cluster i with bars := [] }) s6

/-! ### Reading sections (R292, R301). None: the section is malformed. -/

/-- The first n bytes, and the rest. -/
def takeBytes (n : Nat) (bs : List Byte) : Option (List Byte × List Byte) := if bs.length < n then none else some (bs.take n, bs.drop n)

/-- The first n words of 8 bytes, and the rest. -/
def takeWords (n : Nat) (bs : List Byte) : Option (List Nat × List Byte) :=
  (takeBytes (8 * n) bs).map fun p => ((chunks 8 n p.1).map leNat, p.2)

/-- n things read one after another. -/
def takeMany {α : Type} (f : List Byte → Option (α × List Byte)) : Nat → List Byte → Option (List α × List Byte)
  | 0, bs => some ([], bs)
  | n + 1, bs => do
    let (x, t) ← f bs
    let (xs, u) ← takeMany f n t
    some (x :: xs, u)

/-- A program's scalar side. -/
def takeScalarSide (bs : List Byte) : Option (Scalar × List Byte) := do
  let (ws, t) ← takeWords 37 bs
  let w (i : Nat) : Nat := nthD 0 ws i
  some (⟨BitVec.ofNat 64 (w 0), Vector.ofFn fun i => if i.val = 0 then 0 else BitVec.ofNat 64 (w (1 + i.val)), BitVec.ofNat 3 (w 33),
    BitVec.ofNat 5 (w 34), BitVec.ofNat 10 (w 35), BitVec.ofNat 32 (w 36)⟩, t)

/-- A queued matrix operation. -/
def takeOp (bs : List Byte) : Option (MatOp × List Byte) := do
  let (ws, t) ← takeWords 9 bs
  let w (i : Nat) : Nat := nthD 0 ws i
  let k := w 6 / 256
  let f := w 6 / 4 % 64
  let sc := w 6 / 2 % 2 == 1
  let kind : MatKind ← match w 3 with
    | 0 => some (.mldW (w 4) (w 5) k f sc (w 6 % 2 == 1))
    | 1 => some (.mldA (w 5) (w 4) k f sc (w 7) (w 8))
    | 2 => some (.mma (w 4) (w 5) (w 6) (w 7 == 1) (w 8))
    | 3 => some (.mzero (w 4))
    | 4 => some (.mst (w 4) (w 5) (w 6) (w 7) (BitVec.ofNat 5 (w 8)))
    | 5 => some (.mscale (w 4) (BitVec.ofNat 64 (w 5)).toInt)
    | _ => none
  some (⟨kind, BitVec.ofNat 64 (w 0), w 1, w 2 % 2 == 1, w 2 / 2, 0, 0⟩, t)

/-- A store of the step in progress. -/
def takeStore (bs : List Byte) : Option (PlaneStore × List Byte) := do
  let (ws, t) ← takeWords 5 bs
  let w (i : Nat) : Nat := nthD 0 ws i
  if 64 < w 1 || 2 < w 2 then none else
  let (b, u) ← takeBytes ((w 1 + 7) / 8 * 8) t
  some (⟨w 0, b.take (w 1), w 2, w 3, w 4⟩, u)

/-- A region of a context, in a cluster's scratchpad or a die's plane store, with its present plane where the section holds one. -/
def takeRegion (ctx : Nat) (scratch : Bool) (home : Nat) (bs : List Byte) : Option ((Region × List Byte) × List Byte) := do
  let (ws, t) ← takeWords 8 bs
  let w (i : Nat) : Nat := nthD 0 ws i
  let rule := w 2 % 256
  let type := w 2 / 256 % 256
  if 2 < rule || 2 < type || w 1 % 4096 != 0 || 2 ^ 21 < w 1 || w 4 % 4096 != 0 || 2 ^ 21 < w 4 + w 1 then none else
  let (plane, u) ← takeBytes (if scratch then 0 else w 1) t
  let (stores, v) ← takeMany takeStore (w 7) u
  some ((⟨scratch, home, w 4, w 1, rule, type, w 5, ctx, w 3, w 6, w 0, stores, w 2 / 2 ^ 16 % 4, [], w 2 / 2 ^ 20 % 2 == 1⟩, plane), v)

/-- A token with its copy's patterns, position and VROUND, where it is busy. -/
def takeToken (bs : List Byte) : Option ((Token × Option (Pattern × Pattern × Nat × Nat)) × List Byte) := do
  let (b, t) ← takeBytes 96 bs
  let state ← match recNat b 72 1 with
    | 0 => some TokState.idle
    | 1 => some TokState.busy
    | 2 => some TokState.error
    | _ => none
  let tok : Token := ⟨state, recNat b 80 8, recNat b 73 1, recNat b 88 8⟩
  if state != .busy then some ((tok, none), t) else
  let src ← parsePattern (b.take 32)
  let dst ← parsePattern ((b.drop 32).take 32)
  some ((tok, some (src, dst, recNat b 64 8, recNat b 74 1)), t)

/-- A stream register; old: what the device keeps of it (its port, and what it has fetched or not yet performed). -/
def streamFrom (old : Option Stream) (b : List Byte) : Option (Option Stream) :=
  match recNat b 40 8 with
  | 0 => some none
  | n =>
    if 2 < n then none else
    (parsePattern (b.take 32)).map fun p =>
      let t : Stream := old.getD ⟨p, n == 2, 0, 0, 0, [], [], recNat b 32 8, none⟩
      some { t with pat := p, write := n == 2, vround := BitVec.ofNat 5 (recNat b 48 8), pos := recNat b 32 8 }

/-- n stream registers. -/
def streamsFrom (old : List (Option Stream)) (bs : List Byte) : Option (List (Option Stream)) :=
  (numbered 0 old).mapM fun p => streamFrom p.2 ((bs.drop (56 * p.1)).take 56)

/-- The 8 things of a list, or a default for what it lacks. -/
def eight {α : Type} (d : α) (l : List α) : Vector α 8 := Vector.ofFn fun i => nthD d l i.val

/-- A copy goes on from the position that its token's section gives (R301). -/
def Copy.atToken (c : Copy) (p : Party) (toks : List (Token × Option (Pattern × Pattern × Nat × Nat))) : Copy :=
  if c.owner != p then c else
  match (nthD (Token.idle, none) toks c.tok).2 with
  | some (a, b, n, v) => { c with src := a, dst := b, pos := n, vround := BitVec.ofNat 5 v }
  | none => c

/-! ### The hart section -/

/-- A hart and the copies of its tokens, as its section and the device give them. -/
structure HartBack where
  hart : Hart
  toks : List (Token × Option (Pattern × Pattern × Nat × Nat))
  deriving DecidableEq, Repr

/-- The blocks handed over, the front one where VIDX stands (R55); none: VIDX names a word of a block that was not handed over. -/
def blocksFrom (bs : List Block) (vidx : Nat) : Option (List Block) :=
  if vidx = 0 then some [] else
  match bs with
  | [] => none
  | b :: t => some ({ b with pc := BitVec.ofNat 64 (vidx / 2 ^ 10 * 8), elem := vidx % 2 ^ 10 } :: t)

/-- A load queue from its rewind record: the first producer to be restarted and its element. -/
def queueFrom (q : LoadQ) (env : BlockEnv) (waddr elem : Nat) : LoadQ :=
  match q.restart with
  | r :: t => if waddr = 0 then ⟨[], []⟩ else ⟨[], { r with waddr := BitVec.ofNat 64 waddr, elem := elem } :: t⟩
  | [] => if waddr = 0 then ⟨[], []⟩ else ⟨[], [⟨BitVec.ofNat 64 waddr, elem, env⟩]⟩

/-- A group arrival from its word; an arrival that has what it waits for since the save keeps it. -/
def parkedFrom (old : Option Parked) (w : Option Nat) : Option Parked :=
  match old, w with
  | some ⟨g, b, true⟩, _ => some ⟨g, b, true⟩
  | _, some n => some ⟨n % 65536, n / 65536 % 2 == 1, n / 131072 % 2 == 1⟩
  | _, none => none

/-- A hart from its section; h gives what the section does not hold. -/
def parseHart (h : Hart) (bs : List Byte) : Option HartBack := do
  let word (i : Nat) : Nat := recNat bs i 8
  let n := word 304
  let parked := bs.length == 12304 + 32768
  let base := if parked then 12304 else 12296
  if !([8, 16, 32, 64].contains n) || bs.length != base + 32768 || 20 < word 24 || mvlOf n < word 296 || 16 < word 12288 then none else
  let mvl := mvlOf n
  let fl := word 328
  let elems := (numbered 0 (chunks 4 8192 (bs.drop base))).filterMap fun p =>
    let x := leNat p.2
    if x = 0 then none else some (elemKey (p.1 / mvl) (p.1 % mvl), BitVec.ofNat 32 x)
  let sc : Scalar :=
    ⟨BitVec.ofNat 64 (word 0), Vector.ofFn fun i => if i.val = 0 then 0 else BitVec.ofNat 64 (word (32 + 8 * (i.val - 1))),
      BitVec.ofNat 3 (word 312), BitVec.ofNat 5 (word 320), BitVec.ofNat 10 (fl / 256 % 32 * 32 + fl % 32),
      BitVec.ofNat 32 (recNat bs 696 4)⟩
  let list (j : Nat) : List Nat :=
    let at' := 2624 + 2056 * j
    (upFrom 0 (min 1024 (word at'))).map fun i => recNat bs (at' + 8 + 2 * i) 2
  let blocks ← blocksFrom h.blocks (word 8)
  let streams ← streamsFrom h.q.toList ((bs.drop 10848).take 448)
  let (toks, _) ← takeMany takeToken 8 ((bs.drop 11360).take 768)
  let qds ← (upFrom 0 4).mapM fun j =>
    let b := (bs.drop (12128 + 32 * j)).take 32
    if leNat b = 0 then some none else (parseQDesc b).map some
  let qd : Vector (Option QDesc) 4 := Vector.ofFn fun j => nthD none qds j.val
  let env : BlockEnv := ⟨word 296, n, sc.vround, Vector.ofFn fun i => sc.x.getD i.val 0, qd⟩
  some ⟨{ h with
    sc := sc, state := if word 16 = 0 then (if h.state == .stopped then .stopped else .running) else .held (word 24),
    full := BitVec.ofNat 64 (word 280), sfull := BitVec.ofNat 16 (word 288), vl := word 296, nregs := n,
    srseed := BitVec.ofNat 32 (word 336), cycle := BitVec.ofNat 64 (word 344),
    lanecyc := Vector.ofFn fun j => BitVec.ofNat 64 (word (352 + 8 * j.val)), layer := BitVec.ofNat 32 (word 392),
    mpromo := BitVec.ofNat 64 (word 400), localreq := BitVec.ofNat 64 (word 408), remotereq := BitVec.ofNat 64 (word 416),
    missCount := BitVec.ofNat 32 (word 424 / 2 ^ 32), mreg := BitVec.ofNat 4 (word 424),
    hsat := (word 432).testBit 2, csat := (word 432).testBit 1, vfull := (word 432).testBit 0,
    gen := Vector.ofFn fun j => BitVec.ofNat 32 (recNat bs (440 + 4 * j.val) 4),
    m := Vector.ofFn fun j => if j.val = 0 then 0 else BitVec.ofNat 1024 (recNat bs (704 + 128 * (j.val - 1)) 128),
    l := Vector.ofFn fun j => list j.val, v := elems, stale := [], blocks := blocks, q := eight none streams,
    lq := Vector.ofFn fun j => queueFrom (h.lq.getD j.val LoadQ.empty) env (word (11296 + 16 * j.val)) (word (11304 + 16 * j.val)),
    tok := eight Token.idle (toks.map (·.1)), qd := qd,
    groups := (upFrom 0 (word 12288)).map fun i => recNat bs (12256 + 2 * i) 2,
    parked := parkedFrom h.parked (if parked then some (word 12296) else none) }, toks⟩

/-- A section of an image. -/
def sectionOf (xs : List Section) (kind id : Nat) : Option Section := xs.find? fun x => x.kind == kind && x.id == id

/-- The saved harts from their sections. A section of a slot whose hart has ended since the save is passed over (R287). -/
def restoreHarts (saved : Tbl Hart) (xs : List Section) : Option (Tbl HartBack) :=
  saved.mapM fun e => do
    let x ← sectionOf xs 1 e.1
    let h ← parseHart e.2 x.raw
    some (e.1, h)

/-! ### The cluster section -/

/-- The tiles of a cluster section. -/
def parseTiles (bs : List Byte) : Tbl Slot :=
  (numbered 0 (chunks 4 49152 bs)).filterMap fun p => if leNat p.2 = 0 then none else some (p.1, BitVec.ofNat 32 (leNat p.2))

/-- A cluster of a context, its regions, its dirty map, and the tokens of its copy sequencer. -/
structure ClusterBack where
  cl   : Cluster
  regs : List Region
  map  : BitVec 512
  toks : List (Token × Option (Pattern × Pattern × Nat × Nat))
  deriving DecidableEq, Repr

/-- A matrix program from its section; none: the section has no program where one was saved. A program that has ended since is passed over. -/
def mccFrom (old : Option Mcc) (claims w : Nat) (sc : Option Scalar) : Option (Option Mcc) :=
  match old, sc with
  | none, _ => some none
  | some m, some c => some (some { m with sc := c, claims := BitVec.ofNat 4 claims, released := BitVec.ofNat 4 (claims / 16), w := w })
  | some _, none => none

/-- What a section holds of a copy sequencer: its scalar side, its tokens, and the bytes of its stream registers. -/
abbrev SeqSide := Scalar × List (Token × Option (Pattern × Pattern × Nat × Nat)) × List Byte

/-- A copy sequencer from its section, as mccFrom. -/
def seqFrom (old : Option CopySeq) (x : Option SeqSide) : Option (Option CopySeq) :=
  match old, x with
  | none, _ => some none
  | some q, some (sc, toks, st) => (streamsFrom q.q.toList st).map fun qs =>
      some { q with sc := sc, tok := eight Token.idle (toks.map (·.1)), q := eight none qs }
  | some _, none => none

/-- A cluster from its section; p gives what the section does not hold, and what has ended since the save. -/
def parseCluster (ctx c : Nat) (p : Cluster) (bs : List Byte) : Option ClusterBack := do
  let (tiles, r1) ← takeBytes 196608 bs
  let (cw, r2) ← takeWords 1 r1
  let (chains, r3) ← takeMany (takeBytes 16) 4 r2
  let (mw, r4) ← takeWords 2 r3
  let (msc, r5) ← if nthD 0 mw 1 = 0 then some (none, r4) else (takeScalarSide r4).map fun x => (some x.1, x.2)
  let (counts, r6) ← takeWords 2 r5
  if 8 < nthD 0 counts 0 || 8 < nthD 0 counts 1 then none else
  let (fills, r7) ← takeMany takeOp (nthD 0 counts 0) r6
  let (arrs, r8) ← takeMany takeOp (nthD 0 counts 1) r7
  let (sw, r9) ← takeWords 1 r8
  let (seqSide, r10) ← if nthD 0 sw 0 = 0 then some (none, r9) else do
    let (sc, t) ← takeScalarSide r9
    let (toks, u) ← takeMany takeToken 8 t
    let (st, v) ← takeBytes 448 u
    some (some (sc, toks, st), v)
  let (barWords, r11) ← takeMany (takeWords 3) 96 r10
  let (nr, r12) ← takeWords 1 r11
  let (regs, r13) ← takeMany (takeRegion ctx true c) (nthD 0 nr 0) r12
  if r13.length != 64 then none else
  let mcc ← mccFrom p.mcc (nthD 0 cw 0) (nthD 0 mw 0) msc
  let seq ← seqFrom p.seq seqSide
  let bars : Tbl Barrier := (numbered 0 barWords).filterMap fun b =>
    if (tblFind b.1 p.bars).isSome then some (b.1, ⟨nthD 0 b.2 0, nthD 0 b.2 1, nthD 0 b.2 2⟩) else none
  let kept (e : Nat × Slot) : Bool := (p.accUser.getD (e.1 / 12288) none).isSome
  some ⟨{ p with acc := (parseTiles tiles).filter kept, mcc := mcc,
                 chain := Vector.ofFn fun j => if mcc.isSome then BitVec.ofNat 128 (leNat (nthD [] chains j.val)) else 0,
                 fillq := if mcc.isSome then fills.map fun o => { o with started := false, rows := 0 } else [],
                 arrq := if mcc.isSome then arrs else [], seq := seq, bars := bars },
    regs.map (·.1), BitVec.ofNat 512 (leNat r13) &&& p.dirty, (seqSide.map fun x => x.2.1).getD []⟩

/-- The saved clusters from their sections, each with the bytes of its dirty blocks. -/
def restoreClusters (ctx : Nat) (saved : Tbl Cluster) (xs : List Section) : Option (Tbl (ClusterBack × Tbl (List Byte))) :=
  saved.mapM fun e => do
    let x ← sectionOf xs 2 e.1
    let c ← parseCluster ctx e.1 e.2 x.raw
    let all := (upFrom 0 512).filter fun b => (BitVec.ofNat 512 (leNat (x.raw.drop (x.raw.length - 64)))).getLsbD b
    let data ← match sectionOf xs 3 e.1 with
      | some y => if y.raw.length = 4096 * all.length then some y.raw else none
      | none => if all.isEmpty then some [] else none
    let blocks := (numbered 0 all).filterMap fun b =>
      if c.map.getLsbD b.2 then some (b.2, (data.drop (4096 * b.1)).take 4096) else none
    some (e.1, (c, blocks))

/-- The plane store regions of an image, each with its present plane. -/
def restorePlanes (ctx : Nat) (xs : List Section) : Option (List (Region × List Byte)) :=
  (xs.filter fun x => x.kind == 4).mapM fun x => do
    let (r, t) ← takeRegion ctx false x.id x.raw
    if 4 ≤ x.id || !t.isEmpty then none else some r

/-! ### Restoring (R301) -/

/-- The slots, clusters and plane stores of a saved context are free (R301). -/
def State.placesFree (s : State) (ctx : Nat) : Bool :=
  let c := s.context ctx
  c.saved.all (fun e => (s.hart e.1).isNone) &&
  c.savedClusters.all (fun e =>
    let cl := s.cluster e.1
    cl.mcc.isNone && cl.seq.isNone && cl.copies.isEmpty && cl.larder.isEmpty && cl.refetch.isEmpty && cl.allocs.isEmpty &&
      !(s.harts.any fun h => slotCluster h.1 == e.1) && !(s.regions.any fun r => r.scratch && r.home == e.1)) &&
  c.savedRegions.all fun r => r.scratch || !s.regions.any fun x => !x.scratch && x.home == r.home

/-- A cluster put back (R293, R301): its dirty blocks from the image, which stay dirty; a block that is not dirty holds zero. -/
def State.restoreCluster (s : State) (ctx c : Nat) (x : ClusterBack) (blocks : Tbl (List Byte)) : State :=
  let cl := s.cluster c
  let others := cl.acc.filter fun e => (x.cl.accUser.getD (e.1 / 12288) none).isNone
  let users := Vector.ofFn fun j : Fin 4 => (x.cl.accUser.getD j.val none).or (cl.accUser.getD j.val none)
  let s1 := (s.freshRange (scratchKey c 0) (2 ^ 21)).setCluster c
    { x.cl with dirty := 0, granted := cl.granted, accUser := users, acc := sortBy Prod.fst (x.cl.acc ++ others) }
  blocks.foldl (fun t b => t.pokeBy ctx (scratchKey c (4096 * b.1)) b.2) s1

/-- A plane store region's bytes put back. -/
def State.restorePlane (s : State) (r : Region) (bs : List Byte) : State :=
  (upFrom (r.key / 4096) r.blocks).foldl (fun t b => t.own r.ctx (4096 * b)) ((s.serveBlocks r.ctx (r.key / 4096) r.blocks).poke r.key bs)

/-- The regions that come back: those that stood at the save and have not been released since, as the image gives them; none: the image lacks one. -/
def regionsBack (saved image : List Region) : Option (List Region) :=
  saved.mapM fun r => (image.find? fun x => x.key == r.key && x.size == r.size).map fun x =>
    if r.flags / 2 % 2 = 1 && x.flags / 2 % 2 = 0 then { x with flags := x.flags ||| 2, stores := [] } else x

/-- The status words of regions whose step was abandoned while they were saved: bit 1 is set in the records, as they come back (R218). -/
def State.abandonedSince (s : State) (saved image : List Region) : State :=
  saved.foldl (fun t r =>
    if r.flags / 2 % 2 == 1 && image.any (fun x => x.key == r.key && x.flags / 2 % 2 == 0) then t.pokeNat r.status 4 r.flags else t) s

/-- A hart put back on its slot, with the debug stop that it had not come to (R353). In locked-clock mode its lanes are fixed again (R314). -/
def State.restoreHart (s : State) (slot : Nat) (h : Hart) : State :=
  let s1 := match h.stopDue with
    | some x => { s with dbg := { s.dbg with stops := tblPut slot x s.dbg.stops } }
    | none => s
  s1.setHart slot { h with stopDue := none, waiting := false, vwait := false, lastIssue := s.wall, placedAt := s.time, touched := [], retained := [],
                           grant := if s.clkCur then grantOf h.lanes (64 - s.lanesUsed (slotCluster slot)) else 0 }

/-- A saved context comes back with the sections of an image, which is checked whole before anything changes (R301). none: the image is
malformed, or lacks what was saved. -/
def State.restore (s : State) (ctx : Nat) (xs : List Section) : Option State := do
  let c := s.context ctx
  let hs ← restoreHarts c.saved xs
  let cs ← restoreClusters ctx c.savedClusters xs
  let ps ← restorePlanes ctx xs
  let image := cs.flatMap (fun e => e.2.1.regs) ++ ps.map (·.1)
  let regs ← regionsBack c.savedRegions image
  if (xs.filter fun x => x.kind == 5).any fun x => x.raw.length % 64 != 0 then none else
  let s1 := cs.foldl (fun t e => t.restoreCluster ctx e.1 e.2.1 e.2.2) s
  let s2 := (ps.filter fun p => regs.any fun r => r.key == p.1.key).foldl (fun t p => t.restorePlane p.1 p.2) s1
  let s3 : State := hs.foldl (fun t e => t.restoreHart e.1 e.2.hart)
    (({ s2 with regions := s2.regions ++ regs } : State).abandonedSince c.savedRegions image)
  let moved (c : Nat) (k : Copy) : Copy :=
    let k1 := hs.foldl (fun x e => x.atToken (.vec e.1) e.2.toks) k
    match tblFind c cs with
    | some x => k1.atToken (.seq c) x.1.toks
    | none => k1
  let s4 := cs.foldl (fun t e => let cl := t.cluster e.1; t.setCluster e.1 { cl with copies := cl.copies.map (moved e.1) }) s3
  some (s4.setContext ctx { s4.context ctx with state := 1, saved := [], savedClusters := [], savedRegions := [] })

/-! ### The words (R291, R300 to R302) -/

/-- A context descriptor (R291): where it lies, and its context, image and capacity. -/
structure CtxDesc where
  key : Nat
  ctx : Nat
  image : Nat
  cap : Nat
  deriving DecidableEq, Repr

/-- The descriptor at a register's address, or the word's trap (R302). -/
def Ctx.ctxDesc (k : Ctx) (a : Reg) : Res CtxDesc :=
  let va := (k.c.get a).toNat
  if va % 64 != 0 then k.trap { cause := 3, addr := va } else
  match (if 2 ^ 57 ≤ va then .error 4 else k.st.xlate (k.st.who k.p) .store va) with
  | .error c => k.trap { cause := if c = 4 then 4 else 5, addr := va }
  | .ok p =>
    let bs := k.st.peek p.key 64
    if 63 < recNat bs 0 1 then k.cause 1 else .ok ⟨p.key, recNat bs 0 1, recNat bs 8 8, recNat bs 16 8⟩

/-- The word ends with a status in its descriptor. -/
def Ctx.ctxStatus (k : Ctx) (d : CtxDesc) (status : Nat) : Ctx :=
  let s1 := k.st.setDie k.die { k.st.die k.die with saving := none }
  { k with st := s1.pokeNat (d.key + 0x18) 4 status, c := k.c.advance }

/-- A kill of a kernel of the context is in progress. -/
def State.killing (s : State) (ctx : Nat) : Bool := s.kernels.any fun k => k.ctx == ctx && match k.state with
  | .killing .. => true
  | _ => k.doomed.isSome

/-- What a save waits for: the clock has reached the end of every convoy of the context, and of every matrix operation in progress that has a
stated time, which for an mma is that of its last row (R178, R187). -/
def State.settling (s : State) (ctx : Nat) : Bool :=
  (s.harts.any fun e => e.2.ctx == ctx && e.2.lead != 0) ||
  s.clusters.any fun e => (e.2.mcc.any fun m => m.ctx == ctx) && match e.2.arrq with
    | o :: _ => o.started && s.time < o.ends
    | [] => false

/-- The debug stops that are due on a context's running harts outside their convoys, at whose fronts they land (R353). A hart inside a convoy is saved
with its stop to come. -/
def State.stopsDue (s : State) (ctx : Nat) : List (Nat × Nat) :=
  s.dbg.stops.filterMap fun e => match s.hart e.1 with
    | some h => if h.ctx == ctx && h.state == .running && !h.inConvoy then some (e.1, e.2.1) else none
    | none => none

/-- The debug stops of a context taken. -/
def State.takeStops (s : State) (ctx : Nat) : State :=
  (s.stopsDue ctx).foldl (fun t e => match t.debugStop e.1 e.2 with
    | .next u => u
    | _ => t) s

/-- ctxsave (R300). Its first turn begins the save, from which on the context's parts take no turn; a later one performs it whole. A context fault
in between ends it with status 4. -/
def execCtxsave (a : Reg) (s : State) : Out :=
  s.scalarWord .super fun k => do
    let d ← k.ctxDesc a
    let begun := (k.st.die k.die).saving == some d.ctx
    let begin' (t : State) : Res Ctx := .error (t.setDie k.die { t.die k.die with saving := some d.ctx }, .wait)
    if k.st.killing d.ctx then k.wait
    else if (k.st.context d.ctx).state != 1 then .ok (k.ctxStatus d (if begun && (k.st.context d.ctx).state == 3 then 4 else 2))
    else if !begun then begin' k.st
    else if k.st.settling d.ctx then k.wait
    else if !(k.st.stopsDue d.ctx).isEmpty then begin' (k.st.takeStops d.ctx)
    else
      let stopped := k.st.preempt d.ctx
      let bs := imageBytes (stopped.sectionsOf d.ctx)
      if stopped.killing d.ctx then begin' stopped
      else if d.cap < bs.length then .ok (k.ctxStatus d 1)
      else
        let s1 := ((stopped.saveAway d.ctx).physPut d.image bs).pokeNat (d.key + 0x20) 8 bs.length
        .ok (({ k with st := s1 } : Ctx).ctxStatus d 0)

/-- ctxload (R301). -/
def execCtxload (a : Reg) (s : State) : Out :=
  s.scalarWord .super fun k => do
    let d ← k.ctxDesc a
    if (k.st.context d.ctx).state != 2 then .ok (k.ctxStatus d 2)
    else if !k.st.placesFree d.ctx then k.wait
    else
      let head := k.st.physBytes d.image 64
      let n := recNat head 8 8
      if recNat head 0 4 != 0x58435944 || recNat head 4 2 != 1 || n < 64 || d.cap < n then .ok (k.ctxStatus d 3)
      else
        match parseSections (recNat head 6 2) (k.st.physBytes (d.image + 64) (n - 64)) with
        | none => .ok (k.ctxStatus d 3)
        | some xs =>
          match k.st.restore d.ctx xs with
          | none => .ok (k.ctxStatus d 3)
          | some t => .ok (({ k with st := t } : Ctx).ctxStatus d 0)

end Sys2Proof.Machine
end

