-- ==== Sys2Proof/Machine/Tier.lean ====
section
/-! DEFINITION. Tier commands (R335 to R338, R360): their start from the ring, their bytes, and their status. -/
namespace Sys2Proof.Machine

/-- A command's place is memory of the kind its op takes (R337): working or Cellar for a frame. -/
def frameOk (pa lg : Nat) : Bool := pa % 2 ^ lg == 0 && physOk pa (2 ^ lg)

/-- The status of an ended command: 1 done, or 2 with a cause (R337). -/
def tierFailed (cause : Nat) : Nat := 2 + 256 * cause

/-- The cause of a command that breaks R337 or R338; d: the engine's die. -/
def TierCmd.malformed (s : State) (d : Nat) (c : TierCmd) (zeros : Bool) : Option Nat :=
  match pageLg c.size with
  | none => some 1
  | some lg =>
    let tierOk : Option Nat := if tierPort c.tier != d - 1 then some 1 else s.tierCause c.tier
    if !zeros || c.done % 8 != 0 || c.op = 0 || 4 < c.op || (c.op < 3 && 64 ≤ c.ctx) || !frameOk c.frame lg then some 1
    else match c.op with
      | 1 | 2 => if c.src != 0 then some 1 else tierOk
      | 3 => if isCellar c.frame && isCellar c.src && frameOk c.src lg then none else some 1
      | _ => if c.src != 0 then some 1 else none

/-- A command from its 64 bytes: one that is malformed has ended as it starts. -/
def parseTier (s : State) (d : Nat) (bs : List Byte) : TierCmd :=
  let c : TierCmd := ⟨recNat bs 0 1, recNat bs 1 1, recNat bs 2 1, recNat bs 8 8, recNat bs 0x10 8, recNat bs 0x18 8, recNat bs 0x20 8, none⟩
  { c with ended := (c.malformed s d (recNat bs 3 5 == 0 && recNat bs 0x28 8 == 0 && recNat bs 0x30 8 == 0 && recNat bs 0x38 8 == 0)).map tierFailed }

/-- Who reads the ring and writes the status: the engine of a core's die, through context 0 (log 6, log 58). -/
def tierWho (d : Nat) : Who := ⟨0, none, d, true, 0xFFFF, 0xFFFFFFFF, [], 2 ^ 20 + d⟩

/-- Commands published and not started are started in ring order, at most 64 in progress (R336); for a page of the ring that is not present the
engine asks the pager and waits (R333). -/
def State.startTier (s : State) (d : Nat) : Nat → State
  | 0 => s
  | n + 1 =>
    let x := s.die d
    if x.tfLimit.toNat < x.tfPos.toNat + 64 || 64 ≤ x.cmds.length || (d != 1 && d != 2) then s else
    let va := x.tfVa + x.tfPos.toNat % 2 ^ x.tfLg
    if s.awaitsPage (tierWho d) va then s else
    match s.xlate (tierWho d) .load va with
    | .error c => if c = 4 then s.pageAsk (tierWho d) va (accessField 1 0 0 false) else s
    | .ok p =>
      let c := parseTier s d (s.peek p.key 64)
      (s.setDie d { x with cmds := x.cmds ++ [c], tfPos := x.tfPos + 64 }).startTier d n

/-- A frame lies in a Cellar stack whose link to the compute dies fails (R207). -/
def State.frameCut (s : State) (pa : Nat) : Bool := isCellar pa && s.stackDown.contains (pa / 2 ^ 37 % 8)

/-- The bytes of a page copied in ascending address, up to the first uncorrectable block of its source: the state and its
cause. None is copied over the failed link of a Cellar stack (R207). -/
def State.tierCopy (s : State) (src dst lg : Nat) : State × Nat :=
  let n := 2 ^ lg
  if s.frameCut src || s.frameCut dst then (s, tierFailed 0x14) else
  let bads := s.bad.filter fun b => src ≤ b && b < src + n
  match bads with
  | [] => (s.copyRange src dst n, 1)
  | b :: t =>
    let first := t.foldl (fun a x => min a x) b
    let s1 := if isCellar src || isWorking src then s.logError first else s
    (s1.copyRange src dst (first - src), tierFailed 9)

/-- Command number idx of a die replaced. -/
def State.setCmd (s : State) (d idx : Nat) (c : TierCmd) : State :=
  s.setDie d { s.die d with cmds := setNth c (s.die d).cmds idx }

/-- A command of an op in progress performs its bytes: run gives the state and the status. -/
def tierStep (op d idx : Nat) (run : State → TierCmd → Nat → State × Nat) (s : State) : Out :=
  let s1 := s.startTier d 64
  match (s1.die d).cmds[idx]? with
  | none => .next s1
  | some c =>
    match c.ended, pageLg c.size with
    | none, some lg => if c.op = op then (let (t, st) := run s1 c lg; .next (t.setCmd d idx { c with ended := some st })) else .next s1
    | _, _ => .next s1

/-- tierPageIn (R337): op 1. -/
def execTierPageIn (die idx : Nat) (s : State) : Out :=
  tierStep 1 die idx (fun s c lg => match s.tierCause c.tier with
    | some e => (s, tierFailed e)
    | none => s.tierCopy (tierKey c.tier) c.frame lg) s

/-- A query pins a byte of a frame, through the translation that it holds (R329, R335): a page-out waits for its replies. -/
def State.framePinned (s : State) (frame lg : Nat) : Bool :=
  s.harts.any fun e => e.2.pins.any fun p =>
    let pa := entryField p.entry 51 12 * 4096
    p.query && frame < pa + 2 ^ p.lg && pa < frame + 2 ^ lg

/-- tierPageOut (R335, R337): op 2. -/
def execTierPageOut (die idx : Nat) (s : State) : Out :=
  match (s.die die).cmds[idx]? with
  | some c =>
    if c.op = 2 && s.framePinned c.frame ((pageLg c.size).getD 12) then .next s else
    tierStep 2 die idx (fun s c lg => match s.tierCause c.tier with
      | some e => (s, tierFailed e)
      | none => s.tierCopy c.frame (tierKey c.tier) lg) s
  | none => .next (s.startTier die 64)

/-- cellarMove (R335, R337): op 3. -/
def execCellarMove (die idx : Nat) (s : State) : Out :=
  tierStep 3 die idx (fun s c lg => if c.src = c.frame then (s, 1) else s.tierCopy c.src c.frame lg) s

/-- zeroFrame (R294, R337): op 4. -/
def execZeroFrame (die idx : Nat) (s : State) : Out :=
  tierStep 4 die idx (fun s c lg => if s.frameCut c.frame then (s, tierFailed 0x14) else (s.zeroRange c.frame (2 ^ lg), 1)) s

/-- The status of an ended command written at its address (R337). Where done is no multiple of 8, so that the command is malformed, the eight bytes go
to the address as it stands; where a check fails, and where bits 63:57 of done are not all zero, none is written (DESIGN CHOICE, log 78). -/
def State.tierStatus (s : State) (w : Who) (va st : Nat) : Except Nat State :=
  if 2 ^ 57 ≤ va then .ok s else
  match s.xlate w .store va, s.xlate w .store (va + 7) with
  | .error 4, _ | _, .error 4 => .error (if (s.leaf w.ctx va).isNone then va else va + 7)
  | .ok p, .ok q =>
    let n := min 8 (4096 - va % 4096)
    let s1 := (s.touch 0 va).poke p.key ((leBytes 8 st).take n)
    .ok (if n = 8 then s1 else (s1.touch 0 (va + n)).poke (q.key + n - 7) ((leBytes 8 st).drop n))
  | _, _ => .ok s

/-- tierCommandDone (R337): an ended command's status is written and the command leaves the engine; for a page that is not present the engine
asks the pager and waits (R333). -/
def execTierCommandDone (die idx : Nat) (s : State) : Out :=
  let s1 := s.startTier die 64
  match (s1.die die).cmds[idx]? with
  | none => .next s1
  | some c =>
    match c.ended with
    | none => .next s1
    | some st =>
      let s2 := s1.setDie die { s1.die die with cmds := (s1.die die).cmds.eraseIdx idx }
      if s1.awaitsPage (tierWho die) c.done || s1.awaitsPage (tierWho die) (c.done + 7) then .next s1 else
      match s2.tierStatus (tierWho die) c.done st with
      | .ok t => .next t
      | .error va => .next (s1.pageAsk (tierWho die) va (accessField 2 0 0 false))

/-- tierLinkLoss (R360): the commands in flight on a tier port fail with cause 0x14, and so does what later names the port. -/
def execTierLinkLoss (port : Nat) (s : State) : Out :=
  if 2 ≤ port then .next s else
  let d := port + 1
  let s1 := s.startTier d 64
  let lost (c : TierCmd) : TierCmd := if c.ended.isNone && (c.op == 1 || c.op == 2) then { c with ended := some (tierFailed 0x14) } else c
  .next { s1.setDie d { s1.die d with cmds := (s1.die d).cmds.map lost } with
    tierLost := if s1.tierLost.contains port then s1.tierLost else s1.tierLost ++ [port] }

end Sys2Proof.Machine
end

