-- ==== Sys2Proof/Machine/Platform.lean ====
section
/-! DEFINITION. Base dies, scrubbing, clocks, heat, boot, links, the host's memory range, SPDM, the monitor's mailboxes and samples
(R16, R347 to R352, R357 to R366). -/
namespace Sys2Proof.Machine

/-! ### Base dies (R347 to R350). Dies 0 to 7 are the Cellar stacks', 8 to 11 the working stacks' (BDSEL). -/

/-- Two microseconds on the clock of wall (log 8). -/
def twoMicroseconds : Nat := 2 * 100 * 232792560

/-- Two heartbeats in a row have been missed since the last (R348). -/
def State.beatsMissed (s : State) (b : BaseDie) : Bool := b.beatAt + twoMicroseconds ≤ s.wall

/-- heartbeat (R348): the pointer is taken over; while the fallback sequencer holds refresh a heartbeat counts only after a
restart, and only if it follows the last without two missed. Refresh is started by boot stage 3 (R363). -/
def execHeartbeat (die pointer : Nat) (s : State) : Out :=
  let b := s.baseDie die
  if 12 ≤ die || s.stage < 3 then .next s
  else if !b.fb then .next (s.setBaseDie die { b with pointer := pointer, beat := pointer, beatAt := s.wall })
  else if b.restarted then .next (s.setBaseDie die { b with beats := if s.beatsMissed b then 1 else b.beats + 1, beat := pointer, beatAt := s.wall })
  else .next s

/-- refresh (R348, R349): the row at the pointer is refreshed in every bank, which clears its activation counters. Counters stand at
2^20 bank + row. -/
def execRefresh (die : Nat) (s : State) : Out :=
  let b := s.baseDie die
  if 12 ≤ die || s.stage < 3 then .next s else
  .next (s.setBaseDie die { b with pointer := (b.pointer + 1) % 2 ^ 20, acts := b.acts.filter fun e => e.1 % 2 ^ 20 != b.pointer })

/-- fallbackTakeover (R348): two heartbeats were missed; the fallback sequencer takes refresh from the last heartbeat's pointer, pauses query
expansion on a Cellar stack and interrupts the monitor. -/
def execFallbackTakeover (die : Nat) (s : State) : Out :=
  let b := s.baseDie die
  if 12 ≤ die || s.stage < 3 || b.fb || !s.beatsMissed b then .next s else
  .next { s.setBaseDie die { b with fb := true, qpause := die < 8, fbcount := min (b.fbcount + 1) 0xFFFF, pointer := b.beat,
                                    restarted := false, beats := 0 } with monIrq := s.monIrq ++ [die] }

/-- refreshHandback (R348): after a restart and two heartbeats refresh goes back at a row boundary. -/
def execRefreshHandback (die : Nat) (s : State) : Out :=
  let b := s.baseDie die
  if b.fb && b.restarted && 2 ≤ b.beats then
    .next (s.setBaseDie die { b with fb := false, qpause := false, restarted := false, beats := 0 })
  else .next s

/-- subarrayClose (R347): the latch of a subarray of a bank closes. -/
def execSubarrayClose (die bank latch : Nat) (s : State) : Out :=
  let b := s.baseDie die
  if 12 ≤ die then .next s else .next (s.setBaseDie die { b with opened := b.opened.filter fun x => !(x.1 == bank && x.2.1 == latch) })

/-- activationAlert (R349): the alert of a row whose counter has reached the threshold is served. Two rows on each side are refreshed, which
clears their counters; an activation by the query sequencer limits it on that bank and counts in BDQTHR. -/
def execActivationAlert (die bank row : Nat) (query : Bool) (s : State) : Out :=
  let b := s.baseDie die
  if 12 ≤ die || !b.alerts.contains (bank, row, query) then .next s else
  let key (r : Nat) : Nat := 2 ^ 20 * bank + r
  let near := ([row + 1, row + 2].filter (· < 2 ^ 20)).map key ++ (if 1 ≤ row then [key (row - 1)] else []) ++ (if 2 ≤ row then [key (row - 2)] else [])
  let b1 := { b with alerts := b.alerts.erase (bank, row, query), acts := b.acts.filter fun e => !near.contains e.1 }
  .next (s.setBaseDie die (if query && die < 8 then
    { b1 with throttled := if b.throttled.contains bank then b.throttled else b.throttled ++ [bank], qthr := b.qthr + 1 } else b1))

/-- throttleEnd (R349). -/
def execThrottleEnd (die bank : Nat) (s : State) : Out :=
  let b := s.baseDie die
  if 12 ≤ die then .next s else .next (s.setBaseDie die { b with throttled := b.throttled.filter (· != bank) })

/-- The base die that scrubs a block: its Cellar stack's, or that of the working stack of a block whose home is not stated here (R350). -/
def scrubber (block : Nat) : Nat := if isCellar block then block / 2 ^ 37 % 8 else 8

/-- scrub (R350): an uncorrectable block found by scrubbing is only logged. block: the key of its first byte. -/
def execScrub (die block : Nat) (s : State) : Out :=
  .next (if die < 12 && (isWorking block || isCellar block) && (s.badBlock block).isSome then s.logError block else s)

/-! ### Clocks and heat (R16, R366) -/

/-- clockLower (R16): never in locked-clock mode, and no lower than 1.2 GHz. -/
def execClockLower (s : State) : Out := .next (if s.clkCur then s else { s with clkMHz := max 1200 (s.clkMHz - 100) })

/-- clockRaise (R16). -/
def execClockRaise (s : State) : Out := .next (if s.clkCur then s else { s with clkMHz := min 2100 (s.clkMHz + 100) })

/-- heatBreak (R366): locked-clock mode ends and the running kernels' counts are marked. -/
def execHeatBreak (s : State) : Out :=
  .next (if !s.clkCur then s else
    { s with clkCur := false, clkReq := false, clkMHz := 2100, lbrk := true,
             kernels := s.kernels.map fun k => if k.state == .running then { k with broken := true } else k })

/-- Memory that stands outside the device and its stacks: host, peer and tier memory (log 1). -/
def outsideMem (m : List Host.Cell) : List Host.Cell := m.filter fun c => 3 * 2 ^ 64 ≤ c.1

/-- thermalTrip (R366): the device resets and the sideband keeps the cause, here 0x115 (log 26). Memory outside the device stays, and
the counters that name the model's free values run on. -/
def execThermalTrip (s : State) : Out :=
  .next { State.reset with mem := outsideMem s.mem, sideband := s.sideband ++ [0x115], steps := s.steps, agenda := s.agenda }

/-! ### Boot (R363) -/

/-- The stages whose images are verified (R363). -/
def verifiesAt (stage : Nat) : Bool := stage = 2 || stage = 3 || stage = 5

/-- What the completion of a stage leaves (R294, R360, R363): stage 3 starts refresh on the twelve base dies, stage 4 zeroes every store and fixes the tier ports' modes, stage 5 starts
the four cores, each at its launch program area (log 7). -/
def State.stageDone (s : State) (stage : Nat) : State :=
  let s1 := { s with stage := stage }
  match stage with
  | 3 => (upFrom 0 12).foldl (fun t d => t.setBaseDie d { t.baseDie d with beatAt := t.wall }) s1
  | 4 => { s1 with mem := outsideMem s1.mem, tmode := (if Config.tierNvme 0 then 1 else 0) ||| (if Config.tierNvme 1 then 2 else 0) }
  | 5 => { s1 with dies := s1.dies.map fun d => { d with running := true, core := { d.core with pc := BitVec.ofNat 64 d.areaAddr } } }
  | _ => s1

/-- boot (R363): the next stage completes, or its verification fails: the boot stops there and the sideband reports the stage. -/
def execBoot (s : State) : Out :=
  if s.fail || 5 ≤ s.stage then .next s
  else if verifiesAt (s.stage + 1) && !Config.bootVerifies (s.stage + 1) then
    .next { s with fail := true, sideband := s.sideband ++ [0x200 + s.stage + 1] }
  else .next (s.stageDone (s.stage + 1))

/-! ### Corien Link (R361, R362) -/

/-- linkDown (R361): a port goes down; peer accesses through it fail with cause 0x14. -/
def execLinkDown (port : Nat) (s : State) : Out :=
  .next (if port < 12 && !s.portDown.contains port then { s with portDown := s.portDown ++ [port] } else s)

/-- What a peer asks of this device, performed at its working memory (R362): the state and the reply's data. -/
def State.serveFlit (s : State) (f : FlitOp) : State × List Byte :=
  match f with
  | .read pa len => if pa + len ≤ 2 ^ 38 && len ≤ 192 then (s, s.peek pa len) else (s, [])
  | .write pa data => if pa + data.length ≤ 2 ^ 38 && data.length ≤ 192 then (s.poke pa data, []) else (s, [])
  | .amo pa op double b cmp =>
    let n := if double then 8 else 4
    if pa % n != 0 || 2 ^ 38 < pa + n then (s, []) else
    let old := s.peekNat pa n
    let new := if double then (amoValue op (BitVec.ofNat 64 old) b cmp).toNat
      else (amoValue op (BitVec.ofNat 32 old) (b.setWidth 32) (cmp.setWidth 32)).toNat
    (s.pokeNat pa n new, leBytes n old)
  | .reply _ => (s, [])

/-- flitReceive (R361, R362): a flit whose CRC fails is replayed, and the port goes down when sixteen replays in a row have failed; a request
for this device is performed and answered. The replies to this device's own accesses need no step: those accesses are performed
whole (log 10). -/
def execFlitReceive (port : Nat) (f : Flit) (s : State) : Out :=
  if 12 ≤ port || s.portDown.contains port then .next s
  else if !f.crcOk then
    let n := tblGet 0 port s.replays + 1
    let s1 := { s with replays := tblPut port n s.replays }
    if 17 ≤ n then execLinkDown port s1 else .next s1
  else
    let s1 := { s with replays := tblDel port s.replays }
    match f.op with
    | .reply _ => .next s1
    | op =>
      if f.dst != Config.ownNode then .next s1 else
      let (s2, data) := s1.serveFlit op
      .next { s2 with sent := s2.sent ++ [⟨f.src, f.dst, f.tag, .reply data, true⟩] }

/-! ### The host's memory range (R357) -/

/-- hostMemAccess (R357): a read of a 64-byte line, or a write, in the range that MHDM exposes. -/
def execHostMemAccess (pa : Nat) (data : Option (List (BitVec 8))) (s : State) : Out :=
  let n := match data with
    | some bs => bs.length
    | none => 64
  if pa < s.mhdmBase || s.mhdmBase + s.mhdmGib * 2 ^ 30 < pa + n || 2 ^ 38 < pa + n then .next s else
  match data with
  | some bs => .next (s.poke pa bs)
  | none => .next { s with hostReply := some (s.peek pa 64) }

/-! ### SPDM over DOE (R364) -/

/-- The six measurements by index (R364). -/
def measurements : List (Nat × Nat) :=
  ((upFrom 1 4).map fun n => (n, (Config.measurement n).toNat)) ++ [(5, if Config.moduleM then 2 else 1), (6, Config.rollback)]

/-- What R364 gives of the reply to a request. code names the request: 1 GET_VERSION, 2 GET_CAPABILITIES, 3 NEGOTIATE_ALGORITHMS, 4 GET_DIGESTS,
5 GET_CERTIFICATE, 6 CHALLENGE, 7 GET_MEASUREMENTS. -/
def spdmFact (code : Nat) : SpdmFact :=
  match code with
  | 1 => .version 1 3
  | 3 => .algorithms [.ecdsaNistP256, .sha256]
  | 7 => .measurements measurements
  | _ => .standard

/-- The reply to a request. -/
def spdmReply (code : Nat) (req : List Byte) : SpdmReply := ⟨spdmFact code, Config.spdmReply code req⟩

/-- An SPDM request (R364): it is answered, or waits in the mailbox while that is busy with a reply that the host has not taken. -/
def spdm (code : Nat) (req : List Byte) (s : State) : Out :=
  .next (if s.doe.isSome || !s.doeWait.isEmpty then { s with doeWait := s.doeWait ++ [(code, req)] } else { s with doe := some (spdmReply code req) })

/-- The host takes the reply that stands in the DOE mailbox, and the oldest request that waits is answered (R364; log 45). -/
def State.doeTaken (s : State) : State :=
  match s.doeWait with
  | [] => { s with doe := none }
  | r :: rest => { s with doe := some (spdmReply r.1 r.2), doeWait := rest }

/-- getVersion (R364): SPDM 1.3. -/
def execGetVersion (req : List (BitVec 8)) (s : State) : Out := spdm 1 req s

/-- getCapabilities (R364). -/
def execGetCapabilities (req : List (BitVec 8)) (s : State) : Out := spdm 2 req s

/-- negotiateAlgorithms (R364): P-256 and SHA-256 only. -/
def execNegotiateAlgorithms (req : List (BitVec 8)) (s : State) : Out := spdm 3 req s

/-- getDigests (R364). -/
def execGetDigests (req : List (BitVec 8)) (s : State) : Out := spdm 4 req s

/-- getCertificate (R364). -/
def execGetCertificate (req : List (BitVec 8)) (s : State) : Out := spdm 5 req s

/-- challenge (R364). -/
def execChallenge (req : List (BitVec 8)) (s : State) : Out := spdm 6 req s

/-- getMeasurements (R364): the six measurements. -/
def execGetMeasurements (req : List (BitVec 8)) (s : State) : Out := spdm 7 req s

/-! ### BAR0 (R358) -/

/-- A byte of BAR0 as the host reads it; after a failed verification only MSTAT (R363). -/
def State.barByte (s : State) (o : Nat) : Byte :=
  let byte (v : Nat) : Byte := nthD 0 (leBytes 8 v) (o % 8)
  if 0x2000 ≤ o && o < 0x2008 then byte (s.monReg 0xB00)
  else if s.fail then 0
  else if o < 0x400 && o % 0x100 < 16 then
    let x := s.die (o / 0x100)
    byte (if o % 0x100 < 8 then x.lpLimit.toNat else x.lpPos.toNat)
  else if 0x1000 ≤ o && o < 0x2000 then tblGet 0 (o - 0x1000) s.mbox
  else 0

/-- A write of the host to BAR0: LPLIMIT from boot stage 5 on, and the mailbox, which a write of its ring field rings (R359). -/
def State.barWrite (s : State) (off : Nat) (bs : List Byte) : State :=
  let n := bs.length
  if off < 0x400 && off % 0x100 + n ≤ 8 then
    if s.stage < 5 then s else
    let x := s.die (off / 0x100)
    let old := leBytes 8 x.lpLimit.toNat
    let at' := off % 0x100
    s.setDie (off / 0x100) (x.setLplimit (BitVec.ofNat 64 (leNat (old.take at' ++ bs ++ old.drop (at' + n)))))
  else if 0x1000 ≤ off && off + n ≤ 0x2000 then
    let t := { s with mbox := (numbered (off - 0x1000) bs).foldl (fun m p => tblPut p.1 p.2 m) s.mbox }
    if off < 0x1004 && n != 0 then { t with rung := t.rung ++ [true] } else t
  else s

/-- An access of the host to BAR0. -/
def State.barAccess (s : State) (off : Nat) (data : Option (List Byte)) : Out :=
  .next (match data with
    | some bs => s.barWrite off bs
    | none => { s with hostReply := some ((upFrom off 8).map s.barByte) })

/-! ### The monitor's mailboxes (R359) -/

/-- n bytes of the host's mailbox. -/
def State.mboxBytes (s : State) (off n : Nat) : List Byte := (upFrom off n).map fun i => tblGet 0 i s.mbox

/-- A number read from a mailbox. -/
def State.mboxNat (s : State) (host : Bool) (off n : Nat) : Nat :=
  if host then leNat (s.mboxBytes off n) else s.physNat (s.msvcPa + off) n

/-- A number written to a mailbox. -/
def State.mboxPut (s : State) (host : Bool) (off n v : Nat) : State :=
  if host then { s with mbox := (numbered off (leBytes n v)).foldl (fun t p => tblPut p.1 p.2 t) s.mbox } else s.physPut (s.msvcPa + off) (leBytes n v)

/-- A mailbox's request is the next to be served: they are served in the order in which they were rung. -/
def State.mboxRung (s : State) (host : Bool) : Bool := s.rung.head? == some host

/-- A served request: its status, its reply in arg0, and the state. -/
structure Served where
  status : Nat
  reply  : Option Nat
  st     : State
  deriving DecidableEq, Repr

/-- Serve a mailbox's request when its op is one the step serves: the reply first, done last (R359). -/
def mboxStep (host : Bool) (ops : Nat → Bool) (act : Nat → Nat → State → Served) (s : State) : Out :=
  if !s.mboxRung host then .next s
  else
    let op := s.mboxNat host 8 2
    if !ops op then .next s else
    let ring := s.mboxNat host 0 4
    let r : Served := if s.stage < 5 && op != 0 && op != 5 then ⟨4, none, s⟩
      else act (s.mboxNat host 0x10 8) (s.mboxNat host 0x18 8) s
    let s1 := match r.reply with
      | some v => r.st.mboxPut host 0x10 8 v
      | none => r.st
    let s2 := (s1.mboxPut host 0xA 2 r.status).mboxPut host 4 4 ring
    .next { s2 with rung := s2.rung.drop 1 }

/-- mboxNop (R359): op 0; an op that the table does not list is answered with status 1 here. -/
def execMboxNop (host : Bool) (s : State) : Out :=
  let op := s.mboxNat host 8 2
  mboxStep host (fun o => o = 0 || 5 < o) (fun _ _ s => ⟨if op = 0 then 0 else 1, none, s⟩) s

/-- mboxReadDebug (R359). -/
def execMboxReadDebug (host : Bool) (s : State) : Out :=
  mboxStep host (· = 1) (fun n _ s => if dbgAssigned n then ⟨0, some (s.monReg n), s⟩ else ⟨2, none, s⟩) s

/-- mboxWriteDebug (R359). -/
def execMboxWriteDebug (host : Bool) (s : State) : Out :=
  mboxStep host (· = 2) (fun n v s => if dbgAssigned n then ⟨0, none, s.dbgWrite n (BitVec.ofNat 64 v)⟩ else ⟨2, none, s⟩) s

/-- mboxReadMonitor (R359). -/
def execMboxReadMonitor (host : Bool) (s : State) : Out :=
  mboxStep host (· = 3) (fun n _ s => if monAssigned n then ⟨0, some (s.monReg n), s⟩ else ⟨2, none, s⟩) s

/-- mboxWriteMonitor (R359): a write of MSTAT that sets a bit outside its W1C fields, sctrap and lbrk, is not permitted (log 29). -/
def execMboxWriteMonitor (host : Bool) (s : State) : Out :=
  mboxStep host (· = 4) (fun n v s =>
    if !monAssigned n then ⟨2, none, s⟩
    else if n = 0xB00 && BitVec.ofNat 64 v &&& ~~~(0xF800 : Word) != 0 then ⟨3, none, s⟩
    else ⟨0, none, s.monWrite n (BitVec.ofNat 64 v)⟩) s

/-- mboxReadStage (R359). -/
def execMboxReadStage (host : Bool) (s : State) : Out := mboxStep host (· = 5) (fun _ _ s => ⟨0, some (s.monReg 0xB00), s⟩) s

/-! ### Samples (R352) -/

/-- The classes that have a slot-cycle in the cycles that a hart's clock passes next, under the rest of its grant class 4 (R64). -/
def Spent.classes (x : Spent) (grant : Nat) : List Nat :=
  let rest := grant * x.cycles - (x.useful + x.masked + x.beyond + x.startup)
  [(x.useful, 0), (x.masked, 1), (x.beyond, 2), (x.startup, 3), (rest, 4)].filterMap fun p => if p.1 = 0 then none else some p.2

/-- What a sample says of a hart's convoy (R352): the address of its head in issue, the element of the commit front, its members, and the class of
the sampled cycle. While the clock stands inside a convoy, that convoy's: its front is at its VL where it is performed. The class is one of those that the
cycle has slots of, where it has several a free one of them (log 8). A hart that a debug stop holds names the convoy it stands before (R353); without a
convoy on the clock a hart issues no element. -/
def State.sampleOf (s : State) (slot : Nat) (h : Hart) : Nat × Nat × Nat × Nat :=
  match h.timed with
  | some (head, members, top) =>
    let cls := match h.due.find? fun x => !x.filling with
      | some x => let l := x.classes h.grant; nthD 4 l (Config.sampleClass s.steps % l.length)
      | none => 4
    let elem := match h.blocks with
      | b :: _ => if b.issued && b.pc.toNat == head then b.elem else top
      | [] => top
    (head, elem, members, cls)
  | none =>
    match h.blocks with
    | b :: _ => if b.issued || h.state == .held 0x0F then (b.pc.toNat, b.elem, (s.nextConvoy slot h b).length, 4) else (0, b.elem, 0, 4)
    | [] => (0, 0, 0, 4)

/-- dbgSample (R352): a placed hart of the selected context writes its sample. -/
def execDbgSample (slot : Nat) (s : State) : Out :=
  match s.hart slot with
  | none => .next s
  | some h =>
    if s.dbg.smpPer = 0 || s.dbg.sel != h.ctx then .next s else
    let (head, elem, n, cls) := s.sampleOf slot h
    .next (s.samplePut (sampleBytes h slot head elem n cls))

end Sys2Proof.Machine
end

