-- ==== Sys2Proof/Machine/ScalarFp.lean ====
section
/-! DEFINITION. Scalar FP32 words (R107, R108): f32 values in bits 31:0, FROUND's mode, g64 under SR, flags and cause 0x0E
by R42. -/
namespace Sys2Proof.Machine

/-- Bits 31:0 of a register as an f32 slot (R107). -/
def lowSlot (x : Word) : Slot := x.setWidth 32

/-- A slot written to bits 31:0 with zeros above (R107). -/
def slotWord (x : Slot) : Word := x.setWidth 64

/-- A scalar FP32 result committed: nothing is written when a raised flag has its enable set (R42, R107). -/
def fpCommit (k : Ctx) (d : Reg) (v : Word) (fl : Flags) (g : BitVec 32) : Res Ctx :=
  if flagTraps k.c.fflags fl then k.cause 0x0E
  else .ok { k with c := ({ k.c with fflags := orFlags k.c.fflags fl, g64 := g }.set d v).advance }

/-- FROUND's mode. -/
def Scalar.mode (c : Scalar) : Nat := c.fround.toNat

/-- The drawn number and the generator after one rounding: under SR g64 advances once (R39). -/
def Scalar.draw (c : Scalar) : Nat × BitVec 32 :=
  if c.mode = rsr then ((srStep c.g64).toNat, srStep c.g64) else (0, c.g64)

/-- A word whose exact result is rounded once to FP32 with FROUND (R107). x gives the exact result and its own flags. -/
def fpRounded (x : Nat → Slot → Slot → Slot → Num × Flags) (d a b : Reg) (s : State) : Out :=
  s.scalarWord .common fun k => do
    k.need [d] [a, b]
    let (v, fl) := x k.c.mode (lowSlot (k.c.get a)) (lowSlot (k.c.get b)) (lowSlot (k.c.get d))
    let (rnd, g) := k.c.draw
    let (r, fl') := roundF32 v k.c.mode 0 rnd
    fpCommit k d (slotWord r) (fl ||| fl') g

/-- fadd (R107). -/
def execFadd (d a b : Reg) (s : State) : Out := fpRounded (fun m x y _ => addNum m (f32 x) (f32 y)) d a b s

/-- fsub (R107): a NaN source keeps its sign. -/
def execFsub (d a b : Reg) (s : State) : Out := fpRounded (fun m x y _ => subNum m (f32 x) (f32 y)) d a b s

/-- fmul (R107). -/
def execFmul (d a b : Reg) (s : State) : Out := fpRounded (fun _ x y _ => mulNum (f32 x) (f32 y)) d a b s

/-- ffma (R107): a b plus the old d, rounded once. -/
def execFfma (d a b : Reg) (s : State) : Out := fpRounded (fun m x y z => fmaNum m (f32 x) (f32 y) (f32 z)) d a b s

/-- A word whose result is unrounded. -/
def fpDirect (f : Slot → Slot → Word × Flags) (d a b : Reg) (s : State) : Out :=
  s.scalarWord .common fun k => do
    k.need [d] [a, b]
    let (v, fl) := f (lowSlot (k.c.get a)) (lowSlot (k.c.get b))
    fpCommit k d v fl k.c.g64

/-- fmin (R107). -/
def execFmin (d a b : Reg) (s : State) : Out :=
  fpDirect (fun x y => let (r, fl) := minMax false f32 slotOf x y; (slotWord r, fl)) d a b s

/-- fmax (R107). -/
def execFmax (d a b : Reg) (s : State) : Out :=
  fpDirect (fun x y => let (r, fl) := minMax true f32 slotOf x y; (slotWord r, fl)) d a b s

/-- fcmp.eq (R108). -/
def execFcmpEq (d a b : Reg) (s : State) : Out :=
  fpDirect (fun x y => (Word.ofBool (eqNum (f32 x) (f32 y)), cmpFlags false (f32 x) (f32 y))) d a b s

/-- fcmp.lt (R108). -/
def execFcmpLt (d a b : Reg) (s : State) : Out :=
  fpDirect (fun x y => (Word.ofBool (ltNum (f32 x) (f32 y)), cmpFlags true (f32 x) (f32 y))) d a b s

/-- fcmp.le (R108). -/
def execFcmpLe (d a b : Reg) (s : State) : Out :=
  fpDirect (fun x y => (Word.ofBool (ltNum (f32 x) (f32 y) || eqNum (f32 x) (f32 y)), cmpFlags true (f32 x) (f32 y))) d a b s

/-- fcvt.f32.i64 (R108): all 64 bits of a, rounded with FROUND. -/
def execFcvtF32I64 (d a : Reg) (s : State) : Out :=
  s.scalarWord .common fun k => do
    k.need [d] [a]
    let (rnd, g) := k.c.draw
    let (r, fl) := roundF32 (Num.ofInt (k.c.get a).toInt 0 false) k.c.mode 0 rnd
    fpCommit k d (slotWord r) fl g

/-- fcvt.i64.f32 (R108): toward zero, saturating with NV. -/
def execFcvtI64F32 (d a : Reg) (s : State) : Out :=
  s.scalarWord .common fun k => do
    k.need [d] [a]
    let (v, fl) := toIntSat (f32 (lowSlot (k.c.get a))) rtz 0 (-(2 ^ 63)) (2 ^ 63 - 1) (-(2 ^ 63)) (2 ^ 63 - 1) 0
    fpCommit k d (BitVec.ofInt 64 v) fl k.c.g64

end Sys2Proof.Machine
end

