-- ==== Sys2Proof/Machine/ScalarInt.lean ====
section
/-! DEFINITION. Scalar integer words: register and immediate arithmetic, constants, branches and jumps (R104 to
R106, R109). -/
namespace Sys2Proof.Machine

/-! ### Arithmetic on 64-bit patterns (R104, R105) -/

/-- The truncated signed quotient (R105): all ones by zero, MIN by -1 gives MIN. -/
def divSigned (a b : Word) : Word := if b = 0 then BitVec.allOnes 64 else a.sdiv b

/-- The signed remainder with the sign of the dividend (R105). -/
def remSigned (a b : Word) : Word := if b = 0 then a else a.srem b

/-- The unsigned quotient (R105). -/
def divUnsigned (a b : Word) : Word := if b = 0 then BitVec.allOnes 64 else a.udiv b

/-- The unsigned remainder (R105). -/
def remUnsigned (a b : Word) : Word := if b = 0 then a else a.umod b

/-- High 64 bits of the signed and the unsigned product (R104). -/
def mulHigh (a b : Word) : Word := BitVec.ofInt 64 ((a.toInt * b.toInt) / 2 ^ 64)
def mulHighU (a b : Word) : Word := BitVec.ofNat 64 ((a.toNat * b.toNat) / 2 ^ 64)

/-- The low six bits of a shift amount (R104). -/
def shAmt (b : Word) : Nat := b.toNat % 64

/-- Leading zero bits among the low n bits of a pattern. -/
def clzFrom (a : Word) : Nat → Nat
  | 0 => 0
  | n + 1 => if a.getLsbD n then 0 else 1 + clzFrom a n

/-- Trailing zero bits from bit i, looking at n bits. -/
def ctzFrom (a : Word) (i : Nat) : Nat → Nat
  | 0 => 0
  | n + 1 => if a.getLsbD i then 0 else 1 + ctzFrom a (i + 1) n

/-- One bits among the low n bits. -/
def popFrom (a : Word) : Nat → Nat
  | 0 => 0
  | n + 1 => (if a.getLsbD n then 1 else 0) + popFrom a n

/-- A constant's sign extension to 64 bits (R77). -/
def sx16 (imm : BitVec 16) : Word := imm.signExtend 64

/-- A constant's zero extension to 64 bits (R77). -/
def zx16 (imm : BitVec 16) : Word := imm.setWidth 64

/-! ### Shapes -/

/-- A word that computes d from a and b (R104). -/
def alu3 (f : Word → Word → Word) (d a b : Reg) (s : State) : Out :=
  s.scalarWord .common fun k => do
    k.need [d] [a, b]
    .ok (k.write d (f (k.c.get a) (k.c.get b)))

/-- A word that computes d from a (R104, R106). -/
def alu2 (f : Word → Word) (d a : Reg) (s : State) : Out :=
  s.scalarWord .common fun k => do
    k.need [d] [a]
    .ok (k.write d (f (k.c.get a)))

/-- A control transfer to a target (R109). On a stream controller core a target in the launch program area must be the
word at position LPPOS, which the transfer itself has advanced when it lies in the area (R305). -/
def jumpTo (k : Ctx) (target : Word) : Res Ctx :=
  match k.p with
  | .scc d =>
    let x := k.st.die d
    let pos := if x.inArea k.c.pc.toNat then { x with lpPos := x.lpPos + 4 } else x
    if x.inArea target.toNat && pos.areaAddr != target.toNat then
      k.trap { cause := 5, addr := target.toNat }
    else .ok { k with c := { k.c with pc := target } }
  | _ => .ok { k with c := { k.c with pc := target } }

/-- A branch (R109): to its own address plus four times the offset when the condition holds. -/
def branch (cond : Word → Word → Bool) (a b : Reg) (off : BitVec 13) (s : State) : Out :=
  s.scalarWord .common fun k => do
    k.need [] [a, b]
    if cond (k.c.get a) (k.c.get b) then jumpTo k (k.c.pc + 4 * off.signExtend 64) else .ok k.done

/-! ### The words -/

/-- add (R104): d := a + b. -/
def execAdd (d a b : Reg) (s : State) : Out := alu3 (fun x y => x + y) d a b s

/-- sub (R104): d := a - b. -/
def execSub (d a b : Reg) (s : State) : Out := alu3 (fun x y => x - y) d a b s

/-- mul (R104): the low 64 bits of the product. -/
def execMul (d a b : Reg) (s : State) : Out := alu3 (fun x y => x * y) d a b s

/-- mulh (R104): the high bits of the signed product. -/
def execMulh (d a b : Reg) (s : State) : Out := alu3 (mulHigh) d a b s

/-- mulhn (R104): the high bits of the unsigned product. -/
def execMulhn (d a b : Reg) (s : State) : Out := alu3 (mulHighU) d a b s

/-- div (R104, R105): the signed quotient truncated toward zero. -/
def execDiv (d a b : Reg) (s : State) : Out := alu3 (divSigned) d a b s

/-- divn (R104, R105): the unsigned quotient. -/
def execDivn (d a b : Reg) (s : State) : Out := alu3 (divUnsigned) d a b s

/-- rem (R104, R105): the signed remainder. -/
def execRem (d a b : Reg) (s : State) : Out := alu3 (remSigned) d a b s

/-- remn (R104, R105): the unsigned remainder. -/
def execRemn (d a b : Reg) (s : State) : Out := alu3 (remUnsigned) d a b s

/-- and (R104): bitwise. -/
def execAnd (d a b : Reg) (s : State) : Out := alu3 (fun x y => x &&& y) d a b s

/-- or (R104): bitwise. -/
def execOr (d a b : Reg) (s : State) : Out := alu3 (fun x y => x ||| y) d a b s

/-- xor (R104): bitwise. -/
def execXor (d a b : Reg) (s : State) : Out := alu3 (fun x y => x ^^^ y) d a b s

/-- andn (R104): a AND NOT b. -/
def execAndn (d a b : Reg) (s : State) : Out := alu3 (fun x y => x &&& ~~~y) d a b s

/-- shl (R104): left by b mod 64. -/
def execShl (d a b : Reg) (s : State) : Out := alu3 (fun x y => x <<< shAmt y) d a b s

/-- shr (R104): logically right by b mod 64. -/
def execShr (d a b : Reg) (s : State) : Out := alu3 (fun x y => x >>> shAmt y) d a b s

/-- sra (R104): arithmetically right by b mod 64. -/
def execSra (d a b : Reg) (s : State) : Out := alu3 (fun x y => x.sshiftRight (shAmt y)) d a b s

/-- rotr (R104): rotated right by b mod 64. -/
def execRotr (d a b : Reg) (s : State) : Out := alu3 (fun x y => x.rotateRight (shAmt y)) d a b s

/-- min (R104): signed. -/
def execMin (d a b : Reg) (s : State) : Out := alu3 (fun x y => if x.slt y then x else y) d a b s

/-- max (R104): signed. -/
def execMax (d a b : Reg) (s : State) : Out := alu3 (fun x y => if x.slt y then y else x) d a b s

/-- minn (R104): unsigned. -/
def execMinn (d a b : Reg) (s : State) : Out := alu3 (fun x y => if x.ult y then x else y) d a b s

/-- maxn (R104): unsigned. -/
def execMaxn (d a b : Reg) (s : State) : Out := alu3 (fun x y => if x.ult y then y else x) d a b s

/-- slt (R104): signed less than. -/
def execSlt (d a b : Reg) (s : State) : Out := alu3 (fun x y => Word.ofBool (x.slt y)) d a b s

/-- sltn (R104): unsigned less than. -/
def execSltn (d a b : Reg) (s : State) : Out := alu3 (fun x y => Word.ofBool (x.ult y)) d a b s

/-- seq (R104): equal. -/
def execSeq (d a b : Reg) (s : State) : Out := alu3 (fun x y => Word.ofBool (x == y)) d a b s

/-- csel (R104): a when the old d is nonzero, else b. -/
def execCsel (d a b : Reg) (s : State) : Out :=
  s.scalarWord .common fun k => do
    k.need [d] [a, b]
    .ok (k.write d (if k.c.get d != 0 then k.c.get a else k.c.get b))

/-- clz (R104): leading zero bits, 64 for zero. -/
def execClz (d a : Reg) (s : State) : Out := alu2 (fun x => BitVec.ofNat 64 (clzFrom x 64)) d a s

/-- ctz (R104): trailing zero bits, 64 for zero. -/
def execCtz (d a : Reg) (s : State) : Out := alu2 (fun x => BitVec.ofNat 64 (ctzFrom x 0 64)) d a s

/-- popc (R104): one bits. -/
def execPopc (d a : Reg) (s : State) : Out := alu2 (fun x => BitVec.ofNat 64 (popFrom x 64)) d a s

/-- sextB (R104): bits 7:0 sign-extended. -/
def execSextB (d a : Reg) (s : State) : Out := alu2 (fun x => (x.setWidth 8).signExtend 64) d a s

/-- sextH (R104): bits 15:0 sign-extended. -/
def execSextH (d a : Reg) (s : State) : Out := alu2 (fun x => (x.setWidth 16).signExtend 64) d a s

/-- sextW (R104): bits 31:0 sign-extended. -/
def execSextW (d a : Reg) (s : State) : Out := alu2 (fun x => (x.setWidth 32).signExtend 64) d a s

/-- zextB (R104): bits 7:0 zero-extended. -/
def execZextB (d a : Reg) (s : State) : Out := alu2 (fun x => (x.setWidth 8).setWidth 64) d a s

/-- zextH (R104): bits 15:0 zero-extended. -/
def execZextH (d a : Reg) (s : State) : Out := alu2 (fun x => (x.setWidth 16).setWidth 64) d a s

/-- zextW (R104): bits 31:0 zero-extended. -/
def execZextW (d a : Reg) (s : State) : Out := alu2 (fun x => (x.setWidth 32).setWidth 64) d a s

/-- addi (R106): a + imm. -/
def execAddi (d a : Reg) (imm : BitVec 16) (s : State) : Out := alu2 (fun x => x + sx16 imm) d a s

/-- andi (R106): a AND imm. -/
def execAndi (d a : Reg) (imm : BitVec 16) (s : State) : Out := alu2 (fun x => x &&& zx16 imm) d a s

/-- ori (R106): a OR imm. -/
def execOri (d a : Reg) (imm : BitVec 16) (s : State) : Out := alu2 (fun x => x ||| zx16 imm) d a s

/-- xori (R106): a XOR imm. -/
def execXori (d a : Reg) (imm : BitVec 16) (s : State) : Out := alu2 (fun x => x ^^^ zx16 imm) d a s

/-- slti (R106): signed less than. -/
def execSlti (d a : Reg) (imm : BitVec 16) (s : State) : Out := alu2 (fun x => Word.ofBool (x.slt (sx16 imm))) d a s

/-- sltni (R106): unsigned less than the sign-extended constant. -/
def execSltni (d a : Reg) (imm : BitVec 16) (s : State) : Out := alu2 (fun x => Word.ofBool (x.ult (sx16 imm))) d a s

/-- shli (R106): by the constant amount. -/
def execShli (d a : Reg) (amount : BitVec 6) (s : State) : Out := alu2 (fun x => x <<< amount.toNat) d a s

/-- shri (R106): by the constant amount. -/
def execShri (d a : Reg) (amount : BitVec 6) (s : State) : Out := alu2 (fun x => x >>> amount.toNat) d a s

/-- srai (R106): by the constant amount. -/
def execSrai (d a : Reg) (amount : BitVec 6) (s : State) : Out := alu2 (fun x => x.sshiftRight amount.toNat) d a s

/-- rotri (R106): by the constant amount. -/
def execRotri (d a : Reg) (amount : BitVec 6) (s : State) : Out := alu2 (fun x => x.rotateRight amount.toNat) d a s

/-- Halfword k of a word replaced (R106). -/
def setHalf (x : Word) (k : Nat) (half : BitVec 16) : Word :=
  (x &&& ~~~((0xFFFF : Word) <<< (16 * k))) ||| (half.setWidth 64 <<< (16 * k))

/-- lih (R106): halfword k of d replaced. -/
def execLih (d : Reg) (k : BitVec 2) (half : BitVec 16) (s : State) : Out := alu2 (fun x => setHalf x k.toNat half) d d s

/-- pcadd (R106): the address of the word plus four times the constant. -/
def execPcadd (d : Reg) (imm : BitVec 16) (s : State) : Out :=
  s.scalarWord .common fun k => do
    k.need [d] []
    .ok (k.write d (k.c.pc + 4 * sx16 imm))

/-- b.eq (R109). -/
def execBEq (a b : Reg) (off : BitVec 13) (s : State) : Out := branch (fun x y => x == y) a b off s

/-- b.ne (R109). -/
def execBNe (a b : Reg) (off : BitVec 13) (s : State) : Out := branch (fun x y => x != y) a b off s

/-- b.lt (R109). -/
def execBLt (a b : Reg) (off : BitVec 13) (s : State) : Out := branch (fun x y => x.slt y) a b off s

/-- b.ge (R109). -/
def execBGe (a b : Reg) (off : BitVec 13) (s : State) : Out := branch (fun x y => !x.slt y) a b off s

/-- b.ltn (R109). -/
def execBLtn (a b : Reg) (off : BitVec 13) (s : State) : Out := branch (fun x y => x.ult y) a b off s

/-- b.gen (R109). -/
def execBGen (a b : Reg) (off : BitVec 13) (s : State) : Out := branch (fun x y => !x.ult y) a b off s

/-- jal (R109): s1 takes the next word's address. -/
def execJal (off : BitVec 26) (s : State) : Out :=
  s.scalarWord .common fun k => do
    let k' ← jumpTo k (k.c.pc + 4 * off.signExtend 64)
    .ok { k' with c := k'.c.set 1 (k.c.pc + 4) }

/-- jmp (R109). -/
def execJmp (off : BitVec 26) (s : State) : Out :=
  s.scalarWord .common fun k => jumpTo k (k.c.pc + 4 * off.signExtend 64)

/-- jalr (R109): the target from the old a; a target not aligned to 4 is cause 0x03 at the word. -/
def execJalr (d a : Reg) (imm : BitVec 16) (s : State) : Out :=
  s.scalarWord .common fun k => do
    k.need [d] [a]
    let target := k.c.get a + 4 * sx16 imm
    if target.toNat % 4 != 0 then k.trap { cause := 3, addr := target.toNat } else
    let k' ← jumpTo k target
    .ok { k' with c := k'.c.set d (k.c.pc + 4) }

end Sys2Proof.Machine
end

