-- ==== Sys2Proof/Machine/VectorCtl.lean ====
section
/-! DEFINITION. Vector control on the scalar stream (R60, R115, R116), the end of a block (R73), and the two steps of a hart
that meets no instruction (R94, R116). -/
namespace Sys2Proof.Machine

/-- vsetvl (R60, R154): VL := min(a, b, MVL), b left out when it is s0. -/
def execVsetvl (d a b : Reg) (s : State) : Out :=
  s.scalarWord .vecOnly fun k => do
    k.need [d] [a, b]
    let h ← k.hart
    if k.ffPending then k.wait else
    let t := (k.c.get a).toNat
    let t := if b = 0 then t else min t (k.c.get b).toNat
    let vl := min t (mvlOf h.nregs)
    .ok ((k.setHart { h with vl := vl }).write d (BitVec.ofNat 64 vl))

/-- NREGS set (R59): added registers read zero and are full, removed ones lose their contents, VL is clamped. Elements of a
kept register that a longer MVL brings back are unstated (log 12); name: the step that sets it, which names them. -/
def Hart.reconfigure (h : Hart) (n name : Nat) : Hart :=
  if n = h.nregs then h else
  let mvl := mvlOf n
  let keep := min n h.nregs
  let bound := min mvl (mvlOf h.nregs)
  { h with
    nregs := n, vl := min h.vl mvl,
    v := h.v.filter fun e => e.1 / 1024 < keep && e.1 % 1024 < mvl,
    stale := (upFrom 0 keep).map fun r => (r, (bound, name) :: (tblGet [] r h.stale).filter (·.1 < bound)),
    full := (upFrom h.nregs (n - h.nregs)).foldl (fun f r => f ||| (1 <<< r)) h.full }

/-- vcfg (R115): after every earlier vector word; a value other than 8, 16, 32 or 64 is cause 0x01. -/
def execVcfg (d a : Reg) (s : State) : Out :=
  s.scalarWord .vecOnly fun k => do
    k.need [d] [a]
    let h ← k.hart
    k.quiet
    let n := (k.c.get a).toNat
    if n != 8 && n != 16 && n != 32 && n != 64 then k.cause 1 else
    .ok ((k.setHart (h.reconfigure n k.st.steps)).write d (BitVec.ofNat 64 (mvlOf n)))

/-- vsync (R115). -/
def execVsync (s : State) : Out :=
  s.scalarWord .vecOnly fun k => do
    k.quiet
    .ok k.done

/-- The environment a block takes at its vf (R54, R87, R193). -/
def Hart.blockEnv (h : Hart) (c : Scalar) : BlockEnv :=
  ⟨h.vl, h.nregs, c.vround, Vector.ofFn fun i => c.x.getD i.val 0, h.qd⟩

/-- vf (R96, R116): hands a block to the vector stream; a ninth block waits. -/
def execVf (off : BitVec 26) (s : State) : Out :=
  s.scalarWord .vecOnly fun k => do
    let h ← k.hart
    let target := k.c.pc + 4 * off.signExtend 64
    if target = 0 then k.cause 1
    else if target.getLsbD 2 then k.trap { cause := 3, addr := target.toNat }
    else if 8 ≤ h.blocks.length || k.ffPending then k.wait
    else
      let b : Block := ⟨h.blockSeq, target, 0, false, false, 0, [], 0, [], [], [], [], [], false, h.blockEnv k.c⟩
      .ok (k.setHart { h with blocks := h.blocks ++ [b], blockSeq := h.blockSeq + 1 }).done

/-- vstop (R73): the front block of the hart on turn ends. -/
def execVstop (s : State) : Out :=
  match s.cur with
  | .vec slot =>
    match s.hart slot with
    | some h =>
      match h.blocks with
      | _ :: rest => .next (s.setHart slot { h with blocks := rest })
      | [] => .fault .noParty
    | none => .fault .noParty
  | _ => .fault .noParty

/-- illegalInstruction (R94): the party on turn traps with cause 0x01 at the word it stands at. On the vector stream the
block's front names the word with element 0. -/
def execIllegalInstruction (s : State) : Out :=
  match s.scalar s.cur with
  | none => .fault .noParty
  | some c => s.takeTrap s.cur { cause := 1 } c.pc c.pc

/-- instructionFetchFault (R116): the party on turn traps with the fetch's cause at the word it stands at. -/
def execInstructionFetchFault (cause addr : Nat) (s : State) : Out :=
  match s.scalar s.cur with
  | none => .fault .noParty
  | some c => s.takeTrap s.cur { cause := cause, addr := addr, access := accessField 5 0 0 false } c.pc c.pc

end Sys2Proof.Machine
end

