-- ==== Sys2Proof/Machine/Dispatch.lean ====
section
/-! DEFINITION. The one dispatch from an instruction to its meaning. -/
namespace Sys2Proof.Machine

def exec (i : Instr) (s : State) : Host.Outcome State Fault Refusal :=
  match i with
  | .add d a b => Sys2Proof.Machine.execAdd d a b s
  | .sub d a b => Sys2Proof.Machine.execSub d a b s
  | .mul d a b => Sys2Proof.Machine.execMul d a b s
  | .mulh d a b => Sys2Proof.Machine.execMulh d a b s
  | .mulhn d a b => Sys2Proof.Machine.execMulhn d a b s
  | .div d a b => Sys2Proof.Machine.execDiv d a b s
  | .divn d a b => Sys2Proof.Machine.execDivn d a b s
  | .rem d a b => Sys2Proof.Machine.execRem d a b s
  | .remn d a b => Sys2Proof.Machine.execRemn d a b s
  | .and d a b => Sys2Proof.Machine.execAnd d a b s
  | .or d a b => Sys2Proof.Machine.execOr d a b s
  | .xor d a b => Sys2Proof.Machine.execXor d a b s
  | .andn d a b => Sys2Proof.Machine.execAndn d a b s
  | .shl d a b => Sys2Proof.Machine.execShl d a b s
  | .shr d a b => Sys2Proof.Machine.execShr d a b s
  | .sra d a b => Sys2Proof.Machine.execSra d a b s
  | .rotr d a b => Sys2Proof.Machine.execRotr d a b s
  | .min d a b => Sys2Proof.Machine.execMin d a b s
  | .max d a b => Sys2Proof.Machine.execMax d a b s
  | .minn d a b => Sys2Proof.Machine.execMinn d a b s
  | .maxn d a b => Sys2Proof.Machine.execMaxn d a b s
  | .slt d a b => Sys2Proof.Machine.execSlt d a b s
  | .sltn d a b => Sys2Proof.Machine.execSltn d a b s
  | .seq d a b => Sys2Proof.Machine.execSeq d a b s
  | .csel d a b => Sys2Proof.Machine.execCsel d a b s
  | .clz d a => Sys2Proof.Machine.execClz d a s
  | .ctz d a => Sys2Proof.Machine.execCtz d a s
  | .popc d a => Sys2Proof.Machine.execPopc d a s
  | .sextB d a => Sys2Proof.Machine.execSextB d a s
  | .sextH d a => Sys2Proof.Machine.execSextH d a s
  | .sextW d a => Sys2Proof.Machine.execSextW d a s
  | .zextB d a => Sys2Proof.Machine.execZextB d a s
  | .zextH d a => Sys2Proof.Machine.execZextH d a s
  | .zextW d a => Sys2Proof.Machine.execZextW d a s
  | .fadd d a b => Sys2Proof.Machine.execFadd d a b s
  | .fsub d a b => Sys2Proof.Machine.execFsub d a b s
  | .fmul d a b => Sys2Proof.Machine.execFmul d a b s
  | .ffma d a b => Sys2Proof.Machine.execFfma d a b s
  | .fmin d a b => Sys2Proof.Machine.execFmin d a b s
  | .fmax d a b => Sys2Proof.Machine.execFmax d a b s
  | .fcmpEq d a b => Sys2Proof.Machine.execFcmpEq d a b s
  | .fcmpLt d a b => Sys2Proof.Machine.execFcmpLt d a b s
  | .fcmpLe d a b => Sys2Proof.Machine.execFcmpLe d a b s
  | .fcvtF32I64 d a => Sys2Proof.Machine.execFcvtF32I64 d a s
  | .fcvtI64F32 d a => Sys2Proof.Machine.execFcvtI64F32 d a s
  | .addi d a imm => Sys2Proof.Machine.execAddi d a imm s
  | .andi d a imm => Sys2Proof.Machine.execAndi d a imm s
  | .ori d a imm => Sys2Proof.Machine.execOri d a imm s
  | .xori d a imm => Sys2Proof.Machine.execXori d a imm s
  | .slti d a imm => Sys2Proof.Machine.execSlti d a imm s
  | .sltni d a imm => Sys2Proof.Machine.execSltni d a imm s
  | .shli d a amount => Sys2Proof.Machine.execShli d a amount s
  | .shri d a amount => Sys2Proof.Machine.execShri d a amount s
  | .srai d a amount => Sys2Proof.Machine.execSrai d a amount s
  | .rotri d a amount => Sys2Proof.Machine.execRotri d a amount s
  | .lih d k half => Sys2Proof.Machine.execLih d k half s
  | .pcadd d imm => Sys2Proof.Machine.execPcadd d imm s
  | .bEq a b off => Sys2Proof.Machine.execBEq a b off s
  | .bNe a b off => Sys2Proof.Machine.execBNe a b off s
  | .bLt a b off => Sys2Proof.Machine.execBLt a b off s
  | .bGe a b off => Sys2Proof.Machine.execBGe a b off s
  | .bLtn a b off => Sys2Proof.Machine.execBLtn a b off s
  | .bGen a b off => Sys2Proof.Machine.execBGen a b off s
  | .jal off => Sys2Proof.Machine.execJal off s
  | .jmp off => Sys2Proof.Machine.execJmp off s
  | .jalr d a imm => Sys2Proof.Machine.execJalr d a imm s
  | .ldB d base cls off => Sys2Proof.Machine.execLdB d base cls off s
  | .ldH d base cls off => Sys2Proof.Machine.execLdH d base cls off s
  | .ldW d base cls off => Sys2Proof.Machine.execLdW d base cls off s
  | .ldBn d base cls off => Sys2Proof.Machine.execLdBn d base cls off s
  | .ldHn d base cls off => Sys2Proof.Machine.execLdHn d base cls off s
  | .ldWn d base cls off => Sys2Proof.Machine.execLdWn d base cls off s
  | .ldD d base cls off => Sys2Proof.Machine.execLdD d base cls off s
  | .stB src base cls off => Sys2Proof.Machine.execStB src base cls off s
  | .stH src base cls off => Sys2Proof.Machine.execStH src base cls off s
  | .stW src base cls off => Sys2Proof.Machine.execStW src base cls off s
  | .stD src base cls off => Sys2Proof.Machine.execStD src base cls off s
  | .crd d cr => Sys2Proof.Machine.execCrd d cr s
  | .cwr cr a => Sys2Proof.Machine.execCwr cr a s
  | .crs d cr a => Sys2Proof.Machine.execCrs d cr a s
  | .crc d cr a => Sys2Proof.Machine.execCrc d cr a s
  | .vsetvl d a b => Sys2Proof.Machine.execVsetvl d a b s
  | .vcfg d a => Sys2Proof.Machine.execVcfg d a s
  | .amoAdd d a b f => Sys2Proof.Machine.execAmoAdd d a b f s
  | .amoAnd d a b f => Sys2Proof.Machine.execAmoAnd d a b f s
  | .amoOr d a b f => Sys2Proof.Machine.execAmoOr d a b f s
  | .amoXor d a b f => Sys2Proof.Machine.execAmoXor d a b f s
  | .amoMin d a b f => Sys2Proof.Machine.execAmoMin d a b f s
  | .amoMax d a b f => Sys2Proof.Machine.execAmoMax d a b f s
  | .amoMinn d a b f => Sys2Proof.Machine.execAmoMinn d a b f s
  | .amoMaxn d a b f => Sys2Proof.Machine.execAmoMaxn d a b f s
  | .amoSwap d a b f => Sys2Proof.Machine.execAmoSwap d a b f s
  | .amoCas d a b f => Sys2Proof.Machine.execAmoCas d a b f s
  | .join a => Sys2Proof.Machine.execJoin a s
  | .leave a => Sys2Proof.Machine.execLeave a s
  | .grank d a => Sys2Proof.Machine.execGrank d a s
  | .step a => Sys2Proof.Machine.execStep a s
  | .pbind a b => Sys2Proof.Machine.execPbind a b s
  | .punbind a => Sys2Proof.Machine.execPunbind a s
  | .bar j a => Sys2Proof.Machine.execBar j a s
  | .bara j a => Sys2Proof.Machine.execBara j a s
  | .barw j => Sys2Proof.Machine.execBarw j s
  | .gbar a => Sys2Proof.Machine.execGbar a s
  | .fenceC scope classes => Sys2Proof.Machine.execFenceC scope classes s
  | .forkM a b => Sys2Proof.Machine.execForkM a b s
  | .forkC a b => Sys2Proof.Machine.execForkC a b s
  | .forkH d a b => Sys2Proof.Machine.execForkH d a b s
  | .sbind j a b => Sys2Proof.Machine.execSbind j a b s
  | .scpy j a b => Sys2Proof.Machine.execScpy j a b s
  | .swait tokens => Sys2Proof.Machine.execSwait tokens s
  | .scancel j => Sys2Proof.Machine.execScancel j s
  | .squery d j => Sys2Proof.Machine.execSquery d j s
  | .scpySeg j a b => Sys2Proof.Machine.execScpySeg j a b s
  | .qdesc j a b => Sys2Proof.Machine.execQdesc j a b s
  | .creloc a b => Sys2Proof.Machine.execCreloc a b s
  | .xlook d a => Sys2Proof.Machine.execXlook d a s
  | .xpark d a m => Sys2Proof.Machine.execXpark d a m s
  | .xwake d m => Sys2Proof.Machine.execXwake d m s
  | .xlayer d => Sys2Proof.Machine.execXlayer d s
  | .xrepl a b => Sys2Proof.Machine.execXrepl a b s
  | .xhint a b => Sys2Proof.Machine.execXhint a b s
  | .mldW a b => Sys2Proof.Machine.execMldW a b s
  | .mldA a b => Sys2Proof.Machine.execMldA a b s
  | .mma j a b => Sys2Proof.Machine.execMma j a b s
  | .mzero j => Sys2Proof.Machine.execMzero j s
  | .mst j a => Sys2Proof.Machine.execMst j a s
  | .mcfg a => Sys2Proof.Machine.execMcfg a s
  | .mscale a b => Sys2Proof.Machine.execMscale a b s
  | .trap a => Sys2Proof.Machine.execTrap a s
  | .tlbinv a => Sys2Proof.Machine.execTlbinv a s
  | .ctxsave a => Sys2Proof.Machine.execCtxsave a s
  | .ctxload a => Sys2Proof.Machine.execCtxload a s
  | .logmark a => Sys2Proof.Machine.execLogmark a s
  | .klaunch d a => Sys2Proof.Machine.execKlaunch d a s
  | .kwait a => Sys2Proof.Machine.execKwait a s
  | .kkill a => Sys2Proof.Machine.execKkill a s
  | .kprio a b => Sys2Proof.Machine.execKprio a b s
  | .waitm d a b cls => Sys2Proof.Machine.execWaitm d a b cls s
  | .vf off => Sys2Proof.Machine.execVf off s
  | .vaddFp bf f => Sys2Proof.Machine.execVaddFp bf f s
  | .vsubFp bf f => Sys2Proof.Machine.execVsubFp bf f s
  | .vmulFp bf f => Sys2Proof.Machine.execVmulFp bf f s
  | .vfma bf f => Sys2Proof.Machine.execVfma bf f s
  | .vfms bf f => Sys2Proof.Machine.execVfms bf f s
  | .vfnma bf f => Sys2Proof.Machine.execVfnma bf f s
  | .vdiv bf f => Sys2Proof.Machine.execVdiv bf f s
  | .vsqrt bf f => Sys2Proof.Machine.execVsqrt bf f s
  | .vminFp bf f => Sys2Proof.Machine.execVminFp bf f s
  | .vmaxFp bf f => Sys2Proof.Machine.execVmaxFp bf f s
  | .vabs bf f => Sys2Proof.Machine.execVabs bf f s
  | .vneg bf f => Sys2Proof.Machine.execVneg bf f s
  | .vcopysign bf f => Sys2Proof.Machine.execVcopysign bf f s
  | .vexp2 f => Sys2Proof.Machine.execVexp2 f s
  | .vlog2 f => Sys2Proof.Machine.execVlog2 f s
  | .vrcp f => Sys2Proof.Machine.execVrcp f s
  | .vrsqrt f => Sys2Proof.Machine.execVrsqrt f s
  | .vtanh f => Sys2Proof.Machine.execVtanh f s
  | .vcvtBf16F32 f => Sys2Proof.Machine.execVcvtBf16F32 f s
  | .vcvtF32I32 f => Sys2Proof.Machine.execVcvtF32I32 f s
  | .vcvtI32F32 f => Sys2Proof.Machine.execVcvtI32F32 f s
  | .vcvtF32N32 f => Sys2Proof.Machine.execVcvtF32N32 f s
  | .vcvtN32F32 f => Sys2Proof.Machine.execVcvtN32F32 f s
  | .vround f => Sys2Proof.Machine.execVround f s
  | .vclass f => Sys2Proof.Machine.execVclass f s
  | .vaddI32 f => Sys2Proof.Machine.execVaddI32 f s
  | .vsubI32 f => Sys2Proof.Machine.execVsubI32 f s
  | .vmulI32 f => Sys2Proof.Machine.execVmulI32 f s
  | .vmulh f => Sys2Proof.Machine.execVmulh f s
  | .vmulhn f => Sys2Proof.Machine.execVmulhn f s
  | .vand f => Sys2Proof.Machine.execVand f s
  | .vor f => Sys2Proof.Machine.execVor f s
  | .vxor f => Sys2Proof.Machine.execVxor f s
  | .vshl f => Sys2Proof.Machine.execVshl f s
  | .vshr f => Sys2Proof.Machine.execVshr f s
  | .vsra f => Sys2Proof.Machine.execVsra f s
  | .vminI32 f => Sys2Proof.Machine.execVminI32 f s
  | .vmaxI32 f => Sys2Proof.Machine.execVmaxI32 f s
  | .vminn f => Sys2Proof.Machine.execVminn f s
  | .vmaxn f => Sys2Proof.Machine.execVmaxn f s
  | .vaddi f => Sys2Proof.Machine.execVaddi f s
  | .vandi f => Sys2Proof.Machine.execVandi f s
  | .vori f => Sys2Proof.Machine.execVori f s
  | .vxori f => Sys2Proof.Machine.execVxori f s
  | .vshli f => Sys2Proof.Machine.execVshli f s
  | .vshri f => Sys2Proof.Machine.execVshri f s
  | .vsrai f => Sys2Proof.Machine.execVsrai f s
  | .vcmp ty cond f => Sys2Proof.Machine.execVcmp ty cond f s
  | .mand f => Sys2Proof.Machine.execMand f s
  | .mor f => Sys2Proof.Machine.execMor f s
  | .mxor f => Sys2Proof.Machine.execMxor f s
  | .mandn f => Sys2Proof.Machine.execMandn f s
  | .mnot f => Sys2Proof.Machine.execMnot f s
  | .mset f => Sys2Proof.Machine.execMset f s
  | .mclr f => Sys2Proof.Machine.execMclr f s
  | .mpop f => Sys2Proof.Machine.execMpop f s
  | .mfirst f => Sys2Proof.Machine.execMfirst f s
  | .mlist f => Sys2Proof.Machine.execMlist f s
  | .mfromv f => Sys2Proof.Machine.execMfromv f s
  | .mtov f => Sys2Proof.Machine.execMtov f s
  | .vcompress f => Sys2Proof.Machine.execVcompress f s
  | .vexpand f => Sys2Proof.Machine.execVexpand f s
  | .vperm f => Sys2Proof.Machine.execVperm f s
  | .vslideup f => Sys2Proof.Machine.execVslideup f s
  | .vslidedn f => Sys2Proof.Machine.execVslidedn f s
  | .vbcast f => Sys2Proof.Machine.execVbcast f s
  | .vid f => Sys2Proof.Machine.execVid f s
  | .vmv f => Sys2Proof.Machine.execVmv f s
  | .vsel f => Sys2Proof.Machine.execVsel f s
  | .vredsumF32 f => Sys2Proof.Machine.execVredsumF32 f s
  | .vredsumBf16 f => Sys2Proof.Machine.execVredsumBf16 f s
  | .vredmax f => Sys2Proof.Machine.execVredmax f s
  | .vredmin f => Sys2Proof.Machine.execVredmin f s
  | .vredsumI32 f => Sys2Proof.Machine.execVredsumI32 f s
  | .vredsumb f => Sys2Proof.Machine.execVredsumb f s
  | .vscanF32 f => Sys2Proof.Machine.execVscanF32 f s
  | .vredmaxi f => Sys2Proof.Machine.execVredmaxi f s
  | .vmergek f => Sys2Proof.Machine.execVmergek f s
  | .vtopk f => Sys2Proof.Machine.execVtopk f s
  | .xcount f => Sys2Proof.Machine.execXcount f s
  | .xcsel f => Sys2Proof.Machine.execXcsel f s
  | .vld f => Sys2Proof.Machine.execVld f s
  | .vst f => Sys2Proof.Machine.execVst f s
  | .vlds f => Sys2Proof.Machine.execVlds f s
  | .vsts f => Sys2Proof.Machine.execVsts f s
  | .vldx f => Sys2Proof.Machine.execVldx f s
  | .vstx f => Sys2Proof.Machine.execVstx f s
  | .vldff f => Sys2Proof.Machine.execVldff f s
  | .vldseg f => Sys2Proof.Machine.execVldseg f s
  | .vappend f => Sys2Proof.Machine.execVappend f s
  | .mdrain f => Sys2Proof.Machine.execMdrain f s
  | .mfill f => Sys2Proof.Machine.execMfill f s
  | .vamoAdd order f => Sys2Proof.Machine.execVamoAdd order f s
  | .vamoAnd order f => Sys2Proof.Machine.execVamoAnd order f s
  | .vamoOr order f => Sys2Proof.Machine.execVamoOr order f s
  | .vamoXor order f => Sys2Proof.Machine.execVamoXor order f s
  | .vamoMin order f => Sys2Proof.Machine.execVamoMin order f s
  | .vamoMax order f => Sys2Proof.Machine.execVamoMax order f s
  | .vamoMinn order f => Sys2Proof.Machine.execVamoMinn order f s
  | .vamoMaxn order f => Sys2Proof.Machine.execVamoMaxn order f s
  | .vamoSwap order f => Sys2Proof.Machine.execVamoSwap order f s
  | .cadd f => Sys2Proof.Machine.execCadd f s
  | .vpref f => Sys2Proof.Machine.execVpref f s
  | .qdot f => Sys2Proof.Machine.execQdot f s
  | .qwsum f => Sys2Proof.Machine.execQwsum f s
  | .qfsum f => Sys2Proof.Machine.execQfsum f s
  | .qmaxi f => Sys2Proof.Machine.execQmaxi f s
  | .qtopk f => Sys2Proof.Machine.execQtopk f s
  | .qhist f => Sys2Proof.Machine.execQhist f s
  | .vsync => Sys2Proof.Machine.execVsync s
  | .rdvM => Sys2Proof.Machine.execRdvM s
  | .rdvC => Sys2Proof.Machine.execRdvC s
  | .rdvMc => Sys2Proof.Machine.execRdvMc s
  | .halt => Sys2Proof.Machine.execHalt s
  | .mwait => Sys2Proof.Machine.execMwait s
  | .eret => Sys2Proof.Machine.execEret s
  | .brk => Sys2Proof.Machine.execBrk s
  | .vstop => Sys2Proof.Machine.execVstop s
  | .convoyIssue slot => Sys2Proof.Machine.execConvoyIssue slot s
  | .queryReply slot => Sys2Proof.Machine.execQueryReply slot s
  | .waitmWake slot => Sys2Proof.Machine.execWaitmWake slot s
  | .regrant cluster => Sys2Proof.Machine.execRegrant cluster s
  | .priorityAging => Sys2Proof.Machine.execPriorityAging s
  | .budgetExceeded ctx kid => Sys2Proof.Machine.execBudgetExceeded ctx kid s
  | .intervalDigest slot => Sys2Proof.Machine.execIntervalDigest slot s
  | .dbgSample slot => Sys2Proof.Machine.execDbgSample slot s
  | .retentionEntry slot bank => Sys2Proof.Machine.execRetentionEntry slot bank s
  | .hartPlacement => Sys2Proof.Machine.execHartPlacement s
  | .scoreboardAdmit die => Sys2Proof.Machine.execScoreboardAdmit die s
  | .inputTransferComplete ctx kid n => Sys2Proof.Machine.execInputTransferComplete ctx kid n s
  | .kernelReady ctx kid => Sys2Proof.Machine.execKernelReady ctx kid s
  | .clockModeChange => Sys2Proof.Machine.execClockModeChange s
  | .matrixProgramStart cluster => Sys2Proof.Machine.execMatrixProgramStart cluster s
  | .copyProgramStart cluster => Sys2Proof.Machine.execCopyProgramStart cluster s
  | .matrixOperationStart cluster fill => Sys2Proof.Machine.execMatrixOperationStart cluster fill s
  | .rowFinal cluster => Sys2Proof.Machine.execRowFinal cluster s
  | .matrixOperationComplete cluster fill => Sys2Proof.Machine.execMatrixOperationComplete cluster fill s
  | .copyStart cluster idx => Sys2Proof.Machine.execCopyStart cluster idx s
  | .copyComplete cluster idx => Sys2Proof.Machine.execCopyComplete cluster idx s
  | .copyFail cluster idx => Sys2Proof.Machine.execCopyFail cluster idx s
  | .readStreamFetch slot q => Sys2Proof.Machine.execReadStreamFetch slot q s
  | .writeStreamPerform slot q => Sys2Proof.Machine.execWriteStreamPerform slot q s
  | .expertFetchStart ctx e => Sys2Proof.Machine.execExpertFetchStart ctx e s
  | .expertFetchComplete ctx e => Sys2Proof.Machine.execExpertFetchComplete ctx e s
  | .replicaFill ctx e rep => Sys2Proof.Machine.execReplicaFill ctx e rep s
  | .tierPageIn die idx => Sys2Proof.Machine.execTierPageIn die idx s
  | .tierPageOut die idx => Sys2Proof.Machine.execTierPageOut die idx s
  | .cellarMove die idx => Sys2Proof.Machine.execCellarMove die idx s
  | .zeroFrame die idx => Sys2Proof.Machine.execZeroFrame die idx s
  | .tierCommandDone die idx => Sys2Proof.Machine.execTierCommandDone die idx s
  | .contextFault ctx stack baseDie pa => Sys2Proof.Machine.execContextFault ctx stack baseDie pa s
  | .discardComplete ctx => Sys2Proof.Machine.execDiscardComplete ctx s
  | .registerWrite cr v => Sys2Proof.Machine.execRegisterWrite cr v s
  | .srseedWrite v => Sys2Proof.Machine.execSrseedWrite v s
  | .fflagsWrite v => Sys2Proof.Machine.execFflagsWrite v s
  | .ctxcmdOpen ctx => Sys2Proof.Machine.execCtxcmdOpen ctx s
  | .ctxcmdClose ctx => Sys2Proof.Machine.execCtxcmdClose ctx s
  | .ctxcmdReopen ctx => Sys2Proof.Machine.execCtxcmdReopen ctx s
  | .lpbaseWrite v => Sys2Proof.Machine.execLpbaseWrite v s
  | .lplimitWrite die v => Sys2Proof.Machine.execLplimitWrite die v s
  | .kcinv v => Sys2Proof.Machine.execKcinv v s
  | .clkmodeWrite v => Sys2Proof.Machine.execClkmodeWrite v s
  | .pgwake v => Sys2Proof.Machine.execPgwake v s
  | .xe0Pin ctx e => Sys2Proof.Machine.execXe0Pin ctx e s
  | .xe0Unpin ctx e => Sys2Proof.Machine.execXe0Unpin ctx e s
  | .xe0Evict ctx e => Sys2Proof.Machine.execXe0Evict ctx e s
  | .xe3Stage v => Sys2Proof.Machine.execXe3Stage v s
  | .sltWrite cr v => Sys2Proof.Machine.execSltWrite cr v s
  | .sltTurnApply stack chan => Sys2Proof.Machine.execSltTurnApply stack chan s
  | .bdctlRestart v => Sys2Proof.Machine.execBdctlRestart v s
  | .errlogClear v => Sys2Proof.Machine.execErrlogClear v s
  | .dbghalt v => Sys2Proof.Machine.execDbghalt v s
  | .mboxNop host => Sys2Proof.Machine.execMboxNop host s
  | .mboxReadDebug host => Sys2Proof.Machine.execMboxReadDebug host s
  | .mboxWriteDebug host => Sys2Proof.Machine.execMboxWriteDebug host s
  | .mboxReadMonitor host => Sys2Proof.Machine.execMboxReadMonitor host s
  | .mboxWriteMonitor host => Sys2Proof.Machine.execMboxWriteMonitor host s
  | .mboxReadStage host => Sys2Proof.Machine.execMboxReadStage host s
  | .heartbeat die pointer => Sys2Proof.Machine.execHeartbeat die pointer s
  | .refresh die => Sys2Proof.Machine.execRefresh die s
  | .fallbackTakeover die => Sys2Proof.Machine.execFallbackTakeover die s
  | .refreshHandback die => Sys2Proof.Machine.execRefreshHandback die s
  | .subarrayClose die bank latch => Sys2Proof.Machine.execSubarrayClose die bank latch s
  | .activationAlert die bank row query => Sys2Proof.Machine.execActivationAlert die bank row query s
  | .throttleEnd die bank => Sys2Proof.Machine.execThrottleEnd die bank s
  | .scrub die block => Sys2Proof.Machine.execScrub die block s
  | .clockLower => Sys2Proof.Machine.execClockLower s
  | .clockRaise => Sys2Proof.Machine.execClockRaise s
  | .heatBreak => Sys2Proof.Machine.execHeatBreak s
  | .thermalTrip => Sys2Proof.Machine.execThermalTrip s
  | .boot => Sys2Proof.Machine.execBoot s
  | .flitReceive port f => Sys2Proof.Machine.execFlitReceive port f s
  | .linkDown port => Sys2Proof.Machine.execLinkDown port s
  | .tierLinkLoss port => Sys2Proof.Machine.execTierLinkLoss port s
  | .hostMemAccess pa data => Sys2Proof.Machine.execHostMemAccess pa data s
  | .getVersion req => Sys2Proof.Machine.execGetVersion req s
  | .getCapabilities req => Sys2Proof.Machine.execGetCapabilities req s
  | .negotiateAlgorithms req => Sys2Proof.Machine.execNegotiateAlgorithms req s
  | .getDigests req => Sys2Proof.Machine.execGetDigests req s
  | .getCertificate req => Sys2Proof.Machine.execGetCertificate req s
  | .challenge req => Sys2Proof.Machine.execChallenge req s
  | .getMeasurements req => Sys2Proof.Machine.execGetMeasurements req s
  | .illegalInstruction => Sys2Proof.Machine.execIllegalInstruction s
  | .instructionFetchFault cause addr => Sys2Proof.Machine.execInstructionFetchFault cause addr s
  | .kernelKillComplete ctx kid => Sys2Proof.Machine.execKernelKillComplete ctx kid s
  | .fqctlWrite cr v => Sys2Proof.Machine.execFqctlWrite cr v s

end Sys2Proof.Machine
end

