-- ==== Sys2Proof/Machine/Turn.lean ====
section
/-! DEFINITION. One turn: fetching and running the next word of a stream, debug stops before it, the turns that are possible, and what
passes between two turns (R74, R116, R264, R290, R305, R307, R310, R311, R351 to R353, R368). -/
namespace Sys2Proof.Machine

/-! ### Scalar streams -/

/-- The next scalar word of a party: a fetch cause, none for a word that is no instruction, or the instruction (R94, R116). -/
def State.fetchScalar (s : State) (p : Party) (pc : Word) : Except Nat (Option Instr) :=
  match s.fetchBytes (s.who p) pc.toNat 4 with
  | .error c => .error c
  | .ok bs =>
    match decodeScalar (BitVec.ofNat 32 (leNat bs)) with
    | .ok i => .ok (some i)
    | .error _ => .ok none

/-- A fetch that fails: an engine asks the pager for a page that is not present and waits (R282, R333), any other party traps. -/
def State.fetchFailed (s : State) (n pc : Nat) : Out :=
  if s.cur.isEngine && n == 4 && pc < 2 ^ 57 then .next (s.pageAsk (s.who s.cur) pc (accessField 5 0 0 false)) else execInstructionFetchFault n pc s

/-- The party on turn fetches and performs its next scalar word; a forked program waits for a page that it has asked for (R333). -/
def State.runScalar (s : State) : Out :=
  match s.scalar s.cur with
  | none => .next s
  | some c =>
    if s.engineAwaits s.cur c.pc.toNat 4 then .next s else
    match s.fetchScalar s.cur c.pc with
    | .error n => s.fetchFailed n c.pc.toNat
    | .ok none => execIllegalInstruction s
    | .ok (some i) => exec i s

/-- The enabled breakpoint that names one of the words of a context (R353). -/
def State.breakAt (s : State) (ctx : Nat) (vec : Bool) (pcs : List Nat) : Option Nat :=
  if s.dbg.sel != ctx then none else
  (upFrom 0 4).find? fun j =>
    let b := s.dbg.bp.getD j 0
    b.getLsbD 0 && b.getLsbD 1 == vec && pcs.contains (b.field 56 2 * 4)

/-- What stops a hart before a word (R353, R356): a divergence; else the later of a stop that is due and a breakpoint that matches now, which was
earlier if it has matched before. -/
def State.stopSource (s : State) (slot : Nat) (h : Hart) (vec : Bool) (pcs : List Nat) : Option Nat :=
  match tblFind slot s.dbg.stops, s.breakAt h.ctx vec pcs with
  | none, b => b
  | some (4, false), some n => some n
  | some (src, _), _ => some src

/-- A scalar word's breakpoint has matched while a convoy is in issue: the hart stops once that has drained (R353). -/
def State.stopLater (s : State) (slot n : Nat) : State :=
  let due := (tblFind slot s.dbg.stops).any fun x => x.2
  if due then s else { s with dbg := { s.dbg with stops := tblPut slot (n, true) s.dbg.stops } }

/-- The scalar stream of a vector hart: the second piece of an access, its debug stop, which waits for the end of a convoy, its due digest, or its
next word. -/
def State.hartTurn (s : State) (slot : Nat) (h : Hart) : Out :=
  if h.state != .running then .next s
  else if h.half.isSome then s.finishHalf slot
  else
    match s.stopSource slot h false [h.sc.pc.toNat] with
    | some n => if h.inConvoy then .next ((s.stopLater slot n).markWaiting (.vec slot)) else s.debugStop slot n
    | none => if h.digestDue then execIntervalDigest slot s else s.runScalar

/-- The scalar stream of a forked program: its debug stop is a kernel fault (R186, R226, R353). -/
def State.engineTurn (s : State) (p : Party) (ctx : Nat) (c : Scalar) : Out :=
  match s.breakAt ctx false [c.pc.toNat] with
  | some n => { s with dbg := { s.dbg with src := n } }.trapEngine p { cause := 0x0F } c.pc
  | none => s.runScalar

/-- The scalar stream of a stream controller core: a fetch in the area is the word at position LPPOS, fetched only once LPLIMIT > LPPOS, and a
word already fetched stays fetched (R305). -/
def State.coreTurn (s : State) (d : Nat) : Out :=
  let x := s.die d
  if !x.running then .next s
  else if !x.inArea x.core.pc.toNat then s.runScalar
  else if !x.fetched && x.lpLimit.toNat ≤ x.lpPos.toNat then .next s
  else (s.setDie d { x with core := { x.core with pc := BitVec.ofNat 64 x.areaAddr } }).runScalar

/-- A turn of the scalar stream of the party on turn. -/
def State.scalarTurn (s : State) : Out :=
  match s.cur with
  | .vec slot => match s.hart slot with
    | some h => s.hartTurn slot h
    | none => .next s
  | .mcc c => match (s.cluster c).mcc with
    | some m => if m.begun then s.engineTurn (.mcc c) m.ctx m.sc else .next s
    | none => .next s
  | .seq c => match (s.cluster c).seq with
    | some q => if q.begun then s.engineTurn (.seq c) q.ctx q.sc else .next s
    | none => .next s
  | .scc d => s.coreTurn d

/-! ### The vector stream -/

/-- Perform one decoded vector word at the front of the hart on turn. -/
def runVWord (w : VWord) (s : State) : Out :=
  match w with
  | .core i => exec i s
  | .qfsum f => execQfsum f s
  | .qmaxi f => execQmaxi f s
  | .qtopk f => execQtopk f s
  | .qhist f => execQhist f s

/-- The front of a hart's vector stream: a fetch fault, an illegal word, a word that is a convoy of its own, or a convoy of several
(R73, R94, R116). part: the fronts for which the turn goes on at most (log 10). -/
def State.runVector (s : State) (slot : Nat) (h : Hart) (b : Block) (part : Option Nat) : Out :=
  match s.fetchVWord (h.who slot) b.pc.toNat with
  | .error n => execInstructionFetchFault n b.pc.toNat s
  | .ok none => execIllegalInstruction s
  | .ok (some w) => match part with
    | some n => if w.isStop then runVWord w s else s.convoyPart slot n
    | none => if 1 < (s.nextConvoy slot h b).length then execConvoyIssue slot s else runVWord w s

/-- A turn of the vector stream of the hart on turn: at a boundary between convoys a debug stop, a producer that is restarted, or its
front (R71, R353). -/
def State.vectorTurn (s : State) (slot : Nat) (part : Option Nat) : Out :=
  match s.hart slot with
  | none => .next s
  | some h =>
    if h.state != .running then .next s
    else if h.inConvoy then (match h.blocks with
      | b :: _ => s.runVector slot h b part
      | [] => .next s)
    else
      let pcs := match h.blocks with
        | b :: _ => if h.restartNext.isSome || h.grant = 0 then [] else (s.nextConvoy slot h b).map fun m => m.1.toNat
        | [] => []
      match s.stopSource slot h true pcs with
      | some n => s.debugStop slot n
      | none =>
        if h.restartNext.isSome then execConvoyIssue slot s else
        match h.blocks with
        | b :: _ => s.runVector slot h b part
        | [] => .next s

/-! ### Turns -/

/-- An event that the surroundings of the machine or its untimed parts may bring: no word encodes it, and it is not one of the three
steps that only a fetch causes. -/
def mayOccur (i : Instr) : Bool :=
  match i with
  | .illegalInstruction | .instructionFetchFault .. | .convoyIssue .. => false
  | i => (encode i).isNone

/-- One turn. -/
def State.run (s : State) (t : Turn) : Out :=
  match t with
  | .scalar p => { s with cur := p }.scalarTurn
  | .vector slot => { s with cur := .vec slot }.vectorTurn slot none
  | .event p i => if mayOccur i then exec i { s with cur := p } else .next s
  | .bar off data => s.barAccess off data

/-- A turn's outcome with something done to its next state. -/
def andThen (f : State → State) (o : Out) : Out :=
  match o with
  | .next t => .next (f t)
  | x => x

/-- A scalar turn of a party. -/
def takeScalar (p : Party) (s : State) : Out := s.run (.scalar p)

/-- A vector turn of a slot: as far as a free number of fronts takes it, or to the end of its convoy (log 10). -/
def takeVector (slot : Nat) (s : State) : Out :=
  let n := Config.choice s.steps
  { s with cur := .vec slot }.vectorTurn slot (if n % 2 = 0 then none else some (n / 2 % 1024 + 1))

/-- A scalar access or a creloc of a hart begun in pieces (R111, R204, R234): the first piece of an access, or some pieces of a creloc. -/
def takePiece (slot : Nat) (s : State) : Out :=
  match s.hart slot with
  | some h =>
    if h.half.isSome || (s.stopSource slot h false [h.sc.pc.toNat]).isSome then .next s else
    (match s.fetchScalar (.vec slot) h.sc.pc with
      | .ok (some (.creloc a b)) => .next (s.relocPart slot a b (Config.choice s.steps))
      | .ok (some i) => .next ((s.beginHalf slot i).getD s)
      | _ => .next s)
  | none => .next s

/-- The key of the round-robin order of a cluster, a stream (0 scalar, 1 vector) and a priority (R74). -/
def rrKey (c kind prio : Nat) : Nat := (2 * c + kind) * 8 + prio

/-- The slot of a list, in rising order, that is next in round-robin order (R74). -/
def State.rrNext (s : State) (key : Nat) (slots : List Nat) : Option Nat :=
  match tblFind key s.rr with
  | some last => match slots.find? fun i => last < i with
    | some i => some i
    | none => slots.head?
  | none => slots.head?

/-- The turns of a cluster's harts that take part in the round-robin of a stream: the next of each priority (R74, R310). A scalar turn performs its word, or
the first piece of it. -/
def State.rrTurns (s : State) (c kind : Nat) (hs : List (Nat × Hart)) : List (State → Out) :=
  (upFrom 0 7).flatMap fun p =>
    let key := rrKey c kind p
    match s.rrNext key ((hs.filter fun e => s.issuePrio e.2 == p).map (·.1)) with
    | none => []
    | some i => (if kind = 0 then [takeScalar (.vec i), takePiece i] else [takeVector i]).map fun f t => f { t with rr := tblPut key i t.rr }

/-- A hart that waits looks whether it can go on. It takes no issue turn before its place in the rotation comes (R74): when it could go on, it only stops
waiting; what an attempt that goes on waiting does (a page asked for, an arrival) stands. -/
def retryScalar (slot : Nat) (s : State) : Out :=
  match takeScalar (.vec slot) s, s.hart slot with
  | .next t, some h => match t.hart slot with
    | some g => .next (if g.waiting && g.state == .running then t else s.setHart slot { h with waiting := false })
    | none => .next (s.setHart slot { h with waiting := false })
  | o, _ => o

/-- The same for a vector stream. -/
def retryVector (slot : Nat) (s : State) : Out :=
  match takeVector slot s, s.hart slot with
  | .next t, some h => match t.hart slot with
    | some g => .next (if g.vwait && g.state == .running then t else s.setHart slot { h with vwait := false })
    | none => .next (s.setHart slot { h with vwait := false })
  | o, _ => o

/-- A hart has vector work. -/
def Hart.vectorWork (h : Hart) : Bool := !h.blocks.isEmpty || h.restartNext.isSome

/-- A hart that waits no longer, when an attempt would show that it can go on (R74, R264). -/
def State.wake (s : State) (slot : Nat) : State :=
  match s.hart slot with
  | none => s
  | some h =>
    if h.state != .running then s else
    let goes (o : Out) (waits : Hart → Bool) : Bool := match o with
      | .next t => (t.hart slot).all fun g => !waits g || g.state != .running
      | _ => true
    let a := h.waiting && !goes (takeScalar (.vec slot) s) (·.waiting)
    let b := h.vwait && (!h.vectorWork || !goes (takeVector slot s) (·.vwait))
    s.setHart slot { h with waiting := a, vwait := b }

/-- The harts of a cluster as they stand when it regrants: none counts as waiting that can go on (R264, R311). -/
def State.wakeCluster (s : State) (c : Nat) : State :=
  (s.harts.filterMap fun e => if slotCluster e.1 == c && (e.2.waiting || e.2.vwait) then some e.1 else none).foldl (fun t i => t.wake i) s

/-- A cluster's regrant. -/
def State.regrantNow (s : State) (c : Nat) : State := (s.wakeCluster c).regrant c

/-- A save of the context is under way: its parts take no turn (R300). -/
def State.frozen (s : State) (ctx : Nat) : Bool := s.dies.any fun d => d.saving == some ctx && (s.context ctx).state == 1

/-- The turns that a cluster's harts may take: their scalar words, and their vector words once the clock has reached the end of their last convoy (log 8), in
rotation; the looks of those that wait; further pieces of a creloc under way; and the parts that act for them. -/
def State.hartTurns (s : State) : List (State → Out) :=
  let mine := s.harts.filter fun e => !s.frozen e.2.ctx
  let clusters := (mine.map fun e => slotCluster e.1).eraseDups
  (clusters.flatMap fun c =>
    let hs := mine.filter fun e => slotCluster e.1 == c && e.2.state == .running
    let vs := hs.filter fun e => e.2.vectorWork && (e.2.inConvoy || e.2.lead == 0)
    s.rrTurns c 0 (hs.filter fun e => e.2.runnable) ++
    s.rrTurns c 1 (vs.filter fun e => !e.2.vwait) ++
    ((hs.filter fun e => !e.2.runnable).map fun e => retryScalar e.1) ++
    ((vs.filter fun e => e.2.vwait).map fun e => retryVector e.1) ++
    (hs.filter fun e => e.2.reloc != 0).map fun e => takePiece e.1) ++
  (s.harts.flatMap fun e => if e.2.queries.isEmpty then [] else [execQueryReply e.1]) ++
  mine.flatMap fun e =>
    (upFrom 0 8).flatMap fun j => match e.2.q.getD j none with
      | some t => [if t.write then execWriteStreamPerform e.1 j else execReadStreamFetch e.1 j]
      | none => []

/-- The end of an array-pipe operation whose time has come: the next row of an mma, or the operation's completion, and then the next operation
begins (R178), unless the program is being saved (R187). -/
def arrayDue (c : Nat) (s : State) : Out :=
  match (s.cluster c).headOp false with
  | some op =>
    let rows := match op.kind with
      | .mma .. => 127 ≤ op.rows
      | _ => true
    if !rows then execRowFinal c s else
    (match execMatrixOperationComplete c false s with
      | .next t =>
        let held := (t.cluster c).mcc.any fun m => t.frozen m.ctx
        if !held && ((t.cluster c).headOp false).any fun o => !o.started then execMatrixOperationStart c false t else .next t
      | o => o)
  | none => .next s

/-- The time at which the array-pipe operation of a cluster is due next, where the manual states it (R178, R180). -/
def Cluster.nextDue (c : Cluster) : Option Nat :=
  match c.headOp false with
  | some op => if op.started && op.due != 0 then some (op.due + op.rows) else none
  | none => none

/-- The turns of the engines of the clusters. Those of a context that is being saved start nothing (R300). -/
def State.engineTurns (s : State) : List (State → Out) :=
  s.clusters.flatMap fun e =>
    let c := e.1
    let held := e.2.mcc.any fun m => s.frozen m.ctx
    (match e.2.mcc with
      | some m => if held then [] else [if m.begun then takeScalar (.mcc c) else execMatrixProgramStart c]
      | none => []) ++
    (match e.2.seq with
      | some q => if s.frozen q.ctx then [] else [if q.begun then takeScalar (.seq c) else execCopyProgramStart c]
      | none => []) ++
    (match e.2.fillq with
      | op :: _ => if op.started then [execMatrixOperationComplete c true] else if held then [] else [execMatrixOperationStart c true]
      | [] => []) ++
    (match e.2.arrq with
      | op :: _ =>
        if !op.started then (if held then [] else [execMatrixOperationStart c false])
        else if e.2.nextDue.isSome then [] else [execMatrixOperationComplete c false]
      | [] => []) ++
    (if e.2.refetch.isEmpty then [] else [fun t => t.refetchRun c]) ++
    (numbered 0 e.2.copies).flatMap fun k =>
      if s.frozen k.2.ctx then []
      else if !k.2.started then [execCopyStart c k.1]
      else [execCopyComplete c k.1, fun t => t.copyAdvance c k.1] ++ (if Config.refuses s.steps then [execCopyFail c k.1] else [])

/-- The step that performs a tier command's bytes, or ends it (R337). -/
def tierTurn (d idx : Nat) (c : TierCmd) : State → Out :=
  if c.ended.isSome then execTierCommandDone d idx
  else match c.op with
    | 1 => execTierPageIn d idx
    | 2 => execTierPageOut d idx
    | 3 => execCellarMove d idx
    | _ => execZeroFrame d idx

/-- The turns of the stream controller cores and the tier engines. -/
def State.coreTurns (s : State) : List (State → Out) :=
  (upFrom 0 4).flatMap fun d =>
    let x := s.die d
    (if x.running then [takeScalar (.scc d)] else []) ++
    (if x.pendingLaunch.isSome then [execScoreboardAdmit d] else []) ++
    (if x.tfPos.toNat + 64 ≤ x.tfLimit.toNat && x.cmds.length < 64 then [execTierCommandDone d 64] else []) ++
    (numbered 0 x.cmds).map fun k => tierTurn d k.1 k.2

/-- The turns of launch, contexts and experts. -/
def State.launchTurns (s : State) : List (State → Out) :=
  (s.kernels.flatMap fun k => match k.state with
    | .waiting => (numbered 0 k.trans).flatMap fun t =>
      [execInputTransferComplete k.ctx k.kid t.1, fun u => u.transferAdvance k.ctx k.kid t.1 (Config.choice u.steps)]
    | .killing .. => [execKernelKillComplete k.ctx k.kid]
    | _ => []) ++
  (if s.toPlace.isEmpty then [] else [execHartPlacement]) ++
  s.ctxs.flatMap fun e =>
    let c := e.2
    (if c.disc then [execDiscardComplete e.1] else []) ++
    (s.experts.filter fun x => c.expbase ≤ x.1 && x.1 < c.expbase + c.nexp).flatMap fun x =>
      let n := x.1 - c.expbase
      if x.2.state == .fetching then [if x.2.started then execExpertFetchComplete e.1 n else execExpertFetchStart e.1 n]
      else
        let sets := x.2.staged :: (s.hartsOf e.1).map fun h => tblGet 0 n h.sets
        ((sets.flatMap validFields).eraseDups).map fun f => execReplicaFill e.1 n f

/-- The step that serves a mailbox's request (R359). -/
def State.mboxTurn (s : State) (host : Bool) : List (State → Out) :=
  if !s.mboxRung host then [] else
  match s.mboxNat host 8 2 with
  | 1 => [execMboxReadDebug host]
  | 2 => [execMboxWriteDebug host]
  | 3 => [execMboxReadMonitor host]
  | 4 => [execMboxWriteMonitor host]
  | 5 => [execMboxReadStage host]
  | _ => [execMboxNop host]

/-- The turns of the monitor and the memory controllers, whose tables change at a turn and never in locked-clock mode (R314), and of the host at the DOE
mailbox. -/
def State.monitorTurns (s : State) : List (State → Out) :=
  (if s.stage < 5 && !s.fail then [execBoot] else []) ++ s.mboxTurn true ++ s.mboxTurn false ++
  (if s.doe.isSome then [fun t => .next t.doeTaken] else []) ++
  (if s.clkCur then [] else s.sltWaits.map fun w => execSltTurnApply w.stack w.chan)

/-- The turns of the base dies (R347 to R350): once boot stage 3 has started refresh heartbeats and refresh, what follows from missed ones, and scrubbing;
and their alerts. -/
def State.baseTurns (s : State) : List (State → Out) :=
  (if s.stage < 3 then [] else (s.bad.filter fun k => isWorking k || isCellar k).map fun k => execScrub (scrubber k) k) ++
  (upFrom 0 12).flatMap fun d =>
    let b := s.baseDie d
    (if s.stage < 3 then [] else [execHeartbeat d b.pointer, execRefresh d]) ++
    (if b.fb then (if b.restarted && 2 ≤ b.beats then [execRefreshHandback d] else [])
      else if 3 ≤ s.stage && s.beatsMissed b then [execFallbackTakeover d] else []) ++
    b.alerts.map (fun a => execActivationAlert d a.1 a.2.1 a.2.2) ++ b.throttled.map (execThrottleEnd d) ++
    b.opened.map fun x => execSubarrayClose d x.1 x.2.1

/-- Every turn that the machine may take of itself. -/
def State.turns (s : State) : List (State → Out) :=
  s.hartTurns ++ s.engineTurns ++ s.coreTurns ++ s.launchTurns ++ s.monitorTurns ++ s.baseTurns

/-- A turn taken of the machine itself: a free choice among those that are possible (log 4); time passes when there is none. -/
def State.ownTurn (s : State) : Out :=
  let ts := s.turns
  if ts.isEmpty then .next s else nthD .next ts (Config.turnChoice s.steps % ts.length) s

/-- What must come at this very cycle before any turn: a sample that is owed, the clock mode where no hart is placed, the end of an array-pipe operation
with a stated time, the end of a kernel whose budget is reached, or a kernel that nothing keeps waiting any more becoming ready (R178, R290, R308,
R314, R352). -/
def State.forced (s : State) : Option (State → Out) :=
  match s.dbg.smpDue with
  | slot :: rest => some fun t => execDbgSample slot { t with dbg := { t.dbg with smpDue := rest } }
  | [] =>
    if s.clkReq != s.clkCur && s.harts.isEmpty then some execClockModeChange else
    match s.clusters.find? fun e => e.2.nextDue.any (· ≤ s.time) with
    | some e => some (arrayDue e.1)
    | none =>
      match s.kernels.find? fun k => k.state == .running && k.budget != 0 && k.budget ≤ k.count with
      | some k => some (execBudgetExceeded k.ctx k.kid)
      | none => (s.kernels.find? fun k => k.state == .waiting && k.trans.all (·.done) && k.after.isEmpty).map fun k => execKernelReady k.ctx k.kid

/-! ### Between turns -/

/-- A hart was placed, trapped or began to wait in a turn (R311). -/
def hartChanged (old new : State) (e : Nat × Hart) : Bool :=
  match old.hart e.1 with
  | none => true
  | some o => (o.state == .running && e.2.state != .running) || (o.runnable && !e.2.runnable)
where
  /-- A hart of the old state is gone. -/
  retired (e : Nat × Hart) : Bool := (new.hart e.1).isNone

/-- The clusters that regrant after a turn: in locked-clock mode only those where a hart retired (R311, R314). -/
def regrantClusters (old new : State) : List Nat :=
  let gone := (old.harts.filter (hartChanged.retired new)).map fun e => slotCluster e.1
  let changed := if new.clkCur then [] else (new.harts.filter (hartChanged old new)).map fun e => slotCluster e.1
  (gone ++ changed).eraseDups

/-- A kernel has a placed hart. -/
def State.placedIn (s : State) (k : Kernel) : Bool := s.harts.any fun e => e.2.ofKernel k.ctx k.kid

/-- Cycles until a moment at which the manual makes something happen: a regrant, a sample, a budget, a matrix operation's end (R178, R290, R311, R352). -/
def State.horizon (s : State) : Nat :=
  let a := 1024 - s.time % 1024
  let b := if s.dbg.smpPer = 0 then a else min a (2 ^ s.dbg.smpPer - s.time % 2 ^ s.dbg.smpPer)
  let c := s.kernels.foldl (fun n k => if k.budget != 0 && k.count < k.budget && s.placedIn k then min n (k.budget - k.count) else n) b
  s.clusters.foldl (fun n e => match e.2.nextDue with
    | some t => min n (t - s.time)
    | none => n) c

/-- d of the cycles of a closed part of a convoy's time pass: what they add to classes 0 to 3, and what is left of it, if anything (R64). Its cycles are
alike, since each class holds a whole number of slots of each. -/
def Spent.pass (x : Spent) (d : Nat) : List Nat × Option Spent :=
  let part (n : Nat) : Nat := n / x.cycles * d
  ([part x.useful, part x.masked, part x.beyond, part x.startup],
    if d = x.cycles then none else some { x with cycles := x.cycles - d, useful := x.useful - part x.useful, masked := x.masked - part x.masked,
                                                  beyond := x.beyond - part x.beyond, startup := x.startup - part x.startup, idle := x.idle - part x.idle })

/-- n cycles pass on the parts of a convoy's time, in order: the closed ones are passed, those that elements still join stay. What that adds to classes 0
to 3, and what is left (R264). -/
def passDue : Nat → List Spent → List Nat × List Spent
  | _, [] => ([0, 0, 0, 0], [])
  | n, x :: t =>
    if x.filling || n = 0 then
      let (c, r) := passDue n t
      (c, x :: r)
    else
      let d := min n x.cycles
      let (a, left) := x.pass d
      let (c, r) := passDue (n - d) t
      (List.zipWith (· + ·) a c, left.toList ++ r)

/-- n cycles pass on a placed hart: its clock goes through the time of its convoy, and every other slot of its grant is stalled (R63, R64, R264;
log 8). -/
def Hart.pass (h : Hart) (n : Nat) : Hart :=
  let (c, due) := passDue n h.due
  { h with due := due, timed := if due.isEmpty then none else h.timed, cycle := h.cycle + BitVec.ofNat 64 n,
           lanecyc := Vector.ofFn fun j => h.lanecyc.getD j.val 0 + BitVec.ofNat 64 (nthD (h.grant * n - c.sum) c j.val) }

/-- n cycles pass on a kernel that has a placed hart: its budget count, and the parts of it that were stalls (R290, R307). -/
def State.passKernel (s : State) (n : Nat) (k : Kernel) : Kernel :=
  if !s.placedIn k then k else
  let name := s.steps * 2 ^ 22 + k.ctx * 2 ^ 16 + k.kid
  { k with count := k.count + n, refresh := k.refresh + Config.refreshCycles name % (n + 1),
           retry := k.retry + Config.retryCycles name % (n + 1) }

/-- n cycles pass on the clusters that hold harts: their granted lane-cycles (R351). -/
def State.passClusters (s : State) (n : Nat) : Tbl Cluster :=
  (s.harts.map fun e => slotCluster e.1).eraseDups.foldl (fun t c =>
    let cl := tblGet Cluster.reset c t
    tblPut c { cl with granted := cl.granted + BitVec.ofNat 64 (s.lanesUsed c * n) } t) s.clusters

/-- n cycles pass, at the clock's present length (R16; log 8). -/
def State.pass (s : State) (n : Nat) : State :=
  { s with time := s.time + n, wall := s.wall + n * (232792560 / (s.clkMHz / 100)), harts := s.harts.map fun e => (e.1, e.2.pass n), kernels := s.kernels.map (s.passKernel n),
           clusters := s.passClusters n }

/-- The samples owed at this cycle (R352). -/
def State.oweSamples (s : State) : State :=
  let due := s.dbg.smpPer != 0 && s.time % 2 ^ s.dbg.smpPer == 0
  { s with dbg := { s.dbg with smpDue :=
      if due then s.dbg.smpDue ++ (s.harts.filter fun e => e.2.ctx == s.dbg.sel).map (·.1) else s.dbg.smpDue } }

/-- The regrant of every 1,024 cycles (R311). -/
def State.periodicGrants (s : State) : State :=
  if s.time % 1024 == 0 && !s.clkCur then (s.harts.map fun e => slotCluster e.1).eraseDups.foldl (fun t c => t.regrantNow c) s else s

/-- The decided grants that can take effect now do (R61). -/
def State.takeGrants (s : State) : State :=
  ((s.harts.filter fun e => e.2.nextGrant.isSome).map fun e => slotCluster e.1).eraseDups.foldl (fun t c => t.applyGrants c) s

/-- A context has state on a cluster. -/
def State.onPart (s : State) (ctx c : Nat) : Bool :=
  let p := (s.cluster c).ofContext ctx
  s.onCluster ctx c || !p.allocs.isEmpty || p.mcc.isSome || p.seq.isSome || !p.acc.isEmpty || !p.larder.isEmpty || !p.copies.isEmpty ||
    s.regions.any fun r => r.ctx == ctx && r.scratch && r.home == c

/-- A context has state in a die's stream controller: a kernel of the die, or a plane store region of it. -/
def State.onDie (s : State) (ctx d : Nat) : Bool :=
  (s.kernels.any fun k => k.ctx == ctx && k.die == d) || s.regions.any fun r => r.ctx == ctx && !r.scratch && r.home == d

/-- A context has state in a Cellar stack's base die: a query in flight on a page of the stack. -/
def State.onStack (s : State) (ctx n : Nat) : Bool :=
  s.harts.any fun e => e.2.ctx == ctx && e.2.pins.any fun p => p.query && entryField p.entry 51 12 / 2 ^ 25 % 8 == n

/-- A parity error ends every context with state on the part that it is in, with a context fault that names where (R350). -/
def State.parityEnds (s : State) (place : Nat) (on : Nat → Bool) : State :=
  (s.ctxs.filter fun e => e.2.state == 1 && on e.1).foldl (fun t e => t.endContext e.1 place 9) s

/-- An error or an activation that the surroundings bring (R207, R349, R350; log 55). -/
def State.suffer (s : State) : Config.Event → State
  | .corrected true n =>
    if 12 ≤ n then s else s.setBaseDie n { s.baseDie n with cecnt := min ((s.baseDie n).cecnt + 1) (2 ^ 32 - 1) }
  | .corrected false n => s.setDie n { s.die n with diece := (s.die n).diece + 1 }
  | .uncorrectable k => if s.bad.contains (k / 64 * 64) then s else { s with bad := s.bad ++ [k / 64 * 64] }
  | .parity c => s.parityEnds (clusterDie c) fun ctx => s.onPart ctx c
  | .parityDie d => s.parityEnds d fun ctx => s.onDie ctx d
  | .parityStack n => s.parityEnds n fun ctx => s.onStack ctx n
  | .link n fails =>
    let others := s.stackDown.filter (· != n)
    { s with stackDown := if fails = true then others ++ [n] else others }
  | .activated n bank row => if 12 ≤ n then s else s.setBaseDie n ((s.baseDie n).activate bank (row % 2 ^ 20) false)

/-- The time of a turn passes: a free number of cycles, no further than the next moment at which something must happen (R368; log 8). With the cycle
end the kernels that its traps doomed (R303). -/
def State.elapse (s : State) : State :=
  let n := min (Config.stepCycles s.steps) s.horizon
  let t := if n = 0 then s else (({ s.killDoomed with recent := [] } : State).pass n).oweSamples.periodicGrants.aging
  let u := match Config.event s.steps with
    | some e => t.suffer e
    | none => t
  { u.takeGrants with steps := s.steps + 1 }

/-- What follows a turn that was taken in an old state: the regrants it causes, and its time. -/
def State.settleTurn (old new : State) : State := ((regrantClusters old new).foldl (fun t c => t.regrantNow c) new).elapse

end Sys2Proof.Machine
end

