-- ==== Sys2Proof/Machine/Load.lean ====
section
/-! DEFINITION. A word placed as the next instruction of a loaded program (log 5): which party runs it, and all that its fetch needs. -/
namespace Sys2Proof.Machine

/-- The party that runs a word (R83): a matrix control core for major 0x1B, a stream controller core for the supervisor functions of major
0x1C, a vector hart for every other word. The flag says that the word stands in a vector block. -/
def wordParty (nbits w : Nat) : Party × Bool :=
  if 32 < nbits then (.vec 0, true) else
  let major := w / 2 ^ 26 % 64
  let fn := w % 2 ^ 11
  if major = 0x1B then (.mcc 0, false)
  else if major = 0x1C && fn != 0 && fn != 5 && fn != 6 then (.scc 0, false)
  else (.vec 0, false)

/-- The virtual page, and the working frame of the same number, that hold the word. -/
def loadPage : Nat := 0x10000

/-- A 4 KiB working page with r, w and x at that frame (R323, R324). -/
def loadEntry : Word := 0xC000000000010E00

/-- The kernel of one hart that the word belongs to. -/
def loadKernel : Kernel :=
  { ctx := 0, kid := 0, die := 0, state := .running, image := loadPage, args := 0, n := 1, prio := 0, budget := 0, after := [], done := 0,
    trans := [], nregs := 8, lanes := 64, scratch := 0, elastic := false, entry := 0, text := [], placed := 1, nextHart := 1,
    count := 0, refresh := 0, retry := 0, broken := false, readyAt := 0, aged := 0, order := 0,
    launched := 0, doomed := none }

/-- The hart of that kernel, placed and granted its lanes; with block, the word is the next of its vector stream. -/
def loadHart (now wall : Nat) (block : Bool) : Hart :=
  let h := { Hart.launch 0 0 0 8 64 (BitVec.ofNat 64 loadPage) 0 0 now wall with grant := 64 }
  if block then { h with blocks := [⟨0, BitVec.ofNat 64 loadPage, 0, false, false, 0, [], 0, [], [], [], [], [], false, h.blockEnv h.sc⟩], blockSeq := 1 } else h

/-- The matrix program whose next word it is, forked by slot 0 with every accumulator claimed. -/
def loadMcc (now : Nat) : Mcc := ⟨0, 0, 0, Scalar.launch (BitVec.ofNat 64 loadPage), true, 0, 15, 0, 32, now, 0⟩

/-- The state with a party's next word in memory at the load page, nothing due before it, and the agenda giving the party the next
turn. A stream controller core runs it outside its launch area (log 5). -/
def State.loadWord (s : State) (p : Party × Bool) (bytes : List Byte) : State :=
  let c := s.context 0
  let x := s.die 0
  let s1 : State := { s with
    mem := Memory.writes s.mem loadPage bytes,
    tlb := ⟨0, loadPage, 12, loadEntry⟩ :: s.tlb,
    ctxs := tblPut 0 { c with state := 1 } s.ctxs,
    clusters := s.clusters.map fun e => (e.1, { e.2 with arrq := e.2.arrq.map fun o => { o with due := 0 } }),
    dbg := { s.dbg with bp := Vector.replicate 4 0, stops := [], smpDue := [] },
    agenda := (if p.2 then .vector 0 else .scalar p.1) :: s.agenda }
  match p.1 with
  | .scc d =>
    { s1 with stage := 5, dies := s1.dies.setIfInBounds d { x with running := true, core := { x.core with pc := BitVec.ofNat 64 loadPage } } }
  | q =>
    let s2 : State := { s1 with harts := tblPut 0 (loadHart s.time s.wall p.2) s.harts, kernels := [loadKernel] }
    match q with
    | .mcc k => { s2 with clusters := tblPut k { s2.cluster k with mcc := some (loadMcc s.time), chain := setClaims (s2.cluster k).chain 15 } s2.clusters }
    | _ => s2

end Sys2Proof.Machine
end

