-- ==== Sys2Proof/Machine/Step.lean ====
section
/-! DEFINITION. The machine's step, and an instruction placed where the next step fetches it. -/
namespace Sys2Proof.Machine

/-- One step: what is due at this cycle, else the next turn of the agenda, else a turn of the machine itself; then the time of the
turn passes. -/
def step (s : State) : Host.Outcome State Fault Refusal :=
  match s.forced with
  | some f => andThen (fun t => { t with steps := t.steps + 1 }) (f s)
  | none =>
    match s.agenda with
    | t :: rest => andThen s.settleTurn ({ s with agenda := rest }.run t)
    | [] => andThen s.settleTurn s.ownTurn

/-- s with an instruction placed where the next step fetches it, as a loaded program's next word (log 5). -/
def State.withFetchWord (s : State) (nbits w : Nat) : State := s.loadWord (wordParty nbits w) (leBytes 8 (w % 2 ^ min nbits 64))

end Sys2Proof.Machine
end

