-- ==== Sys2Proof/Safety.lean ====
section
/-! DEFINITION. What counts as a safe run, and the terms in which claims about the machine are stated: a word that may be performed,
what performing one leaves, an access that reaches memory, a hart that stands at a vector word. -/
namespace Sys2Proof.Machine

/-! ### Safe runs -/

/-- The invariant of every step: memory is in its canonical form, so equal memories are equal lists. -/
def State.Inv (s : State) : Prop := Memory.wf s.mem = true

/-- A step goes on: it ends in a next state, not in a fault or a refusal. -/
def State.GoesOn (s : State) : Prop := ∃ t, step s = .next t

/-! ### Scalar words -/

/-- The party on turn has scalar side c, its kind executes the word (R83), and the registers ds that the word writes and srcs that it reads are
ready (R65, R87). -/
structure State.Issues (s : State) (c : Scalar) (u : Unit83) (ds srcs : List Reg) : Prop where
  side   : s.scalar s.cur = some c
  kind   : unitCause s.cur u = none
  writes : ∀ r ∈ ds, (Ctx.mk s s.cur c).regBusy r = false
  reads  : ∀ r ∈ srcs, (Ctx.mk s s.cur c).readBusy r = false

/-- The state after the party on turn performed the scalar word at c.pc, which left it the scalar side c' and changed nothing else. -/
def State.performed (s : State) (c c' : Scalar) : State := (Ctx.mk s s.cur c').finish c.pc

/-- The scalar side after a word that writes d and falls through. -/
def Scalar.wrote (c : Scalar) (d : Reg) (v : Word) : Scalar := (c.set d v).advance

/-- A control transfer of the party on turn may go to a target (R305): on a stream controller core a target in its launch program area is
the word at position LPPOS, which a transfer that stands in the area has advanced. -/
def State.mayJump (s : State) (c : Scalar) (target : Word) : Bool :=
  match s.cur with
  | .scc d =>
    let x := s.die d
    let pos : Word := if x.inArea c.pc.toNat then x.lpPos + 4 else x.lpPos
    !x.inArea target.toNat || target.toNat == x.lpVa + pos.toNat % 2 ^ x.lpLg
  | _ => true

/-- The hart on turn. -/
structure State.OnHart (s : State) (slot : Nat) (h : Hart) : Prop where
  turn : s.cur = .vec slot
  here : s.hart slot = some h

/-- A hart with its accounting fields those of another: what performing a scalar word changes beside the word's effect. -/
def Hart.accountsOf (h g : Hart) : Hart :=
  { h with sc := g.sc, words := g.words, digestDue := g.digestDue, lastIssue := g.lastIssue, aged := g.aged, waiting := g.waiting, vwait := g.vwait }

/-! ### Traps -/

/-- The context delegates a cause to the runtime and its fault queue takes a record, so a hart that traps with it is held (R282,
R284, R285). -/
def State.holdsOn' (s : State) (ctx cause : Nat) : Bool :=
  s.faultRoom ctx && cause != 0x11 && (s.context ctx).tdeleg.getLsbD cause

/-- What a scalar access of the party on turn comes to that meets a trap with cause, address and access field, before any of it is performed: a forked
program asks the pager for a page that is not present and waits (R333), and every other trap is taken (R282). -/
def State.accessTraps (s : State) (c : Scalar) (cause addr access : Nat) : Out :=
  if s.cur.isEngine = true ∧ cause = 4 ∧ addr < 2 ^ 57 then .next (s.pageAsk (s.who s.cur) addr access)
  else s.takeTrap s.cur { cause := cause, addr := addr, access := access } c.pc c.pc

/-! ### Steps -/

/-- The party on turn may fetch its next scalar word: a hart runs, stands between no pieces of an access, owes no digest and stands at no debug
stop; a program has begun, stands at no breakpoint and waits for no page; a core runs, and in its area stands at the word at position LPPOS, which is published or
fetched already (R168, R226, R305, R333, R353, R355). -/
def State.scalarReady (s : State) : Prop :=
  match s.cur with
  | .vec slot => ∃ h, s.hart slot = some h ∧ h.state = .running ∧ h.half = none ∧ h.digestDue = false ∧
      s.stopSource slot h false [h.sc.pc.toNat] = none
  | .mcc c => ∃ m, (s.cluster c).mcc = some m ∧ m.begun = true ∧ s.breakAt m.ctx false [m.sc.pc.toNat] = none ∧
      s.engineAwaits (.mcc c) m.sc.pc.toNat 4 = false
  | .seq c => ∃ q, (s.cluster c).seq = some q ∧ q.begun = true ∧ s.breakAt q.ctx false [q.sc.pc.toNat] = none ∧
      s.engineAwaits (.seq c) q.sc.pc.toNat 4 = false
  | .scc d => d < 4 ∧ (s.die d).running = true ∧ ((s.die d).inArea (s.die d).core.pc.toNat = true →
      (s.die d).core.pc = BitVec.ofNat 64 (s.die d).areaAddr ∧
      ((s.die d).fetched = true ∨ (s.die d).lpPos.toNat < (s.die d).lpLimit.toNat))

/-- The fault queue of a context is off, or its header and its next record name memory (R285). -/
def State.queueStands (s : State) (ctx : Nat) : Prop :=
  let q := (s.context ctx).fq
  q.en = false ∨ (physOk q.pa 64 = true ∧ physOk (q.pa + 64 + 64 * (s.peekNat q.pa 8 % 2 ^ q.lg)) 64 = true)

/-- A kernel's end is decided: it is being killed with a completion state and a cause, and its harts have stopped (R287). -/
def State.killed (s : State) (ctx kid final cause : Nat) : Prop :=
  (∃ k, s.kernel ctx kid = some k ∧ k.state = .killing final cause) ∧ ∀ n g, s.hart n = some g → g.ofKernel ctx kid = true → g.state = .stopped

/-- The cycle ends a kernel with a cause: a trap of this cycle is a kernel fault in it (R282, R285, R303). -/
def State.doomedBy (s : State) (ctx kid cause : Nat) : Prop := ∃ k, s.kernel ctx kid = some k ∧ k.doomed = some cause

/-! ### Scalar accesses (R111) -/

/-- A scalar access of n bytes need not wait: no vector word of the hart on turn that it must follow is unfinished (R112, R225, R233), and no page of it is one
that a forked program has asked for (R333). -/
def State.mayAccess (s : State) (c : Scalar) (store : Bool) (cls va n : Nat) : Prop :=
  (Ctx.mk s s.cur c).memBusy store cls va n = false ∧ s.engineAwaits s.cur va n = false

/-- The places of the pieces of an access, one a piece, as a use translates them. -/
def State.translated (s : State) (w : Who) (u : Use) : List (Nat × Nat) → List (Place × Nat) → Prop
  | [], [] => True
  | (va, n) :: xs, (p, m) :: ys => s.xlate w u va = .ok p ∧ m = n ∧ s.translated w u xs ys
  | _, _ => False

/-- An access of n bytes at an address reaches the places pl, one a piece: no address bit 63:57 is set, every piece translates for its
use, and the access is not one of two pieces to a host or peer page. -/
structure State.Reaches (s : State) (w : Who) (u : Use) (va n : Nat) (pl : List (Place × Nat)) : Prop where
  range : va < 2 ^ 57
  each  : s.translated w u (pieces va n) pl
  whole : twoPieceOutside pl = false

/-- The bytes at the places of an access, in ascending address. -/
def State.bytesAt (s : State) (pl : List (Place × Nat)) : List Byte := pl.flatMap fun p => Memory.reads s.mem p.1.key p.2

/-- The state that keeps the translations of an access and counts its requests for the party on turn (R149, R327). -/
def State.accessed (s : State) (w : Who) (va n : Nat) (pl : List (Place × Nat)) : State :=
  (s.touchAll w.ctx (pieces va n)).countFor s.cur (countReqs w.die (pl.map (·.1)))

/-- The keys that the places of an access cover. -/
def coversKey (pl : List (Place × Nat)) (k : Nat) : Bool := pl.any fun p => p.1.key ≤ k && k < p.1.key + p.2

/-! ### Vector words -/

/-- No matrix program that a hart of a slot forked waits to begin behind a block (R168). -/
def State.forksBegun (s : State) (slot seq : Nat) : Prop :=
  ∀ m, (s.cluster (slotCluster slot)).mcc = some m → m.slot = slot → m.begun = true ∨ m.after ≤ seq

/-- A hart stands at the vector word at the front of its first block, may issue it as a convoy of its own, and traces nothing; no program that
it forked waits behind the block, no register of it is in error (R350), and no claim of it is held (R211). -/
structure State.AtWord (s : State) (slot : Nat) (h : Hart) (b : Block) (rest : List Block) : Prop where
  turn   : s.cur = .vec slot
  here   : s.hart slot = some h
  block  : h.blocks = b :: rest
  fresh  : b.issued = false ∧ b.parts = []
  lanes  : h.grant ≠ 0
  silent : s.dbg.smpTrace = false
  begun  : s.forksBegun slot b.seq
  sound  : ∀ r e, s.badIn (vregKey slot (elemKey r e)) 4 = none
  unheld : ∀ r ∈ s.regions, ∀ x ∈ r.held, x.1 ≠ slot

/-- The place of a word that is a convoy of its own. -/
def Block.place (b : Block) : VW := ⟨0, b.seq, b.pc, b.env, b.env.vl, b.elem, false, false, [], [], []⟩

/-- A hart before its checks, as a convoy in execution. -/
def State.convoyAt (s : State) (slot : Nat) (h : Hart) (b : Block) : VC := ⟨s, slot, h, [], b.sent, [], h⟩

/-- A member as it issues, its checks having answered the VL it runs under (R72, R154, R211, R328). -/
def VC.accepted (k : VC) (m : Sem) (w : VW) (n : Nat) : VW :=
  let w1 : VW := { w with vl := n }
  { w1 with idle := m.idle k w1, claims := m.claims k w1, pins := k.pinsOf m w, spans := m.spans k w1 }

/-- The state with the translations that pins name kept (R327, R329). -/
def State.keptPins (s : State) (ctx : Nat) (ps : List Pin) : State := ps.foldl (fun t p => t.keepPin ctx p) s

/-- A convoy as it begins: issued on its hart, the claims of its members and the translations of their pins held. -/
def VC.begunAll (k : VC) (c : Convoy) : VC :=
  { k with st := (k.st.holdClaims k.slot (c.flatMap fun m => m.2.claims)).keptPins k.h.ctx (c.flatMap fun m => m.2.pins),
           h := k.h.issueOn k.st.time k.st.wall c }

/-- A word that is a convoy of its own as it begins. -/
def VC.begun (k : VC) (m : Sem) (w : VW) : VC := k.begunAll [(m, w)]

/-- The pins that the probe of a word at the front takes fit its cluster's table (R328). -/
def State.pinsFit (s : State) (slot : Nat) (h : Hart) (b : Block) (m : Sem) : Prop :=
  (s.convoyAt slot h b).pinRoom 0 ((s.convoyAt slot h b).pinsOf m b.place) = true

/-- A hart whose front block stands at a word that names u may issue it: VL fits MVL, vector registers stand below NREGS, every named
register is full, no reply is still to come to one that it writes, no queue is read and no stream written, and the tokens it waits on are idle
(R59, R60, R65, R86, R95, R197). -/
structure Hart.Fits (h : Hart) (b : Block) (u : WordUse) : Prop where
  length : b.env.vl ≤ mvlOf b.env.nregs
  count  : 8 ≤ b.env.nregs ∧ b.env.nregs ≤ 64
  place  : b.elem < b.env.vl ∨ b.elem = 0
  below  : ∀ n, .v n ∈ u.reads ++ u.writes → n < b.env.nregs
  full   : ∀ r ∈ u.reads ++ u.writes ++ u.waits, h.isEmpty r = false
  due    : ∀ r ∈ u.writes, h.awaits r = false
  plain  : ∀ j, .q j ∉ u.reads ++ u.writes ∧ .lq j ∉ u.reads
  tokens : ∀ j : Fin 8, u.tokens.getLsbD j.val = true → h.tok[j].state = .idle

/-- A hart whose front block stands at a vector word may issue it: what the word names is ready, and its pins fit. -/
def State.mayIssue (s : State) (slot : Nat) (h : Hart) (b : Block) (i : Instr) : Prop :=
  i.wf = true ∧ h.Fits b (i.uses 0) ∧ ∀ m, instrSem h i = some m → s.pinsFit slot h b m

/-- An operand that names no queue, at an element: a register's element, or the low bits of s16 to s31 (R86). -/
def Hart.operandAt (h : Hart) (x : BitVec 7) (e : Nat) : Slot :=
  if x.toNat < 64 then h.elem x.toNat e else (h.sc.get (BitVec.ofNat 5 (x.toNat - 64))).setWidth 32

/-- An element that the front word has still to commit and that its mask field selects (R62, R68). -/
def Hart.live (h : Hart) (b : Block) (m : BitVec 5) (e : Nat) : Bool := b.elem ≤ e && e < b.env.vl && h.selects m e

/-- The active elements of a word, from 0. -/
def Hart.activeBelow (h : Hart) (m : BitVec 5) (vl : Nat) : List Nat := (List.range vl).filter fun e => h.selects m e

/-- n numbers further in a generator (R39). -/
def srSteps : Nat → BitVec 32 → BitVec 32
  | 0, g => g
  | n + 1, g => srSteps n (srStep g)

/-- The number that element e draws when each live element draws one, from the generator of e mod 64 (R39). -/
def Hart.drawAt (h : Hart) (b : Block) (m : BitVec 5) (e : Nat) : Nat :=
  let earlier := (List.range e).filter fun i => h.live b m i && i % 64 == e % 64
  (srSteps (earlier.length + 1) (h.gen.getD (e % 64) 0)).toNat

/-- How a word rounds element e: the mode of its field or of VROUND, its saturation, and the number drawn under SR (R37, R39). -/
def Hart.roundingAt (h : Hart) (b : Block) (f : VR) (e : Nat) : Rnd :=
  let mode := if f.rnd.toNat = 7 then b.env.vround.toNat % 8 else f.rnd.toNat
  ⟨mode, f.sat.toNat, if mode = 5 then h.drawAt b f.mask e else 0⟩

/-- The flags that the live elements raise together (R42). -/
def Hart.raised (h : Hart) (b : Block) (m : BitVec 5) (fl : Nat → Flags) : Flags :=
  (List.range b.env.vl).foldl (fun a e => if h.live b m e then a ||| fl e else a) 0

/-- A hart with everything that running a vector word accounts for as in another: its front, its time, its retention, its requests. -/
def Hart.beside (g h : Hart) : Hart :=
  { g with blocks := h.blocks, due := h.due, timed := h.timed, touched := h.touched, retained := h.retained,
           localreq := h.localreq, remotereq := h.remotereq, vwait := h.vwait, lastIssue := h.lastIssue, aged := h.aged }

/-- What stands at the front after the word at b has committed whole: the next word, or the next block when the vstop follows (R73). -/
def State.nextFront (s : State) (w : Who) (b : Block) (rest : List Block) : List Block :=
  if s.atStop w (b.pc + 8) then rest
  else { b.unissued with pc := b.pc + 8, elem := 0, origin := b.elem, cut := 0 } :: rest

/-- The step that ran the front word of the hart on turn ends in u with the hart's vector state changed to elements el, mask bits mk, lists l
and scalar side sc, its front moved on, and nothing else of it changed but its accounts; its generators moved only if it draws. -/
def State.WordLeft (u : State) (slot : Nat) (h : Hart) (b : Block) (rest : List Block) (out : Out) (el : Nat → Nat → Slot)
    (mk : Nat → Nat → Bool) (l : Vector (List Nat) 4) (sc : Scalar) (draws : Bool) : Prop :=
  ∃ g : Hart, out = .next (u.setHart slot g) ∧ (∀ r e, e < 1024 → g.elem r e = el r e) ∧
    (∀ j e, 1 ≤ j → j < 16 → e < 1024 → (g.mask j).getLsbD e = mk j e) ∧ g.l = l ∧ g.sc = sc ∧
    g.blocks = u.nextFront (h.who slot) b rest ∧ (draws = false → g.gen = h.gen) ∧
    { g.beside h with v := h.v, m := h.m, l := h.l, sc := h.sc, gen := h.gen } = h

/-- Elements of a hart with those of one register replaced by the values at a set of elements; a register that is none (127) keeps all. -/
def Hart.withElems (h : Hart) (d : BitVec 7) (at' : Nat → Bool) (val : Nat → Slot) (r e : Nat) : Slot :=
  if d.toNat < 64 ∧ r = d.toNat ∧ at' e = true then val e else h.elem r e

/-- Bit e of mask j after a word that writes the masks d and x bit by bit: below the element it began at as before, then false where the
element is inactive, and false from VL on; nothing changes when VL is 0 (R62, R121, R122). -/
def Hart.withMasks (h : Hart) (b : Block) (m : BitVec 5) (d x : Option Nat) (bit exc : Nat → Bool) (j e : Nat) : Bool :=
  if b.env.vl = 0 ∨ e < b.elem then (h.mask j).getLsbD e
  else if x = some j then h.live b m e && exc e
  else if d = some j then h.live b m e && bit e
  else (h.mask j).getLsbD e

/-- The exception mask of a VR word, when it has one (R121). -/
def excMaskOf (f : VR) : Option Nat := if f.xm then some f.xd.toNat else none

/-- An element-wise word with value and flags val at each element leaves the values in its destination, the flags in FFLAGS, the indicators in its
exception mask. -/
def State.ElementsLeft (s : State) (slot : Nat) (h : Hart) (b : Block) (rest : List Block) (i : Instr) (f : VR) (rounds : Bool)
    (val : Nat → Slot × Flags) : Prop :=
  s.WordLeft slot h b rest (exec i s) (h.withElems f.vd (h.live b f.mask) fun e => (val e).1)
    (h.withMasks b f.mask none (excMaskOf f) (fun _ => false) fun e => indicator (val e).2) h.l
    { h.sc with fflags := orFlags h.sc.fflags (h.raised b f.mask fun e => (val e).2) }
    (rounds && (h.roundingAt b f 0).mode == 5)

/-- An element-wise word that writes mask d leaves bit in it for each active element. -/
def State.BitsLeft (s : State) (slot : Nat) (h : Hart) (b : Block) (rest : List Block) (i : Instr) (f : VR) (d : Nat)
    (bit : Nat → Bool × Flags) : Prop :=
  s.WordLeft slot h b rest (exec i s) h.elem
    (h.withMasks b f.mask (some d) (excMaskOf f) (fun e => (bit e).1) fun e => indicator (bit e).2) h.l
    { h.sc with fflags := orFlags h.sc.fflags (h.raised b f.mask fun e => (bit e).2) } false

/-- A base or stride field of the front word: s0 is zero, s1 to s15 as at the block's vf, s16 to s31 as they stand (R87). -/
def Hart.field (h : Hart) (b : Block) (r : Reg) : Word :=
  if r = 0 then 0 else if r.toNat < 16 then b.env.s.getD r.toNat 0 else h.sc.get r

/-- The element of a format at a nibble address lies at a place whose translation is kept, and its check for a use passes (R145, R326, R327). -/
def State.elemAt (s : State) (w : Who) (u : Use) (c : BitVec 6) (nib : Nat) (p : Place) : Prop :=
  s.elemPlace w u c nib = .ok p ∧ (tlbFind w.ctx (nib / 2) s.tlb).isSome = true

/-- Reading the bytes of an element at a place meets no error (R350, R361). -/
def State.readsClean (s : State) (p : Place) (n : Nat) : Prop := s.readError [(p, n)] = none

/-- Storing an element of a format at a place meets no error: no lost link to a peer or to a Cellar stack, and for a nibble no error in the byte that it is merged into (R145,
R207, R350, R361). -/
def State.storesClean (s : State) (p : Place) (c : BitVec 6) : Prop :=
  s.linkLost p = false ∧ (fmtBits c = 4 → s.readsClean p 1)

/-- The live elements of the front word, in ascending order. -/
def Hart.lives (h : Hart) (b : Block) (m : BitVec 5) : List Nat := (List.range b.env.vl).filter fun e => h.live b m e

/-- Memory with one code stored at its place by a context: its bytes, or its nibble of the byte (R145, R294). -/
def State.storeCode (s : State) (ctx : Nat) (p : Place) (c : BitVec 6) (nib code : Nat) : State :=
  let old := (Memory.read p.key s.mem).toNat
  s.pokeBy ctx p.key (if fmtBits c = 4
    then [BitVec.ofNat 8 (if nib % 2 = 0 then old / 16 * 16 + code % 16 else old % 16 + code % 16 * 16)] else leBytes (fmtBytes c) code)

/-- One entry appended to the queue whose header stands at p, its entry slots at the places ent, by a context (R156). -/
def State.appended (s : State) (ctx : Nat) (p : Place) (ent : Nat → Place) (v : Nat) : State :=
  let tail := s.peekNat p.key 8
  let batch := s.peekNat (p.key + 12) 4
  let s1 := s.pokeBy ctx p.key (leBytes 8 ((tail + 1) % 2 ^ 64))
  let s2 := if tail < s.peekNat (p.key + 8) 4 then s1.pokeBy ctx (ent tail).key (leBytes 4 v) else s1
  if batch ≠ 0 ∧ (tail + 1) % batch = 0 then s2.pokeBy ctx (p.key + 16) (leBytes 8 ((s2.peekNat (p.key + 16) 8 + 1) % 2 ^ 64)) else s2

/-- The tree sum over 2^d positions from lo, halves joined pairwise, an absent half passing the other on (R45). -/
def sumTree (add : Slot → Slot → Slot × Flags) (node : Nat → Node) : Nat → Nat → Node
  | 0, lo => node lo
  | d + 1, lo => joinNodes add (sumTree add node d lo) (sumTree add node d (lo + 2 ^ d))

/-- The running sum of a list of slots, left to right from its first (R47). -/
def runningSum (add : Slot → Slot → Slot × Flags) : List Slot → Slot
  | [] => 0
  | x :: t => t.foldl (fun a y => (add a y).1) x

/-- The number of entries of a list that stand before entry x in rank order (R140). -/
def rankAmong (before : Slot → Slot → Bool) (l : List Entry) (x : Entry) : Nat := (l.filter fun y => entryBefore before y x).length

end Sys2Proof.Machine
end

