-- ==== Sys2Proof/Certificates/Slice0/Obligations.lean ====
section
/-! DEFINITION. What is claimed of the machine: one proposition an obligation, each with the rules it formalises. -/

open Sys2Proof Sys2Proof.Machine

/-! ### Scalar words: integers (R103 to R106) -/

/-- R104, R105: what each integer register word with two sources leaves, the arithmetic said over exact integers. R105: division never traps; b = 0 and MIN by -1 give the table's results, every other case the truncated quotient and the
remainder with the sign of a. -/
def Obligations.IntegerRegisterWords : Prop :=
  (∀ (s : State) (c : Scalar) (d a b : Reg), s.Issues c .common [d] [a, b] →
     let x := c.get a
     let y := c.get b
     let ans (i : Instr) (v : Word) : Prop := exec i s = .next (s.performed c (c.wrote d v))
     ans (.add d a b) (BitVec.ofInt 64 (x.toInt + y.toInt)) ∧
     ans (.sub d a b) (BitVec.ofInt 64 (x.toInt - y.toInt)) ∧
     ans (.mul d a b) (BitVec.ofInt 64 (x.toInt * y.toInt)) ∧
     ans (.mulh d a b) (BitVec.ofInt 64 ((x.toInt * y.toInt).fdiv (2 ^ 64))) ∧
     ans (.mulhn d a b) (BitVec.ofNat 64 (x.toNat * y.toNat / 2 ^ 64)) ∧
     ans (.and d a b) (x &&& y) ∧ ans (.or d a b) (x ||| y) ∧ ans (.xor d a b) (x ^^^ y) ∧ ans (.andn d a b) (x &&& ~~~y) ∧
     ans (.shl d a b) (BitVec.ofNat 64 (x.toNat * 2 ^ (y.toNat % 64))) ∧
     ans (.shr d a b) (BitVec.ofNat 64 (x.toNat / 2 ^ (y.toNat % 64))) ∧
     ans (.sra d a b) (BitVec.ofInt 64 (x.toInt.fdiv (2 ^ (y.toNat % 64)))) ∧
     ans (.rotr d a b) (BitVec.ofNat 64 (x.toNat / 2 ^ (y.toNat % 64) + x.toNat % 2 ^ (y.toNat % 64) * 2 ^ (64 - y.toNat % 64))) ∧
     ans (.min d a b) (BitVec.ofInt 64 (min x.toInt y.toInt)) ∧ ans (.max d a b) (BitVec.ofInt 64 (max x.toInt y.toInt)) ∧
     ans (.minn d a b) (BitVec.ofNat 64 (min x.toNat y.toNat)) ∧ ans (.maxn d a b) (BitVec.ofNat 64 (max x.toNat y.toNat)) ∧
     ans (.slt d a b) (if x.toInt < y.toInt then 1 else 0) ∧ ans (.sltn d a b) (if x.toNat < y.toNat then 1 else 0) ∧
     ans (.seq d a b) (if x = y then 1 else 0) ∧
     ans (.csel d a b) (if c.get d ≠ 0 then x else y)) ∧
  (∀ (s : State) (c : Scalar) (d a b : Reg), s.Issues c .common [d] [a, b] →
     let x := c.get a
     let y := c.get b
     let ans (i : Instr) (v : Word) : Prop := exec i s = .next (s.performed c (c.wrote d v))
     ans (.div d a b) (if y = 0 then 0xFFFFFFFFFFFFFFFF
       else if x = 0x8000000000000000 ∧ y = 0xFFFFFFFFFFFFFFFF then 0x8000000000000000 else BitVec.ofInt 64 (x.toInt.tdiv y.toInt)) ∧
     ans (.rem d a b) (if y = 0 then x
       else if x = 0x8000000000000000 ∧ y = 0xFFFFFFFFFFFFFFFF then 0 else BitVec.ofInt 64 (x.toInt.tmod y.toInt)) ∧
     ans (.divn d a b) (if y = 0 then 0xFFFFFFFFFFFFFFFF else BitVec.ofNat 64 (x.toNat / y.toNat)) ∧
     ans (.remn d a b) (if y = 0 then x else BitVec.ofNat 64 (x.toNat % y.toNat)))


/-- R104: the words with one source. The counts are characterised by the bits they count: clz names the highest one bit, ctz the
lowest, popc the number of bits set. R106: immediates and constants. -/
def Obligations.UnaryAndImmediateWords : Prop :=
  (∀ (s : State) (c : Scalar) (d a : Reg), s.Issues c .common [d] [a] →
     let x := c.get a
     let ans (i : Instr) (v : Word) : Prop := exec i s = .next (s.performed c (c.wrote d v))
     (∃ n, ans (.clz d a) (BitVec.ofNat 64 n) ∧ n ≤ 64 ∧ x.toNat < 2 ^ (64 - n) ∧ (n < 64 → x.getLsbD (63 - n) = true)) ∧
     (∃ n, ans (.ctz d a) (BitVec.ofNat 64 n) ∧ n ≤ 64 ∧ (∀ i, i < n → x.getLsbD i = false) ∧ (n < 64 → x.getLsbD n = true)) ∧
     ans (.popc d a) (BitVec.ofNat 64 (((List.range 64).filter fun i => x.getLsbD i).length)) ∧
     ans (.sextB d a) ((x.setWidth 8).signExtend 64) ∧ ans (.sextH d a) ((x.setWidth 16).signExtend 64) ∧
     ans (.sextW d a) ((x.setWidth 32).signExtend 64) ∧
     ans (.zextB d a) (BitVec.ofNat 64 (x.toNat % 2 ^ 8)) ∧ ans (.zextH d a) (BitVec.ofNat 64 (x.toNat % 2 ^ 16)) ∧
     ans (.zextW d a) (BitVec.ofNat 64 (x.toNat % 2 ^ 32))) ∧
  (∀ (s : State) (c : Scalar) (d a : Reg), s.Issues c .common [d] [a] → ∀ (imm : BitVec 16) (n : BitVec 6) (k : BitVec 2),
     let x := c.get a
     let ans (i : Instr) (v : Word) : Prop := exec i s = .next (s.performed c (c.wrote d v))
     ans (.addi d a imm) (BitVec.ofInt 64 (x.toInt + imm.toInt)) ∧
     ans (.andi d a imm) (BitVec.ofNat 64 (x.toNat &&& imm.toNat)) ∧ ans (.ori d a imm) (BitVec.ofNat 64 (x.toNat ||| imm.toNat)) ∧
     ans (.xori d a imm) (BitVec.ofNat 64 (x.toNat ^^^ imm.toNat)) ∧
     ans (.slti d a imm) (if x.toInt < imm.toInt then 1 else 0) ∧
     ans (.sltni d a imm) (if x.toNat < (imm.signExtend 64).toNat then 1 else 0) ∧
     ans (.shli d a n) (BitVec.ofNat 64 (x.toNat * 2 ^ n.toNat)) ∧ ans (.shri d a n) (BitVec.ofNat 64 (x.toNat / 2 ^ n.toNat)) ∧
     ans (.srai d a n) (BitVec.ofInt 64 (x.toInt.fdiv (2 ^ n.toNat))) ∧
     ans (.rotri d a n) (BitVec.ofNat 64 (x.toNat / 2 ^ n.toNat + x.toNat % 2 ^ n.toNat * 2 ^ (64 - n.toNat))) ∧
     (∃ v : Word, ans (.lih d k imm) v ∧
       ∀ i, i < 64 → v.getLsbD i = if i / 16 = k.toNat then imm.getLsbD (i % 16) else (c.get d).getLsbD i) ∧
     ans (.pcadd d imm) (BitVec.ofInt 64 (c.pc.toInt + 4 * imm.toInt)))


/-! ### Scalar words: control transfer (R109) -/

/-- R109: a branch goes to its own address plus four times its offset when its condition holds, and else to the next word; it writes no
register. -/
def Obligations.Branches : Prop :=
  ∀ (s : State) (c : Scalar) (a b : Reg) (off : BitVec 13), s.Issues c .common [] [a, b] →
    let x := c.get a
    let y := c.get b
    let target : Word := BitVec.ofInt 64 (c.pc.toInt + 4 * off.toInt)
    let ans (i : Instr) (taken : Prop) : Prop :=
      (taken → s.mayJump c target = true → exec i s = .next (s.performed c { c with pc := target })) ∧
      (¬taken → exec i s = .next (s.performed c { c with pc := c.pc + 4 }))
    ans (.bEq a b off) (x = y) ∧ ans (.bNe a b off) (x ≠ y) ∧ ans (.bLt a b off) (x.toInt < y.toInt) ∧
    ans (.bGe a b off) (y.toInt ≤ x.toInt) ∧ ans (.bLtn a b off) (x.toNat < y.toNat) ∧ ans (.bGen a b off) (y.toNat ≤ x.toNat)

/-- R109: jal links into s1, jmp does not link, and jalr computes its target from the old a before it links into d. A target that is not
aligned to 4 traps with cause 0x03 at the jalr. R305: on a stream controller core a transfer into its launch program area to any word but the one at position LPPOS, which the transfer
itself has advanced when it stands in the area, traps with cause 0x05. -/
def Obligations.Jumps : Prop :=
  (∀ (s : State) (c : Scalar) (d a : Reg) (off : BitVec 26) (imm : BitVec 16), s.Issues c .common [d] [a] →
     let target : Word := BitVec.ofInt 64 (c.pc.toInt + 4 * off.toInt)
     let far : Word := BitVec.ofInt 64 ((c.get a).toInt + 4 * imm.toInt)
     (s.mayJump c target = true →
       exec (.jal off) s = .next (s.performed c { c.set 1 (c.pc + 4) with pc := target }) ∧
       exec (.jmp off) s = .next (s.performed c { c with pc := target })) ∧
     (far.toNat % 4 = 0 → s.mayJump c far = true →
       exec (.jalr d a imm) s = .next (s.performed c { c.set d (c.pc + 4) with pc := far })) ∧
     (far.toNat % 4 ≠ 0 → exec (.jalr d a imm) s = s.takeTrap s.cur { cause := 3, addr := far.toNat } c.pc c.pc)) ∧
  (∀ (s : State) (die : Nat) (c : Scalar) (d a b : Reg) (near : BitVec 13) (off : BitVec 26) (imm : BitVec 16),
     s.cur = .scc die → s.Issues c .common [] [] →
     let trapsAt (i : Instr) (target : Word) : Prop := s.mayJump c target = false →
       exec i s = s.takeTrap (.scc die) { cause := 5, addr := target.toNat } c.pc c.pc
     trapsAt (.jmp off) (c.pc + 4 * off.signExtend 64) ∧ trapsAt (.jal off) (c.pc + 4 * off.signExtend 64) ∧
     ((c.get a + 4 * imm.signExtend 64).toNat % 4 = 0 → trapsAt (.jalr d a imm) (c.get a + 4 * imm.signExtend 64)) ∧
     (c.get a = c.get b → trapsAt (.bEq a b near) (c.pc + 4 * near.signExtend 64)) ∧
     (c.get a ≠ c.get b → trapsAt (.bNe a b near) (c.pc + 4 * near.signExtend 64)) ∧
     ((c.get a).toInt < (c.get b).toInt → trapsAt (.bLt a b near) (c.pc + 4 * near.signExtend 64)) ∧
     ((c.get b).toInt ≤ (c.get a).toInt → trapsAt (.bGe a b near) (c.pc + 4 * near.signExtend 64)) ∧
     ((c.get a).toNat < (c.get b).toNat → trapsAt (.bLtn a b near) (c.pc + 4 * near.signExtend 64)) ∧
     ((c.get b).toNat ≤ (c.get a).toNat → trapsAt (.bGen a b near) (c.pc + 4 * near.signExtend 64)))


/-! ### Scalar words: FP32 (R42, R107, R108) -/

/-- What R107 and R42 make of a scalar FP32 word with result v, flags fl and the generator g: all of it, or the trap and nothing. -/
def fpAnswer (s : State) (c : Scalar) (d : Reg) (i : Instr) (v : Word) (fl : Flags) (g : BitVec 32) : Prop :=
  (flagTraps c.fflags fl = false →
    exec i s = .next (s.performed c (({ c with fflags := orFlags c.fflags fl, g64 := g } : Scalar).wrote d v))) ∧
  (flagTraps c.fflags fl = true → exec i s = s.takeTrap s.cur { cause := 0x0E } c.pc c.pc)

/-- R107: the scalar FP32 words round their exact result once with FROUND's mode, drawing on g64 under SR alone; a flag whose enable is set
traps with cause 0x0E and leaves d, FFLAGS and g64. -/
def Obligations.ScalarFloatWords : Prop :=
  ∀ (s : State) (c : Scalar) (d a b : Reg), s.Issues c .common [d] [a, b] →
    let x := f32 ((c.get a).setWidth 32)
    let y := f32 ((c.get b).setWidth 32)
    let z := f32 ((c.get d).setWidth 32)
    let m := c.fround.toNat
    let g := if m = 5 then srStep c.g64 else c.g64
    let ans (i : Instr) (e : Sys2Proof.Machine.Num × Flags) : Prop :=
      let r := roundF32 e.1 m 0 (if m = 5 then (srStep c.g64).toNat else 0)
      fpAnswer s c d i (r.1.setWidth 64) (e.2 ||| r.2) g
    ans (.fadd d a b) (addNum m x y) ∧ ans (.fsub d a b) (subNum m x y) ∧ ans (.fmul d a b) (mulNum x y) ∧
    ans (.ffma d a b) (fmaNum m x y z) ∧
    (∀ max : Bool, let r := minMax max f32 slotOf ((c.get a).setWidth 32) ((c.get b).setWidth 32)
      fpAnswer s c d (if max then .fmax d a b else .fmin d a b) (r.1.setWidth 64) r.2 c.g64)

/-- R108: the compares answer 0 or 1 in all 64 bits with their flags, and the conversions their saturated or rounded integers. -/
def Obligations.ScalarCompareConvert : Prop :=
  ∀ (s : State) (c : Scalar) (d a b : Reg), s.Issues c .common [d] [a, b] →
    let x := f32 ((c.get a).setWidth 32)
    let y := f32 ((c.get b).setWidth 32)
    let m := c.fround.toNat
    let nan := x.isNaN || y.isNaN
    let snan := x.isSNaN || y.isSNaN
    fpAnswer s c d (.fcmpEq d a b) (if !nan && eqNum x y then 1 else 0) (if snan then flagNV else 0) c.g64 ∧
    fpAnswer s c d (.fcmpLt d a b) (if !nan && ltNum x y then 1 else 0) (if nan then flagNV else 0) c.g64 ∧
    fpAnswer s c d (.fcmpLe d a b) (if !nan && (ltNum x y || eqNum x y) then 1 else 0) (if nan then flagNV else 0) c.g64 ∧
    (let r := roundF32 (Num.ofInt (c.get a).toInt 0 false) m 0 (if m = 5 then (srStep c.g64).toNat else 0)
     fpAnswer s c d (.fcvtF32I64 d a) (r.1.setWidth 64) r.2 (if m = 5 then srStep c.g64 else c.g64)) ∧
    (x.isNaN = true → fpAnswer s c d (.fcvtI64F32 d a) 0 flagNV c.g64) ∧
    (∀ neg, x = .inf neg → fpAnswer s c d (.fcvtI64F32 d a) (if neg then 0x8000000000000000 else 0x7FFFFFFFFFFFFFFF) flagNV c.g64) ∧
    (∀ neg mant e, x = .fin neg mant e →
      let mag := if 0 ≤ e then mant * 2 ^ e.toNat else mant / 2 ^ (-e).toNat
      let v : Int := if neg then -(mag : Int) else mag
      let exact := 0 ≤ e ∨ mant % 2 ^ (-e).toNat = 0
      (v < -(2 ^ 63) → fpAnswer s c d (.fcvtI64F32 d a) 0x8000000000000000 flagNV c.g64) ∧
      (2 ^ 63 ≤ v → fpAnswer s c d (.fcvtI64F32 d a) 0x7FFFFFFFFFFFFFFF flagNV c.g64) ∧
      (-(2 ^ 63) ≤ v → v < 2 ^ 63 → ∀ fl, (exact → fl = 0) → (¬exact → fl = flagNX) →
        fpAnswer s c d (.fcvtI64F32 d a) (BitVec.ofInt 64 v) fl c.g64))

/-- R38: a finite value that the format represents rounds to its own code and raises no flag, whatever the mode and the number drawn; said of
FP32, BF16 and FP16 codes. R40: an infinite value takes no flag either, and with sat 0 it stays infinite under RNE, RNA, SR and rounding toward its own
sign, and becomes the largest finite value of its sign under RTZ and rounding toward the opposite sign. -/
def Obligations.RepresentableValuesRoundToThemselves : Prop :=
  ∀ (f : Fmt) (mode rnd : Nat), (f = fp32 ∨ f = bf16 ∨ f = fp16) → mode ≤ 5 → rnd < 2 ^ 32 →
    (∀ code, code < 2 ^ (f.signBit + 1) → (f.decode code).isFin = true → roundTo f (f.decode code) mode 0 rnd = (code, 0)) ∧
    (∀ neg, roundTo f (.inf neg) mode 0 rnd =
      (if mode = rtz ∨ (mode = rdn ∧ neg = false) ∨ (mode = rup ∧ neg = true) then f.signed neg f.maxMag else f.infCode neg, 0))

/-! ### Scalar memory (R110 to R112, R117, R222 to R225) -/

/-- R110, R111: a load whose pieces all translate and meet no error answers the bytes at its places, little-endian, extended as its
mnemonic says; it keeps the translations, counts its requests, and changes no byte of memory. -/
def Obligations.LoadWords : Prop :=
  ∀ (s : State) (c : Scalar) (d base : Reg) (cls : BitVec 4) (off : BitVec 9), s.Issues c .common [d] [base] →
    let w := s.who s.cur
    let ans (i : Instr) (n : Nat) (ext : Nat → Word) : Prop :=
      ∀ va pl, va = (c.get base + BitVec.ofNat 64 n * off.signExtend 64).toNat → s.mayAccess c false cls.toNat va n → s.Reaches w .load va n pl →
        s.readError pl = none →
        ∃ t, exec i s = .next t ∧
          t = (Ctx.mk (s.accessed w va n pl) s.cur (c.wrote d (ext (leNat (s.bytesAt pl))))).finish c.pc s ∧
          ∀ a, Memory.read a t.mem = Memory.read a s.mem
    ans (.ldB d base cls off) 1 (fun v => (BitVec.ofNat 8 v).signExtend 64) ∧
    ans (.ldH d base cls off) 2 (fun v => (BitVec.ofNat 16 v).signExtend 64) ∧
    ans (.ldW d base cls off) 4 (fun v => (BitVec.ofNat 32 v).signExtend 64) ∧
    ans (.ldBn d base cls off) 1 (fun v => BitVec.ofNat 64 v) ∧ ans (.ldHn d base cls off) 2 (fun v => BitVec.ofNat 64 v) ∧
    ans (.ldWn d base cls off) 4 (fun v => BitVec.ofNat 64 v) ∧ ans (.ldD d base cls off) 8 (fun v => BitVec.ofNat 64 v)

/-- R110, R111: a store whose pieces all translate, reach no bound plane region and no failed link, writes the low bytes of its source at
its places and leaves every other byte; no register is written. -/
def Obligations.StoreWords : Prop :=
  ∀ (s : State) (c : Scalar) (src base : Reg) (cls : BitVec 4) (off : BitVec 9), s.Inv → s.Issues c .common [] [src, base] →
    let w := s.who s.cur
    let ans (i : Instr) (n : Nat) : Prop :=
      ∀ va pl, va = (c.get base + BitVec.ofNat 64 n * off.signExtend 64).toNat → s.mayAccess c true cls.toNat va n → s.Reaches w .store va n pl →
        (∀ p ∈ pl, regionAt s.regions p.1.key = none) → (∀ p ∈ pl, s.linkLost p.1 = false) →
        (∀ p q, pl = [p, q] → p.1.key + p.2 ≤ q.1.key ∨ q.1.key + q.2 ≤ p.1.key) →
        ∃ t, exec i s = .next t ∧ t.bytesAt pl = leBytes n (c.get src).toNat ∧
          (∀ a, coversKey pl a = false → Memory.read a t.mem = Memory.read a s.mem) ∧
          t.scalar s.cur = (s.performed c c.advance).scalar s.cur
    ans (.stB src base cls off) 1 ∧ ans (.stH src base cls off) 2 ∧ ans (.stW src base cls off) 4 ∧ ans (.stD src base cls off) 8

/-- R111, R326: a load or a store whose address has a bit of 63:57 set, or one of whose pieces does not translate, traps with that cause at
the lowest address that fails and performs nothing. R333: a forked program that meets a page that is not present asks the pager and waits. R111: an
access to a host or peer page that runs across a 16-byte unit traps with cause 0x03, and performs nothing. -/
def Obligations.UntranslatedAccessTraps : Prop :=
  ∀ (s : State) (c : Scalar) (r base : Reg) (cls : BitVec 4) (off : BitVec 9), s.Issues c .common [r] [r, base] →
    let w := s.who s.cur
    let traps (i : Instr) (u : Use) (kind n : Nat) : Prop :=
      ∀ va, va = (c.get base + BitVec.ofNat 64 n * off.signExtend 64).toNat → s.mayAccess c (kind == 2) cls.toNat va n →
        (∀ cause at', (2 ^ 57 ≤ va ∧ cause = 4 ∧ at' = va) ∨ (va < 2 ^ 57 ∧ s.xlate w u va = .error cause ∧ at' = va) ∨
            (va < 2 ^ 57 ∧ (∃ p, s.xlate w u va = .ok p) ∧ 16 < va % 16 + n ∧ at' = va + (16 - va % 16) ∧ s.xlate w u at' = .error cause) →
          exec i s = s.accessTraps c cause at' (kind + 16 * cls.toNat)) ∧
        (∀ p q, va < 2 ^ 57 → 16 < va % 16 + n → s.xlate w u va = .ok p → s.xlate w u (va + (16 - va % 16)) = .ok q →
            (p.kind = 4 ∨ p.kind = 5 ∨ q.kind = 4 ∨ q.kind = 5) →
          exec i s = s.takeTrap s.cur { cause := 3, addr := va, access := kind + 16 * cls.toNat } c.pc c.pc)
    traps (.ldB r base cls off) .load 1 1 ∧ traps (.ldH r base cls off) .load 1 2 ∧ traps (.ldW r base cls off) .load 1 4 ∧
    traps (.ldBn r base cls off) .load 1 1 ∧ traps (.ldHn r base cls off) .load 1 2 ∧ traps (.ldWn r base cls off) .load 1 4 ∧
    traps (.ldD r base cls off) .load 1 8 ∧
    traps (.stB r base cls off) .store 2 1 ∧ traps (.stH r base cls off) .store 2 2 ∧ traps (.stW r base cls off) .store 2 4 ∧
    traps (.stD r base cls off) .store 2 8

/-- R211: a store of one piece into a bound plane region, which the region's rule admits from a member, goes to the step in progress of the
region and leaves every byte of memory, so the present plane reads as before. -/
def Obligations.PlaneStoresLeaveThePresent : Prop :=
  ∀ (s : State) (c : Scalar) (src base : Reg) (cls : BitVec 4) (off : BitVec 9), s.Issues c .common [] [src, base] →
    let w := s.who s.cur
    let ans (i : Instr) (n : Nat) : Prop :=
      ∀ va p r, va = (c.get base + BitVec.ofNat 64 n * off.signExtend 64).toNat → s.mayAccess c true cls.toNat va n →
        s.Reaches w .store va n [(p, n)] →
        regionAt s.regions p.key = some r →
        planeCause s w r (p.key - r.key) n (if n = 4 ∧ va % 4 = 0 then .word4 else .other) [] = none → s.linkLost p = false →
        ∃ t, exec i s = .next t ∧ (∀ a, Memory.read a t.mem = Memory.read a s.mem) ∧
          t.scalar s.cur = (s.performed c c.advance).scalar s.cur ∧
          t.regions = s.regions.map fun x => if x.key ≤ p.key ∧ p.key < x.key + x.size
            then { x with stores := x.stores ++ [⟨p.key - x.key, leBytes n (c.get src).toNat, 0, w.kid, w.hart⟩] } else x
    ans (.stB src base cls off) 1 ∧ ans (.stH src base cls off) 2 ∧ ans (.stW src base cls off) 4 ∧ ans (.stD src base cls off) 8

/-- The scalar side and memory that an atomic leaves: d takes the old value, sign-extended for 4 bytes, memory the new one. -/
def amoAnswer (s : State) (c : Scalar) (d b : Reg) (f : AmoForm) (p : Place) (i : Instr)
    (new : (n : Nat) → BitVec n → BitVec n → BitVec n → BitVec n) : Prop :=
  let n := if f.double then 8 else 4
  let old := leNat (Memory.reads s.mem p.key n)
  let v := (new (8 * n) (BitVec.ofNat (8 * n) old) ((c.get b).setWidth (8 * n)) ((c.get d).setWidth (8 * n))).toNat
  ∃ t, exec i s = .next t ∧
    t.scalar s.cur = (s.performed c (c.wrote d ((BitVec.ofNat (8 * n) old).signExtend 64))).scalar s.cur ∧
    leNat (Memory.reads t.mem p.key n) = v ∧
    (∀ k, k < p.key ∨ p.key + n ≤ k → Memory.read k t.mem = Memory.read k s.mem) ∧
    (∀ slot h g, s.cur = .vec slot → s.hart slot = some h → t.hart slot = some g →
      g.missCount = if f.scope.toNat < narrowest (s.who s.cur) p then h.missCount + 1 else h.missCount)

/-- R222, R223: an amo at an aligned address of a page that admits it reads and writes its word at once: d takes the old value, memory
the new one, every other byte stays, and SCOPEMISS counts when the scope was too narrow. (The log of Sillage is off, so its event of
R354 neither waits nor diverges.) -/
def Obligations.AtomicWords : Prop :=
  ∀ (s : State) (c : Scalar) (d a b : Reg) (f : AmoForm) (p : Place), s.Inv → s.Issues c .amo [d] [a, b] →
    s.dbg.silMode = 0 →
    let n := if f.double then 8 else 4
    let va := (c.get a).toNat
    (Ctx.mk s s.cur c).memBusy true 15 va n = false → va % n = 0 → va < 2 ^ 57 → s.xlate (s.who s.cur) .atomic va = .ok p → s.readError [(p, n)] = none →
    let ans := amoAnswer s c d b f p
    ans (.amoAdd d a b f) (fun _ o x _ => o + x) ∧ ans (.amoAnd d a b f) (fun _ o x _ => o &&& x) ∧
    ans (.amoOr d a b f) (fun _ o x _ => o ||| x) ∧ ans (.amoXor d a b f) (fun _ o x _ => o ^^^ x) ∧
    ans (.amoMin d a b f) (fun _ o x _ => if o.toInt ≤ x.toInt then o else x) ∧
    ans (.amoMax d a b f) (fun _ o x _ => if o.toInt ≤ x.toInt then x else o) ∧
    ans (.amoMinn d a b f) (fun _ o x _ => if o.toNat ≤ x.toNat then o else x) ∧
    ans (.amoMaxn d a b f) (fun _ o x _ => if o.toNat ≤ x.toNat then x else o) ∧
    ans (.amoSwap d a b f) (fun _ _ x _ => x) ∧ ans (.amoCas d a b f) (fun _ o x cmp => if o = cmp then x else o)

/-- R117: waitm ends, with the doubleword in d, when it differs from b, and else the hart waits at the word; a wake makes a waiting hart
runnable; an address not aligned to 8 traps with cause 0x03. R117: the end of a wait makes the hart runnable and changes nothing else of it; a hart that is held or stopped is left. R225: fence.c waits while an access of an earlier vector word of its hart, of a class in its mask or of class 15, is to come, and
otherwise the next word follows and the hart holds the fence, behind which later accesses of those classes wait for earlier queries; nothing else moves. -/
def Obligations.WaitAndFence : Prop :=
  ((∀ (s : State) (c : Scalar) (d a b : Reg) (cls : BitVec 4) (p : Place), s.Issues c .waitm [d] [a, b] →
      (Ctx.mk s s.cur c).memBusy false cls.toNat (c.get a).toNat 8 = false → s.dbg.silMode = 0 →
      let w := s.who s.cur
      let va := (c.get a).toNat
      let x : Word := BitVec.ofNat 64 (leNat (Memory.reads s.mem p.key 8))
      (va % 8 = 0 → va < 2 ^ 57 → s.xlate w .load va = .ok p → p.kind ≠ 5 → s.readError [(p, 8)] = none →
        (x ≠ c.get b → ∃ t, exec (.waitm d a b cls) s = .next t ∧ t.scalar s.cur = (s.performed c (c.wrote d x)).scalar s.cur ∧
          ∀ k, Memory.read k t.mem = Memory.read k s.mem) ∧
        (x = c.get b → ∃ t, exec (.waitm d a b cls) s = .next t ∧ t.scalar s.cur = some c ∧
          ∀ slot g, s.cur = .vec slot → t.hart slot = some g → g.waiting = true)) ∧
      (va % 8 ≠ 0 → exec (.waitm d a b cls) s =
        s.takeTrap s.cur { cause := 3, addr := va, access := 1 + 16 * cls.toNat } c.pc c.pc)) ∧
   (∀ (s : State) (slot : Nat) (h : Hart), s.hart slot = some h →
      ∃ t g, exec (.waitmWake slot) s = .next t ∧ t.hart slot = some g ∧ t.mem = s.mem ∧ (∀ n, n ≠ slot → t.hart n = s.hart n) ∧
        (h.state = .running → g = { h with waiting := false }) ∧ (h.state ≠ .running → g = h))) ∧
  (∀ (s : State) (c : Scalar) (scope : BitVec 3) (classes : BitVec 16), s.Issues c .common [] [] →
     let busy (slot : Nat) (h : Hart) : Bool := s.pendingAny slot h fun u => match u.cls with
       | some k => !u.query && (k == 15 || classes.getLsbD k)
       | none => false
     (∀ slot h, s.cur = .vec slot → s.hart slot = some h →
       (busy slot h = false → exec (.fenceC scope classes) s = .next ((s.setHart slot (h.fence classes)).performed c c.advance)) ∧
       (busy slot h = true → exec (.fenceC scope classes) s = .next (s.markWaiting s.cur))) ∧
     ((∀ slot, s.cur ≠ .vec slot) → exec (.fenceC scope classes) s = .next (s.performed c c.advance)))

/-! ### Control registers (R6, R43, R75, R83, R95, R113, R114) -/

/-- R113, R114: crd reads the register into d; cwr, crs and crc write it field by field with a, with old OR a, or with old AND NOT a, and crs and
crc answer the old value. A read that must wait for vector words waits. R55: VIDX takes no write at kernel level: cause 0x02; on a stream controller core a
write of it does nothing (R6). Each of the four completes on every register that the party reaches once no vector word of its hart is unfinished: the next word
follows, d holds the old value, and no other numbered register moves. Said of every register that the
party reaches. R43, R114: cwr to FROUND and VROUND on any party, and to FFLAGS on a party without unfinished vector words, sets the fields of the maps:
a mode of 6 or 7 leaves the mode, and reserved bits read as zero afterwards. -/
def Obligations.ControlRegisterWords : Prop :=
  (∀ (s : State) (c : Scalar) (d a : Reg) (cr : BitVec 12), s.Issues c .common [d] [a] → crCause s.cur cr.toNat = none →
     let k0 : Ctx := ⟨s, s.cur, c⟩
     let n := cr.toNat
     let old : Word := BitVec.ofNat 64 (s.crValue s.cur c n)
     let closed : Prop := n = 0x003 ∧ ∃ slot, s.cur = .vec slot
     (k0.crWait n = .ok () → exec (.crd d cr) s = .next (s.performed c (c.wrote d old))) ∧
     (k0.crWait n ≠ .ok () → exec (.crd d cr) s = .next (s.markWaiting s.cur)) ∧
     (¬closed → (∀ k, k0.crWrite n (c.get a) = .ok k → exec (.cwr cr a) s = .next (k.done.finish c.pc s)) ∧
       (k0.crWait n = .ok () →
         (∀ k, k0.crWrite n (old ||| c.get a) = .ok k → exec (.crs d cr a) s = .next ((k.write d old).finish c.pc s)) ∧
         (∀ k, k0.crWrite n (old &&& ~~~c.get a) = .ok k → exec (.crc d cr a) s = .next ((k.write d old).finish c.pc s)))) ∧
     (k0.quiet = .ok () →
       (∃ t, exec (.crd d cr) s = .next t ∧ (t.scalar s.cur).map (·.x) = some (c.set d old).x) ∧
       (¬closed →
         (∃ t, exec (.cwr cr a) s = .next t ∧ (t.scalar s.cur).map (·.x) = some c.x) ∧
         (∃ t, exec (.crs d cr a) s = .next t ∧ (t.scalar s.cur).map (·.x) = some (c.set d old).x) ∧
         (∃ t, exec (.crc d cr a) s = .next t ∧ (t.scalar s.cur).map (·.x) = some (c.set d old).x))) ∧
     (closed → ∀ i ∈ [Instr.cwr cr a, .crs d cr a, .crc d cr a], exec i s = s.takeTrap s.cur { cause := 2 } c.pc c.pc) ∧
     (∀ die, n = 0x003 → s.cur = .scc die → exec (.cwr cr a) s = .next (s.performed c c.advance))) ∧
  (∀ (s : State) (c : Scalar) (a : Reg), s.Issues c .common [] [a] →
     let v := c.get a
     let mode (old : Nat) : Nat := if v.toNat % 8 < 6 then v.toNat % 8 else old
     exec (.cwr 0x004 a) s = .next (s.performed c { c.advance with fround := BitVec.ofNat 3 (mode c.fround.toNat) }) ∧
     exec (.cwr 0x005 a) s =
       .next (s.performed c { c.advance with vround := BitVec.ofNat 5 (v.toNat / 8 % 4 * 8 + mode (c.vround.toNat % 8)) }) ∧
     ((Ctx.mk s s.cur c).quiet = .ok () → ∃ f : BitVec 10,
       exec (.cwr 0x006 a) s = .next (s.performed c { c.advance with fflags := f }) ∧
       fflagsWord f = v &&& 0x1F1F))


/-- The supervisor registers that the maps of the spec assign (R284, R291, R314 and the chapters of Book II). -/
def supervisorNumbers : List Nat :=
  [0x800, 0x801, 0x802, 0x803, 0x804, 0x805, 0x808, 0x810, 0x811, 0x812, 0x813, 0x820, 0x830, 0x831, 0x832, 0x833, 0x840, 0x841, 0x842,
   0x850, 0x851, 0x852, 0x853, 0x854, 0x855, 0x856, 0x857, 0x858, 0x859, 0x860, 0x861, 0x862, 0x863, 0x864, 0x865, 0x866,
   0x870, 0x871, 0x872, 0x873, 0x874, 0x875, 0x876, 0x880, 0x881]

/-- The monitor and debug registers that the maps of the spec assign (R353, R355, R367). -/
def monitorNumbers : List Nat :=
  [0xB00, 0xB01, 0xB10, 0xB11, 0xB12, 0xB13, 0xB14, 0xB15, 0xB16, 0xB17, 0xB18, 0xB19, 0xB1A, 0xB1B,
   0xC00, 0xC01, 0xC02, 0xC03, 0xC04, 0xC08, 0xC09, 0xC0A, 0xC0B, 0xC0C, 0xC10]

/-- R83, R95, R113: a supervisor, monitor or debug register that exists traps with cause 0x02 at kernel level. R280: a monitor or debug register traps with
cause 0x02 on a stream controller core. R95, R284: a number that no chapter assigns traps with cause 0x01 on every party. Said of every form of access, none of
which reads or writes anything. -/
def Obligations.RegistersOutOfReachTrap : Prop :=
  ∀ (s : State) (c : Scalar) (d a : Reg) (cr : BitVec 12), s.Issues c .common [] [] →
    let n := cr.toNat
    let all (cause : Nat) : Prop := ∀ i ∈ [Instr.crd d cr, .cwr cr a, .crs d cr a, .crc d cr a],
      exec i s = s.takeTrap s.cur { cause := cause } c.pc c.pc
    ((∀ die, s.cur ≠ .scc die) → n ∈ supervisorNumbers ∨ n ∈ monitorNumbers → all 2) ∧
    ((∃ die, s.cur = .scc die) → n ∈ monitorNumbers → all 2) ∧
    (0x019 ≤ n → n ∉ supervisorNumbers → n ∉ monitorNumbers → all 1)

/-- R83: the eight supervisor functions of major 0x1C trap with cause 0x02 on a vector hart and with cause 0x01 on a matrix control core or a
copy sequencer. R83: a major that a party's kind does not execute traps with cause 0x01 on it: the vector, group, fork, expert and wait words on the
engines, the stream words on a matrix control core, the matrix words elsewhere. -/
def Obligations.UnitsRefuseForeignWords : Prop :=
  (∀ (s : State) (c : Scalar) (d a b : Reg), s.scalar s.cur = some c → (∀ die, s.cur ≠ .scc die) →
     let cause := match s.cur with
       | .vec _ => 2
       | _ => 1
     ∀ i ∈ [Instr.eret, .tlbinv a, .ctxsave a, .ctxload a, .klaunch d a, .kwait a, .kkill a, .kprio a b],
       exec i s = s.takeTrap s.cur { cause := cause } c.pc c.pc) ∧
  (∀ (s : State) (c : Scalar) (d a b : Reg) (j : BitVec 7) (t : BitVec 3) (acc : BitVec 2) (off : BitVec 26) (m cls : BitVec 4) (f : AmoForm),
     s.scalar s.cur = some c →
     let refused (i : Instr) : Prop := exec i s = s.takeTrap s.cur { cause := 1 } c.pc c.pc
     ((∀ n, s.cur ≠ .vec n) → ∀ i ∈ [Instr.vsetvl d a b, .vcfg d a, .vsync, .vf off, .join a, .leave a, .grank d a, .step a, .pbind a b,
       .punbind a, .bar j a, .bara j a, .barw j, .gbar a, .forkM a b, .forkC a b, .forkH d a b, .rdvM, .rdvC, .rdvMc, .qdesc acc a b, .creloc a b,
       .xlook d a, .xpark d a m, .xwake d m, .xlayer d, .xrepl a b, .xhint a b], refused i) ∧
     ((∀ n, s.cur ≠ .vec n) → (∀ n, s.cur ≠ .seq n) →
       ∀ i ∈ [Instr.sbind t a b, .scpy t a b, .swait 0, .scancel t, .squery d t, .scpySeg t a b], refused i) ∧
     ((∀ n, s.cur ≠ .mcc n) → ∀ i ∈ [Instr.mldW a b, .mldA a b, .mma acc a b, .mzero acc, .mst acc a, .mcfg a, .mscale a b, .mwait], refused i) ∧
     ((∀ n, s.cur ≠ .vec n) → (∀ n, s.cur ≠ .scc n) → ∀ i ∈ [Instr.amoAdd d a b f, .amoAnd d a b f, .amoOr d a b f, .amoXor d a b f,
       .amoMin d a b f, .amoMax d a b f, .amoMinn d a b f, .amoMaxn d a b f, .amoSwap d a b f, .amoCas d a b f, .waitm d a b cls], refused i))


/-! ### Vector control on the scalar stream (R59, R60, R115, R116) -/

/-- R60, R115: vsetvl sets VL to the smaller of a, b (left out when it is s0) and MVL, and writes it to d; nothing else of the hart
moves but its accounting. R59, R115: vcfg on a hart without unfinished vector words sets NREGS to 8, 16, 32 or 64, bounds VL by the new MVL and answers it;
added registers read zero and are full, elements of kept registers that both lengths have stay. Any other value traps with cause
0x01. R115: vsync waits while a vector word of the hart is unfinished or a query is outstanding, and then only the next word follows. -/
def Obligations.VectorSetupWords : Prop :=
  ((∀ (s : State) (slot : Nat) (h : Hart) (d a b : Reg), s.OnHart slot h → s.Issues h.sc .vecOnly [d] [a, b] →
      (Ctx.mk s s.cur h.sc).ffPending = false →
      let t := if b = 0 then (h.sc.get a).toNat else min (h.sc.get a).toNat (h.sc.get b).toNat
      let vl := min t (8192 / h.nregs)
      ∃ u g, exec (.vsetvl d a b) s = .next u ∧ u.hart slot = some g ∧ u.mem = s.mem ∧
        g.accountsOf h = { h with vl := vl } ∧ g.sc = h.sc.wrote d (BitVec.ofNat 64 vl)) ∧
   (∀ (s : State) (slot : Nat) (h : Hart) (d a : Reg), s.OnHart slot h → s.Issues h.sc .vecOnly [d] [a] → h.quiet = true →
      let n := (h.sc.get a).toNat
      (n ∈ [8, 16, 32, 64] → ∃ u g, exec (.vcfg d a) s = .next u ∧ u.hart slot = some g ∧ g.nregs = n ∧
        g.vl = (if n = h.nregs then h.vl else min h.vl (8192 / n)) ∧ g.sc = h.sc.wrote d (BitVec.ofNat 64 (8192 / n)) ∧
        (h.nregs ∈ [8, 16, 32, 64] → ∀ r i, i < 8192 / n →
          (r < h.nregs → r < n → i < 8192 / h.nregs → g.elem r i = h.elem r i) ∧
          (h.nregs ≤ r → r < n → g.elem r i = 0 ∧ g.full.getLsbD r = true))) ∧
      (n ∉ [8, 16, 32, 64] → exec (.vcfg d a) s = s.takeTrap s.cur { cause := 1 } h.sc.pc h.sc.pc))) ∧
  (∀ (s : State) (slot : Nat) (h : Hart), s.OnHart slot h →
     (h.quiet = true → exec .vsync s = .next (s.performed h.sc h.sc.advance)) ∧
     (h.quiet = false → exec .vsync s = .next (s.markWaiting (.vec slot))))


/-- R54, R55, R87, R116: vf hands its block to the vector stream behind those already there, with the VL, NREGS, VROUND and s0 to s15 that stand at
it; a ninth block waits, address 0 traps with cause 0x01 and a target not aligned to 8 with cause 0x03. -/
def Obligations.VfHandsOverABlock : Prop :=
  ∀ (s : State) (slot : Nat) (h : Hart) (off : BitVec 26), s.OnHart slot h →
    let target := h.sc.pc + 4 * off.signExtend 64
    (target ≠ 0 → target.getLsbD 2 = false → (Ctx.mk s s.cur h.sc).ffPending = false →
      (h.blocks.length < 8 → ∃ u g b, exec (.vf off) s = .next u ∧ u.hart slot = some g ∧ g.blocks = h.blocks ++ [b] ∧ g.sc = h.sc.advance ∧
        b.pc = target ∧ b.elem = 0 ∧ b.issued = false ∧ b.env.vl = h.vl ∧ b.env.nregs = h.nregs ∧ b.env.vround = h.sc.vround ∧
        b.env.qd = h.qd ∧ ∀ i : Fin 16, b.env.s[i] = h.sc.x.getD i.val 0) ∧
      (8 ≤ h.blocks.length → exec (.vf off) s = .next (s.markWaiting (.vec slot)))) ∧
    (target = 0 → exec (.vf off) s = s.takeTrap s.cur { cause := 1 } h.sc.pc h.sc.pc) ∧
    (target ≠ 0 → target.getLsbD 2 = true → exec (.vf off) s = s.takeTrap s.cur { cause := 3, addr := target.toNat } h.sc.pc h.sc.pc)

/-! ### Groups, steps and barriers (R58, R209 to R221) -/

/-- R58, R219: join adds the hart to a group of 1 to 1,023 and leave takes it out; both trap with cause 0x0D on group 0 and above 1,023; grank
answers the number of members with a lower HARTID, or -1 for a group that the hart is not in. (The log of Sillage is off.) -/
def Obligations.GroupMembership : Prop :=
  ∀ (s : State) (slot : Nat) (h : Hart) (d a : Reg), s.OnHart slot h → s.Issues h.sc .vecOnly [d] [a] → s.dbg.silMode = 0 →
    let g := (h.sc.get a).toNat
    (1 ≤ g → g ≤ 1023 → h.quiet = true →
      ((g ∈ h.groups ∨ ((s.members h.ctx g h.kid).length < 2048 ∧ h.groups.length < 16 ∧ s.stepInProgress h.ctx g h.kid = false ∧
          s.gbarInProgress h.ctx g h.kid = false)) →
        ∃ t h', exec (.join a) s = .next t ∧ t.hart slot = some h' ∧ h'.sc = h.sc.advance ∧ ∀ x, x ∈ h'.groups ↔ x = g ∨ x ∈ h.groups) ∧
      (∃ t h', exec (.leave a) s = .next t ∧ t.hart slot = some h' ∧ h'.sc = h.sc.advance ∧ ∀ x, x ∈ h'.groups ↔ x ∈ h.groups ∧ x ≠ g)) ∧
    (g = 0 ∨ 1023 < g → ∀ i ∈ [Instr.join a, .leave a], exec i s = s.takeTrap s.cur { cause := 0x0D } h.sc.pc h.sc.pc) ∧
    (g ≤ 1023 → exec (.grank d a) s = .next (s.performed h.sc (h.sc.wrote d
      (if h.inGroup h.ctx g h.kid = true
        then BitVec.ofNat 64 (((s.members h.ctx g h.kid).filter fun e => e.2.hartid < h.hartid).length) else 0xFFFFFFFFFFFFFFFF)))) ∧
    (1023 < g → exec (.grank d a) s = s.takeTrap s.cur { cause := 0x0D } h.sc.pc h.sc.pc)

/-- R215, R220: a member that arrives in a step or a gbar is parked with its program counter at the word, and is let go at once exactly when it
is the last of its group; a member that has been let go goes on, with the next word. (The log of Sillage is off.) -/
def Obligations.StepAndGbar : Prop :=
  ∀ (s : State) (slot : Nat) (h : Hart) (a : Reg) (gbar : Bool), s.OnHart slot h → s.Issues h.sc .vecOnly [] [a] → s.dbg.silMode = 0 →
    let g := (h.sc.get a).toNat
    let i : Instr := if gbar then .gbar a else .step a
    (Ctx.mk s s.cur h.sc).groupCheck h g = .ok () →
    (h.parked = some ⟨g, gbar, true⟩ → ∃ t h', exec i s = .next t ∧ t.hart slot = some h' ∧ t.mem = s.mem ∧ h'.parked = none ∧
      h'.sc = h.sc.advance ∧ h'.accountsOf h = { h with parked := none }) ∧
    (h.parked = none → h.quiet = true → (Ctx.mk s s.cur h.sc).copiesInto h g = false →
      let last := (s.setHart slot { h with parked := some ⟨g, gbar, false⟩ }).allArrived h.ctx g h.kid gbar
      ∃ t h', exec i s = .next t ∧ t.hart slot = some h' ∧ h'.sc = h.sc ∧ h'.parked = some ⟨g, gbar, last⟩ ∧
        (last = false ∨ gbar = true → t.mem = s.mem))

/-- R212 to R215: settling a region leaves no store pending in it. A byte that is stored whole under PRIO takes the value of the winning store, the last of
the greatest priority, and under FAULT that of the last; a 4-bit store alone replaces its nibble (R145). Under SUM a stored word takes the sum of its stores:
rounded once for f32, modulo 2^32 for i32 and n32, with status bit 0 when an exact sum leaves the type's range. Every other byte stays but the region's
status word, which the device writes whole with the flags of the region so far. -/
def Obligations.StepSettlesRegions : Prop :=
  ∀ (s : State) (r : Region), s.Inv →
    let t := s.settle r
    let status (k : Nat) : Prop := r.status ≤ k ∧ k < r.status + 4
    let covers (p : PlaneStore) (k : Nat) : Prop := r.key + p.off ≤ k ∧ k < r.key + p.off + p.bytes.length
    (∀ x ∈ t.regions, x.key = r.key → x.stores = []) ∧
    (∀ k, (∀ p ∈ r.stores, ¬covers p k) → ¬status k → (r.rule = 1 → ∀ p ∈ r.stores, p.off % 4 = 0 ∧ p.bytes.length = 4) →
      Memory.read k t.mem = Memory.read k s.mem) ∧
    (r.rule ≠ 1 →
      leNat (Memory.reads t.mem r.status 4) = r.flags % 2 ^ 32 ∧
      (∀ pre p post k, r.stores = pre ++ p :: post → p.part = 0 → covers p k → ¬status k →
        (∀ q ∈ pre, covers q k → r.rule = 0 → s.prioKey r q ≤ s.prioKey r p) →
        (∀ q ∈ post, covers q k → r.rule = 0 ∧ s.prioKey r q < s.prioKey r p) →
        Memory.read k t.mem = p.bytes.getD (k - (r.key + p.off)) 0) ∧
      (∀ p b rest, r.stores = [p] → 0 < p.part → p.bytes = b :: rest → ¬status (r.key + p.off) →
        (Memory.read (r.key + p.off) t.mem).toNat = if p.part = 2 then (Memory.read (r.key + p.off) s.mem).toNat % 16 + b.toNat / 16 * 16
          else (Memory.read (r.key + p.off) s.mem).toNat / 16 * 16 + b.toNat % 16)) ∧
    (r.rule = 1 → (∀ p ∈ r.stores, p.off % 4 = 0 ∧ p.bytes.length = 4) →
      let xs (off : Nat) : List Slot := (r.stores.filter fun p => p.off = off).map fun p => BitVec.ofNat 32 (leNat p.bytes)
      let signed (off : Nat) : Int := ((xs off).map fun x => x.toInt).sum
      let unsigned (off : Nat) : Nat := ((xs off).map fun x => x.toNat).sum
      let leaves (off : Nat) : Prop := (r.type = 1 ∧ (signed off < -(2 ^ 31) ∨ 2 ^ 31 ≤ signed off)) ∨ (r.type = 2 ∧ 2 ^ 32 ≤ unsigned off)
      (∀ p ∈ r.stores, (∀ k, covers p k → ¬status k) →
        leNat (Memory.reads t.mem (r.key + p.off) 4) = match r.type with
          | 0 => (sumF32 (xs p.off)).toNat
          | 1 => (signed p.off % 2 ^ 32).toNat
          | _ => unsigned p.off % 2 ^ 32) ∧
      (r.type ≤ 2 → (∃ p ∈ r.stores, leaves p.off) → leNat (Memory.reads t.mem r.status 4) = (r.flags ||| 1) % 2 ^ 32) ∧
      (r.type ≤ 2 → (∀ p ∈ r.stores, ¬leaves p.off) → leNat (Memory.reads t.mem r.status 4) = r.flags % 2 ^ 32))

/-- R221: bara arrives at a barrier and goes on; the arrival of the last of n ends the phase. A misuse (n outside 1 to 8, a pending arrival, a count
other than the phase's) traps with cause 0x0D. barw ends when its phase has ended and the hart's earlier vector words are done, waits before, and traps with cause
0x0D without an arrival. When the barrier has broken it traps with cause 0x0D too and the record of the arrival is gone (R221 for a hart that waits; for a later barw
the model's choice, log 66). bar is both. (The log of Sillage is off.) -/
def Obligations.NamedBarriers : Prop :=
  ∀ (s : State) (slot : Nat) (h : Hart) (j : BitVec 7) (a : Reg), s.OnHart slot h → s.Issues h.sc .vecOnly [] [a] → s.dbg.silMode = 0 →
    let n := (h.sc.get a).toNat
    let c := slotCluster slot
    let b := tblGet (⟨0, 0, 0⟩ : Barrier) j.toNat (s.cluster c).bars
    let idle := ∀ x ∈ h.bars, x.1 ≠ j.toNat
    let fits := 1 ≤ n ∧ n ≤ 8 ∧ idle ∧ (b.arrived = 0 ∨ n = b.count)
    (fits → h.quiet = true → ∃ t h', exec (.bara j a) s = .next t ∧ t.hart slot = some h' ∧ h'.sc = h.sc.advance ∧
      h'.bars = h.bars ++ [(j.toNat, .phase b.phase)] ∧
      tblGet (⟨0, 0, 0⟩ : Barrier) j.toNat (t.cluster c).bars =
        (if b.arrived + 1 = n then ⟨n, 0, b.phase + 1⟩ else ⟨n, b.arrived + 1, b.phase⟩)) ∧
    (¬fits → exec (.bara j a) s = s.takeTrap s.cur { cause := 0x0D } h.sc.pc h.sc.pc) ∧
    (idle → exec (.barw j) s = s.takeTrap s.cur { cause := 0x0D } h.sc.pc h.sc.pc) ∧
    (∀ pre x post, h.bars = pre ++ (j.toNat, x) :: post → (∀ y ∈ pre, y.1 ≠ j.toNat) →
      let ends := x = .ended ∨ ∃ p, x = .phase p ∧ p < b.phase
      (ends → h.quiet = true →
        ∃ t h', exec (.barw j) s = .next t ∧ t.hart slot = some h' ∧ h'.sc = h.sc.advance ∧ h'.bars = h.bars.filter (·.1 ≠ j.toNat)) ∧
      (ends → h.quiet = false → exec (.barw j) s = .next (s.markWaiting s.cur)) ∧
      (¬ends → x ≠ .broken → exec (.barw j) s = .next (s.markWaiting s.cur)) ∧
      (x = .broken → exec (.barw j) s =
        (s.setHart slot { h with bars := h.bars.filter (·.1 ≠ j.toNat), barIn := none }).takeTrap s.cur { cause := 0x0D } h.sc.pc h.sc.pc) ∧
      (ends → h.quiet = true → h.barIn = some j.toNat → ∃ t h', exec (.bar j a) s = .next t ∧ t.hart slot = some h' ∧ h'.sc = h.sc.advance ∧
        h'.bars = h.bars.filter (·.1 ≠ j.toNat) ∧ h'.barIn = none)) ∧
    (fits → h.quiet = true → h.barIn = none →
      (b.arrived + 1 = n → ∃ t h', exec (.bar j a) s = .next t ∧ t.hart slot = some h' ∧ h'.sc = h.sc.advance ∧ h'.bars = h.bars) ∧
      (b.arrived + 1 ≠ n → ∃ t h', exec (.bar j a) s = .next t ∧ t.hart slot = some h' ∧ h'.sc = h.sc ∧ h'.waiting = true ∧
        h'.barIn = some j.toNat))

/-- R209, R216: pbind binds the region that its record names to its group, with its status word zero and no store pending; punbind releases the
region at its address and discards the stores of the step: the present plane stays as the plain contents of its range, a scratchpad shadow is zeroed, and no other
byte moves. -/
def Obligations.PlaneBinding : Prop :=
  ∀ (s : State) (slot : Nat) (h : Hart) (a b : Reg), s.OnHart slot h → s.Issues h.sc .vecOnly [] [a, b] → h.quiet = true →
    let k0 : Ctx := ⟨s, s.cur, h.sc⟩
    let va := (h.sc.get a).toNat
    let g := (h.sc.get b).toNat
    (∀ key p, k0.recordPlace va 0x0D = .ok key → k0.groupCheck h g = .ok () →
      let num (off n : Nat) : Nat := leNat (Memory.reads s.mem (key + off) n)
      let base := num 0 8
      let size := num 8 4
      base % 4096 = 0 → base < 2 ^ 57 → size % 4096 = 0 → 0 < size → size ≤ (if p.kind = 2 then 2 ^ 20 else 2 ^ 21) → num 12 1 ≤ 2 →
      num 13 1 ≤ (if num 12 1 = 1 then 2 else 0) → num 14 2 = 0 → num 20 12 = 0 →
      s.regionPlace (h.who slot) base size = some p →
      let r : Region := ⟨p.kind == 2, p.home, p.key - (if p.kind = 2 then scratchKey p.home 0 else planeKey p.home 0), size, num 12 1,
        num 13 1, key + 16, h.ctx, g, h.kid, base, [], 0, [], false⟩
      s.regionFits r = true →
      ∃ t, exec (.pbind a b) s = .next t ∧ t.regions = s.regions ++ [r] ∧ t.scalar s.cur = some h.sc.advance ∧
        (s.Inv → leNat (Memory.reads t.mem r.status 4) = 0)) ∧
    (∀ p r, s.anyScratch (h.who slot) va = some p → va < 2 ^ 57 → s.regions.find? (fun x => x.key == p.key) = some r →
      (h.who slot).member r = true → s.stepInProgress h.ctx r.group r.kid = false →
      let shadow (k : Nat) : Prop := r.scratch = true ∧ r.key + r.size ≤ k ∧ k < r.key + 2 * r.size
      ∃ t, exec (.punbind a) s = .next t ∧ t.regions = s.regions.filter (· ≠ r) ∧ t.scalar s.cur = some h.sc.advance ∧
        (s.Inv → ∀ k, (¬shadow k → Memory.read k t.mem = Memory.read k s.mem) ∧ (shadow k → Memory.read k t.mem = 0)))

/-! ### Forks, rendezvous and halt (R168, R226 to R229) -/

/-- R168, R169, R179, R226: fork.m and fork.c start a program on the cluster's free engine: program counter a, s2 := b, every other register
zero; fork.m copies the numeric registers, which fork.c's program begins with zero, and sets every chaining bit of the accumulators that b claims. A busy engine makes the hart
wait, and a misaligned entry traps with cause 0x03. R228: a rendezvous waits while the hart's named programs run, and else only the next word follows. -/
def Obligations.ForksAndRendezvous : Prop :=
  (∀ (s : State) (slot : Nat) (h : Hart) (a b : Reg), s.OnHart slot h → s.Issues h.sc .vecOnly [] [a, b] →
     let c := h.sc
     let pc := c.get a
     let k := slotCluster slot
     let begins (g : Scalar) : Prop := g.pc = pc ∧ ∀ r, g.get r = if r = 2 then c.get b else 0
     (pc.toNat % 4 = 0 → (s.cluster k).mcc = none → ∃ t m, exec (.forkM a b) s = .next t ∧ (t.cluster k).mcc = some m ∧ begins m.sc ∧
       m.sc.fround = c.fround ∧ m.sc.vround = c.vround ∧ m.sc.fflags = c.fflags ∧ m.slot = slot ∧ m.begun = false ∧ m.claims = (c.get b).setWidth 4 ∧ m.w = 32 ∧ t.scalar s.cur = some c.advance ∧
       ∀ j : Fin 4, (t.cluster k).chain[j] = if (c.get b).getLsbD j.val then BitVec.allOnes 128 else (s.cluster k).chain[j]) ∧
     (pc.toNat % 4 = 0 → (s.cluster k).seq = none → ∃ t q, exec (.forkC a b) s = .next t ∧ (t.cluster k).seq = some q ∧ begins q.sc ∧
       q.sc.fround = 0 ∧ q.sc.vround = 0 ∧ q.sc.fflags = 0 ∧ q.slot = slot ∧ q.begun = false ∧ (∀ j : Fin 8, q.tok[j] = Token.idle) ∧ t.scalar s.cur = some c.advance) ∧
     (pc.toNat % 4 = 0 → (s.cluster k).mcc ≠ none → exec (.forkM a b) s = .next (s.markWaiting s.cur)) ∧
     (pc.toNat % 4 = 0 → (s.cluster k).seq ≠ none → exec (.forkC a b) s = .next (s.markWaiting s.cur)) ∧
     (pc.toNat % 4 ≠ 0 → ∀ i ∈ [Instr.forkM a b, .forkC a b],
       exec i s = s.takeTrap s.cur { cause := 3, addr := pc.toNat } c.pc c.pc)) ∧
  (∀ (s : State) (slot : Nat) (h : Hart), s.OnHart slot h →
     let m := (s.cluster (slotCluster slot)).mcc.any fun m => m.slot == slot
     let q := (s.cluster (slotCluster slot)).seq.any fun q => q.slot == slot
     let ans (i : Instr) (busy : Bool) : Prop :=
       (busy = false → exec i s = .next (s.performed h.sc h.sc.advance)) ∧ (busy = true → exec i s = .next (s.markWaiting s.cur))
     ans .rdvM m ∧ ans .rdvC q ∧ ans .rdvMc (m || q))

/-- R57, R227: fork.h creates a hart of the kernel with the next HARTID, at a with s2 := b, on the first cluster in fork order that can take it,
and answers the HARTID; where no cluster can take one it answers -1 and creates nothing. -/
def Obligations.ForkHartCreates : Prop :=
  ∀ (s : State) (slot : Nat) (h : Hart) (d a b : Reg) (kn : Kernel), s.OnHart slot h → s.Issues h.sc .vecOnly [d] [a, b] →
    h.quiet = true → (h.sc.get a).toNat % 4 = 0 → s.kernel h.ctx h.kid = some kn → s.clkReq = s.clkCur →
    (∀ c new, (forkOrder (slotCluster slot)).find? (fun x => s.clusterTakes x kn) = some c → s.freeHartSlot c = some new →
      ∃ t g, exec (.forkH d a b) s = .next t ∧ s.hart new = none ∧ t.hart new = some g ∧ g.hartid = kn.nextHart ∧ g.ctx = kn.ctx ∧
        g.kid = kn.kid ∧ g.sc.pc = h.sc.get a ∧ g.sc.get 2 = h.sc.get b ∧ g.nregs = kn.nregs ∧ g.vl = 0 ∧ g.state = .running ∧
        t.scalar s.cur = some (h.sc.wrote d (BitVec.ofNat 64 kn.nextHart))) ∧
    ((∀ c ∈ forkOrder (slotCluster slot), s.clusterTakes c kn = false) →
      exec (.forkH d a b) s = .next (s.performed h.sc (h.sc.wrote d 0xFFFFFFFFFFFFFFFF)))


/-- R182, R226: halt on a matrix control core waits for its operations and then frees the core and the chaining bits of its claims; on a copy
sequencer it waits for its copies and frees the sequencer. A program that a fork left starts once the vector words before its fork have
committed. R229, R308: halt of a vector hart whose streams, tokens and forked programs have settled and that waits at no barrier retires it: its slot is
free. The last hart of a running kernel that is wholly placed ends the kernel. -/
def Obligations.HaltAndStart : Prop :=
  (∀ (s : State) (k : Nat),
     (∀ m, s.cur = .mcc k → (s.cluster k).mcc = some m →
       ((s.cluster k).fillq = [] → (s.cluster k).arrq = [] → ∃ t, exec .halt s = .next t ∧ (t.cluster k).mcc = none ∧
         ∀ j : Fin 4, (t.cluster k).chain[j] = if m.claims.getLsbD j.val then 0 else (s.cluster k).chain[j]) ∧
       ((s.cluster k).fillq ≠ [] ∨ (s.cluster k).arrq ≠ [] → exec .halt s = .next s)) ∧
     (∀ q, s.cur = .seq k → (s.cluster k).seq = some q →
       ((∀ j : Fin 8, q.tok[j].state ≠ .busy) → ∃ t, exec .halt s = .next t ∧ (t.cluster k).seq = none ∧ t.mem = s.mem) ∧
       ((∃ j : Fin 8, q.tok[j].state = .busy) → exec .halt s = .next s)) ∧
     (∀ m h, (s.cluster k).mcc = some m → m.begun = false → s.hart m.slot = some h → h.pastFork m.after = true →
       ∃ t, exec (.matrixProgramStart k) s = .next t ∧ (t.cluster k).mcc = some { m with begun := true, start := s.time } ∧ t.mem = s.mem) ∧
     (∀ q h, (s.cluster k).seq = some q → q.begun = false → s.hart q.slot = some h → h.pastFork q.after = true →
       ∃ t, exec (.copyProgramStart k) s = .next t ∧ (t.cluster k).seq = some { q with begun := true, start := s.time } ∧ t.mem = s.mem)) ∧
  (∀ (s : State) (slot : Nat) (h : Hart), s.OnHart slot h → (Ctx.mk s s.cur h.sc).settled h = .ok () →
     tokenTrap h.tok.toList 0xFF = none → h.bars = [] → (∀ q ∈ h.q.toList, ∀ t, q = some t → t.pending = []) →
     (∀ other g, other ≠ slot → s.hart other = some g → g.ofKernel h.ctx h.kid = true →
       ∃ t, exec .halt s = .next t ∧ t.hart slot = none ∧ (t.hart other).isSome = true ∧ t.kernels = s.kernels) ∧
     (∀ k, s.kernel h.ctx h.kid = some k → k.state = .running → k.placed = k.n → k.done = 0 →
       (∀ e ∈ s.harts, e.1 ≠ slot → e.2.ofKernel h.ctx h.kid = false) →
       ∃ t, exec .halt s = .next t ∧ t.hart slot = none ∧ t.kernel h.ctx h.kid = none))

/-! ### Streams and copies (R158 to R165) -/

/-- R83, R159, R160: on a vector hart or a copy sequencer, sbind of two s0 unbinds; else it binds the pattern of its record to the stream register, for
reading with b = 0 and for writing with b = 1, at its first element. It waits for the vector words before it (R238) and for a write stream's committed elements. A
record that is no pattern, or a b above 1, traps with cause 0x12. R159, R160: a hart's read stream fetches its next element widened, and its write stream
performs its oldest committed element; an element that cannot be performed leaves its error in the stream, but a nibble that meets an uncorrectable error in the Cellar is a
context fault (R207). -/
def Obligations.Streams : Prop :=
  (∀ (s : State) (c : Scalar) (j : BitVec 3) (a b : Reg), s.Issues c .stream [] [a, b] →
     let binds := ¬(a = 0 ∧ b = 0)
     let stands := (Ctx.mk s s.cur c).streamBusy j.toNat (!(a == 0 && b == 0)) = false ∧
       ∀ t, (s.streams s.cur).getD j.toNat none = some t → t.pending = []
     let va := (c.get a).toNat
     let dir := (c.get b).toNat
     let w := s.who s.cur
     (¬stands → exec (.sbind j a b) s = .next (s.markWaiting s.cur)) ∧
     (stands → ¬binds → ∃ t, exec (.sbind j a b) s = .next t ∧ (t.streams s.cur).getD j.toNat none = none ∧
       t.scalar s.cur = some c.advance ∧ t.mem = s.mem) ∧
     (stands → binds →
       (∀ p, s.readPattern w va = .ok (some p) → p.segs = 0 → dir ≤ 1 →
         (s.setStream s.cur j.toNat none).portUsed s.cur.cluster (kindPort (s.patKind w p)) < 4 →
         ∃ t x, exec (.sbind j a b) s = .next t ∧ t.scalar s.cur = some c.advance ∧ t.mem = s.mem ∧
           (t.streams s.cur).getD j.toNat none = some x ∧ x.pat = p ∧ x.write = (dir == 1) ∧ x.pos = 0 ∧ x.vround = c.vround) ∧
       (va % 32 ≠ 0 → exec (.sbind j a b) s = s.takeTrap s.cur { cause := 3, addr := va } c.pc c.pc) ∧
       (s.readPattern w va = .ok none ∨ (∃ p, s.readPattern w va = .ok (some p) ∧ (p.segs ≠ 0 ∨ 1 < dir)) →
         exec (.sbind j a b) s = s.takeTrap s.cur { cause := 0x12, addr := va, info := j.toNat } c.pc c.pc))) ∧
  (∀ (s : State) (slot q : Nat) (h : Hart) (x : Stream), s.hart slot = some h → q < 8 → h.q.getD q none = some x →
     let w := h.streamWho slot q
     let n := x.pos + x.fetched.length
     (x.write = false → x.err = none → n < x.pat.count →
       (∀ code p, s.engineRead w x.pat.fmt (x.pat.nib n) = .done (code, p) →
         ∃ t h', exec (.readStreamFetch slot q) s = .next t ∧ t.hart slot = some h' ∧ t.mem = s.mem ∧
           h'.q.getD q none = some { x with fetched := x.fetched ++ [widen x.pat.fmt code (some 0)] }) ∧
       (∀ e va k, s.engineRead w x.pat.fmt (x.pat.nib n) = .failed e va k →
         ∃ t h', exec (.readStreamFetch slot q) s = .next t ∧ t.hart slot = some h' ∧ t.mem = s.mem ∧
           h'.q.getD q none = some { x with err := some (e, va) })) ∧
     (∀ code rest, x.write = true → x.pending = code :: rest →
       let meets := s.engineWrite w x.pat.fmt (x.pat.nib x.done) code.toNat .other
       (∀ u p, meets = .done (u, p) →
         ∃ t h', exec (.writeStreamPerform slot q) s = .next t ∧ t.hart slot = some h' ∧ t.mem = u.mem ∧
           h'.q.getD q none = some { x with pending := rest, done := x.done + 1 }) ∧
       (∀ e va k, meets = .failed e va k → s.cellarStruck w x.pat.fmt (x.pat.nib x.done) e = none →
         ∃ t h', exec (.writeStreamPerform slot q) s = .next t ∧ t.hart slot = some h' ∧ t.mem = s.mem ∧
           h'.q.getD q none = some { x with pending := [], err := some (e, va) }) ∧
       (∀ e va k stack pa, meets = .failed e va k → s.cellarStruck w x.pat.fmt (x.pat.nib x.done) e = some (stack, pa) →
         exec (.writeStreamPerform slot q) s = .next (s.contextFault w.ctx stack false pa))))

/-- R83, R162, R163: on a vector hart or a copy sequencer, scpy and scpy.seg with an idle token put their command in the cluster's engine and make the token
busy; patterns that do not agree put the token in error with nothing copied; a busy token makes the word wait, and one in error traps with cause 0x12. R164, R165: swait waits
for its tokens and traps with cause 0x12 for the lowest in error; scancel stops the copy and leaves the token idle with the elements it had performed; squery answers state
and performed elements. -/
def Obligations.CopyWords : Prop :=
  (∀ (s : State) (c : Scalar) (j : BitVec 3) (a b : Reg) (seg : Bool), s.Issues c .stream [] [a, b] →
     let i : Instr := if seg then .scpySeg j a b else .scpy j a b
     let va := (c.get a).toNat
     let vb := (c.get b).toNat
     let w := s.who s.cur
     let cl := s.cur.cluster
     let tk := (s.tokens s.cur).getD j.toNat Token.idle
     (tk.state = .idle → va % 32 = 0 → vb % 32 = 0 → (Ctx.mk s s.cur c).quiet = .ok () →
       (∀ p q, s.readPattern w va = .ok (some p) → s.readPattern w vb = .ok (some q) → copyOk seg p q = true →
         s.portUsed cl (s.copyPort w p q) < 4 →
         ∃ t k, exec i s = .next t ∧ t.scalar s.cur = some c.advance ∧ t.mem = s.mem ∧
           ((t.tokens s.cur).getD j.toNat Token.idle).state = .busy ∧ (t.cluster cl).copies = (s.cluster cl).copies ++ [k] ∧ k.src = p ∧ k.dst = q ∧
           k.owner = s.cur ∧ k.tok = j.toNat ∧ k.pos = 0 ∧ k.started = false ∧ k.vround = c.vround) ∧
       (∀ p q, s.readPattern w va = .ok (some p) → s.readPattern w vb = .ok (some q) → copyOk seg p q = false →
         ∃ t, exec i s = .next t ∧ t.scalar s.cur = some c.advance ∧ t.mem = s.mem ∧
           ((t.tokens s.cur).getD j.toNat Token.idle).state = .error ∧ (t.cluster cl).copies = (s.cluster cl).copies)) ∧
     (tk.state = .busy → exec i s = .next (s.markWaiting s.cur)) ∧
     (tk.state = .error → exec i s = s.takeTrap s.cur { cause := 0x12, kind := 3, under := tk.under, addr := tk.addr, info := j.toNat } c.pc c.pc)) ∧
  (∀ (s : State) (c : Scalar) (d : Reg) (j : BitVec 3) (toks : BitVec 8), s.Issues c .stream [d] [] →
     let cl := s.cur.cluster
     let tok (i : Nat) : Token := (s.tokens s.cur).getD i Token.idle
     let performed : Nat := (((s.cluster cl).copies.find? fun k => k.owner == s.cur && k.tok == j.toNat).map (·.pos)).getD (tok j.toNat).done
     ((∀ i, i < 8 → toks.getLsbD i = true → (tok i).state = .idle) → exec (.swait toks) s = .next (s.performed c c.advance)) ∧
     ((∃ i, i < 8 ∧ toks.getLsbD i = true ∧ (tok i).state = .busy) → exec (.swait toks) s = .next (s.markWaiting s.cur)) ∧
     (∀ i, i < 8 → toks.getLsbD i = true → (tok i).state = .error → (∀ k, k < 8 → toks.getLsbD k = true → (tok k).state ≠ .busy) →
       (∀ k, k < i → toks.getLsbD k = true → (tok k).state ≠ .error) →
       exec (.swait toks) s = s.takeTrap s.cur { cause := 0x12, kind := 3, under := (tok i).under, addr := (tok i).addr, info := i } c.pc c.pc) ∧
     (∃ t, exec (.scancel j) s = .next t ∧ t.scalar s.cur = some c.advance ∧ t.mem = s.mem ∧
       (t.tokens s.cur).getD j.toNat Token.idle = ⟨.idle, performed, 0, 0⟩ ∧
       ∀ k ∈ (t.cluster cl).copies, ¬(k.owner = s.cur ∧ k.tok = j.toNat)) ∧
     exec (.squery d j) s = .next (s.performed c (c.wrote d (BitVec.ofNat 64 (min performed (2 ^ 32 - 1) * 2 ^ 32 +
       match (tok j.toNat).state with
       | .idle => 0
       | .busy => 1
       | .error => 2)))))


/-- R161, R162, R164: a copy of a vector hart or of a copy program starts when the earlier commands of its port have started. A started copy whose remaining
elements are all readable and writable completes: its token is idle with the count of its elements and it leaves the engine. A started copy that meets an element it
cannot perform fails: its token is in error with the cause and the elements before it performed. -/
def Obligations.CopyEngine : Prop :=
  ∀ (s : State) (cluster idx : Nat) (c : Copy), (s.cluster cluster).copies[idx]? = some c → c.tok < 8 →
    ((∃ slot h, c.owner = .vec slot ∧ s.hart slot = some h) ∨ (∃ k q, c.owner = .seq k ∧ (s.cluster k).seq = some q)) →
    let run := s.copyElems (s.copyWho c) c (c.dst.count - c.pos) c.pos [] []
    (c.started = false → (∀ x ∈ (s.cluster cluster).copies.take idx, x.port = c.port → x.started = true) →
      ∃ t, exec (.copyStart cluster idx) s = .next t ∧ (t.cluster cluster).copies[idx]? = some { c with started := true } ∧ t.mem = s.mem) ∧
    (c.started = true → run.2.2.2.2 = none → ∃ t, exec (.copyComplete cluster idx) s = .next t ∧
      (t.tokens c.owner).getD c.tok Token.idle = ⟨.idle, run.2.1, 0, 0⟩ ∧ (t.cluster cluster).copies = (s.cluster cluster).copies.eraseIdx idx ∧
      t.mem = run.1.mem) ∧
    (∀ side e va k, c.started = true → run.2.2.2.2 = some (side, .failed e va k) →
      (side = true → run.1.cellarStruck (s.copyWho c) c.dst.fmt (c.dst.nib (c.target run.2.1)) e = none) →
      ∃ t, exec (.copyFail cluster idx) s = .next t ∧ (t.tokens c.owner).getD c.tok Token.idle = ⟨.error, run.2.1, e, va⟩ ∧
        (t.cluster cluster).copies = (s.cluster cluster).copies.eraseIdx idx ∧ t.mem = run.1.mem)

/-! ### Vector words: element-wise (R37 to R42, R62, R68, R73, R86, R120 to R132, R136) -/

/-- R123, R124, R125, R127, R128: what each element-wise floating-point word leaves in its destination for every active element: the exact
result of its operands in the word's type, rounded once with the word's mode; the selections and sign words of R124; the BF16 functions;
the conversions. Elements that the mask leaves out, and everything else of the hart but its flags, its exception mask and, under SR, its
generators, stay. No flag that an element raises is enabled to trap. -/
def Obligations.VectorFloatWords : Prop :=
  ∀ (s : State) (slot : Nat) (h : Hart) (b : Block) (rest : List Block) (f : VR) (bf : Bool), s.AtWord slot h b rest →
    let slotA (e : Nat) : Slot := fpSlot bf (h.operandAt f.va e)
    let slotB (e : Nat) : Slot := fpSlot bf (h.operandAt f.vb e)
    let x (e : Nat) : Sys2Proof.Machine.Num := fpDec bf (h.operandAt f.va e)
    let y (e : Nat) : Sys2Proof.Machine.Num := fpDec bf (h.operandAt f.vb e)
    let z (e : Nat) : Sys2Proof.Machine.Num := fpDec bf (h.operandAt f.vc e)
    let wide (e : Nat) : Slot := h.operandAt f.va e
    let mode : Nat := (h.roundingAt b f 0).mode
    let ans (i : Instr) (rounds : Bool) (val : Nat → Slot × Flags) : Prop := i.wf = true → h.Fits b (i.uses 0) →
      (∀ e, h.live b f.mask e = true → flagTraps h.sc.fflags (val e).2 = false) → s.ElementsLeft slot h b rest i f rounds val
    let once (bf : Bool) (e : Nat) (v : Sys2Proof.Machine.Num × Flags) : Slot × Flags :=
      let r := fpRnd bf v.1 (h.roundingAt b f e)
      (r.1, v.2 ||| r.2)
    let fun' (e : Nat) : Sys2Proof.Machine.Num := fpDec true (h.operandAt f.va e)
    ans (.vaddFp bf f) true (fun e => once bf e (addNum mode (x e) (y e))) ∧
    ans (.vsubFp bf f) true (fun e => once bf e (subNum mode (x e) (y e))) ∧
    ans (.vmulFp bf f) true (fun e => once bf e (mulNum (x e) (y e))) ∧
    ans (.vfma bf f) true (fun e => once bf e (fmaSigned mode false false (x e) (y e) (z e))) ∧
    ans (.vfms bf f) true (fun e => once bf e (fmaSigned mode false true (x e) (y e) (z e))) ∧
    ans (.vfnma bf f) true (fun e => once bf e (fmaSigned mode true false (x e) (y e) (z e))) ∧
    ans (.vdiv bf f) true (fun e => once bf e (divNum (x e) (y e))) ∧ ans (.vsqrt bf f) true (fun e => once bf e (sqrtNum (x e))) ∧
    ans (.vminFp bf f) false (fun e => minMax false f32 slotOf (slotA e) (slotB e)) ∧
    ans (.vmaxFp bf f) false (fun e => minMax true f32 slotOf (slotA e) (slotB e)) ∧
    ans (.vabs bf f) false (fun e => (BitVec.ofNat 32 ((slotA e).toNat % 2 ^ 31), 0)) ∧
    ans (.vneg bf f) false (fun e => (slotA e ^^^ 0x80000000, 0)) ∧
    ans (.vcopysign bf f) false
      (fun e => (BitVec.ofNat 32 ((slotA e).toNat % 2 ^ 31 + (slotB e).toNat / 2 ^ 31 * 2 ^ 31), 0)) ∧
    ans (.vexp2 f) true (fun e => once true e (exp2Num (fun' e))) ∧ ans (.vlog2 f) true (fun e => once true e (log2Num (fun' e))) ∧
    ans (.vrcp f) true (fun e => once true e (rcpNum (fun' e))) ∧ ans (.vrsqrt f) true (fun e => once true e (rsqrtNum (fun' e))) ∧
    ans (.vtanh f) true (fun e => once true e (tanhNum (fun' e))) ∧
    ans (.vcvtBf16F32 f) true (fun e => once true e (f32 (wide e), 0)) ∧
    ans (.vcvtF32I32 f) true (fun e => roundF32 (Num.ofInt (wide e).toInt 0 false) mode 0 (h.roundingAt b f e).rnd) ∧
    ans (.vcvtF32N32 f) true (fun e => roundF32 (.fin false (wide e).toNat 0) mode 0 (h.roundingAt b f e).rnd) ∧
    ans (.vcvtI32F32 f) true (fun e =>
      let nan := if f.sat = 2 then 0x80000000 else 0
      let above := if f.sat = 2 then 0x80000000 else 0x7FFFFFFF
      match f32 (wide e) with
      | .nan .. => (nan, flagNV)
      | .inf neg => (if neg then 0x80000000 else above, flagNV)
      | .fin sg m ex =>
        let r := roundInt sg m ex mode (h.roundingAt b f e).rnd
        if r.1 < -(2 ^ 31) then (0x80000000, flagNV) else if 2 ^ 31 ≤ r.1 then (above, flagNV)
        else (BitVec.ofInt 32 r.1, if r.2 then flagNX else 0)) ∧
    ans (.vcvtN32F32 f) true (fun e =>
      let out (v : Slot) : Slot := if f.sat = 2 then 0xFFFFFFFF else v
      match f32 (wide e) with
      | .nan .. => (out 0, flagNV)
      | .inf neg => (if neg then out 0 else 0xFFFFFFFF, flagNV)
      | .fin sg m ex =>
        let r := roundInt sg m ex mode (h.roundingAt b f e).rnd
        if r.1 < 0 then (out 0, flagNV) else if 2 ^ 32 ≤ r.1 then (0xFFFFFFFF, flagNV)
        else (BitVec.ofInt 32 r.1, if r.2 then flagNX else 0)) ∧
    ans (.vround f) true (fun e => roundSlot (wide e) mode (h.roundingAt b f e).rnd) ∧
    ans (.vclass f) false (fun e => (1 <<< classBit (wide e), 0))

/-- R129, R130: the element-wise integer words and the words with an immediate, said over exact integers: results modulo 2^32, or clamped to the
signed or the unsigned range under the saturation field. Elements that the mask leaves out and everything else of the hart stay. -/
def Obligations.VectorIntegerWords : Prop :=
  ∀ (s : State) (slot : Nat) (h : Hart) (b : Block) (rest : List Block) (f : VR) (g : VI), s.AtWord slot h b rest →
    let sa (e : Nat) : Int := (h.operandAt f.va e).toInt
    let sb (e : Nat) : Int := (h.operandAt f.vb e).toInt
    let ua (e : Nat) : Nat := (h.operandAt f.va e).toNat
    let ub (e : Nat) : Nat := (h.operandAt f.vb e).toNat
    let n (e : Nat) : Nat := ub e % 32
    let ans (i : Instr) (val : Nat → Int) : Prop := i.wf = true → h.Fits b (i.uses 0) →
      s.ElementsLeft slot h b rest i f false fun e => (BitVec.ofInt 32 (val e), 0)
    let clamped (signed unsigned : Nat → Int) (e : Nat) : Int := match f.sat.toNat with
      | 0 => signed e
      | 1 => max (-(2 ^ 31)) (min (2 ^ 31 - 1) (signed e))
      | _ => max 0 (min (2 ^ 32 - 1) (unsigned e))
    let a (e : Nat) : Slot := h.operandAt g.va e
    let imm (i : Instr) (val : Nat → Int) : Prop := i.wf = true → h.Fits b (i.uses 0) →
      s.ElementsLeft slot h b rest i (viFields g) false fun e => (BitVec.ofInt 32 (val e), 0)
    ans (.vaddI32 f) (clamped (fun e => sa e + sb e) fun e => ua e + ub e) ∧
    ans (.vsubI32 f) (clamped (fun e => sa e - sb e) fun e => ua e - ub e) ∧
    ans (.vmulI32 f) (clamped (fun e => sa e * sb e) fun e => ua e * ub e) ∧
    ans (.vshl f) (clamped (fun e => sa e * 2 ^ n e) fun e => ua e * 2 ^ n e) ∧
    ans (.vmulh f) (fun e => (sa e * sb e).fdiv (2 ^ 32)) ∧ ans (.vmulhn f) (fun e => (ua e * ub e / 2 ^ 32 : Nat)) ∧
    ans (.vand f) (fun e => (ua e &&& ub e : Nat)) ∧ ans (.vor f) (fun e => (ua e ||| ub e : Nat)) ∧
    ans (.vxor f) (fun e => (ua e ^^^ ub e : Nat)) ∧
    ans (.vshr f) (fun e => (ua e / 2 ^ n e : Nat)) ∧ ans (.vsra f) (fun e => (sa e).fdiv (2 ^ n e)) ∧
    ans (.vminI32 f) (fun e => min (sa e) (sb e)) ∧ ans (.vmaxI32 f) (fun e => max (sa e) (sb e)) ∧
    ans (.vminn f) (fun e => (min (ua e) (ub e) : Nat)) ∧ ans (.vmaxn f) (fun e => (max (ua e) (ub e) : Nat)) ∧
    imm (.vaddi g) (fun e => (a e).toInt + g.imm.toInt) ∧ imm (.vandi g) (fun e => ((a e).toNat &&& g.imm.toNat : Nat)) ∧
    imm (.vori g) (fun e => ((a e).toNat ||| g.imm.toNat : Nat)) ∧ imm (.vxori g) (fun e => ((a e).toNat ^^^ g.imm.toNat : Nat)) ∧
    imm (.vshli g) (fun e => ((a e).toNat * 2 ^ g.imm.toNat : Nat)) ∧ imm (.vshri g) (fun e => ((a e).toNat / 2 ^ g.imm.toNat : Nat)) ∧
    imm (.vsrai g) (fun e => (a e).toInt.fdiv (2 ^ g.imm.toNat))

/-- R131, R132, R136: compares and mask words leave one bit a selected element in their mask, zero for an inactive element and from VL on; vid,
vmv, vsel and mtov leave their elements; mfromv tests the bit pattern. A mask or a register that the word does not name stays. -/
def Obligations.VectorMaskAndMoveWords : Prop :=
  ∀ (s : State) (slot : Nat) (h : Hart) (b : Block) (rest : List Block) (f : VR) (ty : BitVec 2) (cond : BitVec 3),
    s.AtWord slot h b rest →
    let bit (x : BitVec 7) (e : Nat) : Bool := (h.mask x.toNat).getLsbD e
    let x (e : Nat) : Sys2Proof.Machine.Num := fpDec (ty == 1) (h.operandAt f.va e)
    let y (e : Nat) : Sys2Proof.Machine.Num := fpDec (ty == 1) (h.operandAt f.vb e)
    let int (v : Slot) : Int := if ty = 2 then v.toInt else v.toNat
    let un (e : Nat) : Bool := (x e).isNaN || (y e).isNaN
    let float (e : Nat) : Bool := match cond.toNat with
      | 0 => !un e && eqNum (x e) (y e)
      | 1 => un e || !eqNum (x e) (y e)
      | 2 => !un e && ltNum (x e) (y e)
      | 3 => !un e && (ltNum (x e) (y e) || eqNum (x e) (y e))
      | 4 => !un e && ltNum (y e) (x e)
      | 5 => !un e && (ltNum (y e) (x e) || eqNum (x e) (y e))
      | 6 => un e
      | _ => !un e
    let whole (e : Nat) : Bool :=
      let p := int (h.operandAt f.va e)
      let q := int (h.operandAt f.vb e)
      match cond.toNat with
      | 0 => p == q
      | 1 => p != q
      | 2 => p < q
      | 3 => p ≤ q
      | 4 => q < p
      | _ => q ≤ p
    let flags (e : Nat) : Flags := if ty.toNat < 2 && ((x e).isSNaN || (y e).isSNaN || (2 ≤ cond.toNat && cond.toNat < 6 && un e))
      then flagNV else 0
    let bits (i : Instr) (d : Nat) (val : Nat → Bool × Flags) : Prop := i.wf = true → h.Fits b (i.uses 0) →
      (∀ e, h.live b f.mask e = true → flagTraps h.sc.fflags (val e).2 = false) → s.BitsLeft slot h b rest i f d val
    let mask (i : Instr) (val : Nat → Bool) : Prop := bits i f.vd.toNat fun e => (val e, 0)
    let elems (i : Instr) (val : Nat → Slot) : Prop := i.wf = true → h.Fits b (i.uses 0) →
      s.ElementsLeft slot h b rest i f false fun e => (val e, 0)
    bits (.vcmp ty cond f) f.vc.toNat (fun e => (if ty.toNat < 2 then float e else whole e, flags e)) ∧
    mask (.mand f) (fun e => bit f.va e && bit f.vb e) ∧ mask (.mor f) (fun e => bit f.va e || bit f.vb e) ∧
    mask (.mxor f) (fun e => bit f.va e != bit f.vb e) ∧ mask (.mandn f) (fun e => bit f.va e && !bit f.vb e) ∧
    mask (.mnot f) (fun e => !bit f.va e) ∧ mask (.mset f) (fun _ => true) ∧ mask (.mclr f) (fun _ => false) ∧
    mask (.mfromv f) (fun e => h.elem f.va.toNat e != 0) ∧
    elems (.mtov f) (fun e => if bit f.va e then 1 else 0) ∧ elems (.vid f) (fun e => BitVec.ofNat 32 e) ∧
    elems (.vmv f) (fun e => h.operandAt f.va e) ∧
    elems (.vsel f) (fun e => if bit f.vc e then h.operandAt f.va e else h.operandAt f.vb e)

/-! ### Vector words: whole words (R45 to R47, R91, R133, R134, R137 to R142, R252, R253) -/

/-- R91, R133, R137: mask counts and permutes with a VL above 0: each reads all its sources before it writes, leaves its result, and nothing else
of the hart changes but its accounts. -/
def Obligations.MaskCountsAndPermutes : Prop :=
  ∀ (s : State) (slot : Nat) (h : Hart) (b : Block) (rest : List Block) (f : VR), s.AtWord slot h b rest → 0 < b.env.vl →
    let vl := b.env.vl
    let act := h.activeBelow f.mask vl
    let counted := act.filter fun e => (h.mask f.va.toNat).getLsbD e
    let src (e : Nat) : Slot := h.operandAt f.va e
    let n := (h.sc.get (BitVec.ofNat 5 (f.vb.toNat - 64))).toNat % 2 ^ 32
    let same (j e : Nat) : Bool := (h.mask j).getLsbD e
    let single (i : Instr) (v : Slot) (w : Word) : Prop := i.wf = true → h.Fits b (i.uses 0) →
      s.WordLeft slot h b rest (exec i s) (h.withElems f.vd (· == 0) fun _ => v) same h.l
        (if f.vd.toNat < 64 then h.sc else h.sc.set (BitVec.ofNat 5 (f.vd.toNat - 64)) w) false
    let elems (i : Instr) (at' : Nat → Bool) (val : Nat → Slot) : Prop := i.wf = true → h.Fits b (i.uses 0) →
      s.WordLeft slot h b rest (exec i s) (h.withElems f.vd at' val) same h.l h.sc false
    let selected (e : Nat) : Bool := e < vl && h.selects f.mask e
    single (.mpop f) (BitVec.ofNat 32 counted.length) (BitVec.ofNat 64 counted.length) ∧
    (counted = [] → single (.mfirst f) 0xFFFFFFFF 0xFFFFFFFFFFFFFFFF) ∧
    (∀ e, e ∈ counted → (∀ x ∈ counted, e ≤ x) → single (.mfirst f) (BitVec.ofNat 32 e) (BitVec.ofNat 64 e)) ∧
    ((Instr.mlist f).wf = true → h.Fits b ((Instr.mlist f).uses 0) →
      s.WordLeft slot h b rest (exec (.mlist f) s) h.elem same (h.l.setIfInBounds f.vd.toNat counted) h.sc false) ∧
    elems (.vcompress f) (· < act.length) (fun e => src (act.getD e 0)) ∧
    elems (.vexpand f) selected (fun e => src (act.filter (· < e)).length) ∧
    elems (.vperm f) selected (fun e => if (h.operandAt f.vb e).toNat < vl then src (h.operandAt f.vb e).toNat else 0) ∧
    elems (.vslideup f) (fun e => selected e && n ≤ e) (fun e => src (e - n)) ∧
    elems (.vslidedn f) selected (fun e => if e + n < vl then src (e + n) else 0) ∧
    elems (.vbcast f) selected (fun _ => if n < vl then src n else 0)

/-- R45, R46, R47, R138, R139: what each reduction and scan with a VL above 0 leaves: the tree sum of the active elements (of their blocks' scaled
sums for vredsumb), the largest or smallest, the exact integer sum, the best element with its index, the running sums; the flags together,
and the exception mask. No flag that is raised is enabled to trap. -/
def Obligations.ReductionsAndScan : Prop :=
  ∀ (s : State) (slot : Nat) (h : Hart) (b : Block) (rest : List Block) (f : VR), s.AtWord slot h b rest → 0 < b.env.vl →
    let act := h.activeBelow f.mask b.env.vl
    let src (e : Nat) : Slot := h.operandAt f.va e
    let mode := if (h.roundingAt b f 0).mode = 5 then 0 else (h.roundingAt b f 0).mode
    let add (bf : Bool) : Slot → Slot → Slot × Flags := addIn bf mode f.sat.toNat
    let node (bf : Bool) (e : Nat) : Node := if e < b.env.vl && h.selects f.mask e then some (fpSlot bf (src e), 0) else none
    let masks (bits : Nat → Bool) (j e : Nat) : Bool := if excMaskOf f = some j then bits e else (h.mask j).getLsbD e
    let sc (fl : Flags) : Scalar := { h.sc with fflags := orFlags h.sc.fflags fl }
    let single (i : Instr) (v : Slot) (w : Word) (fl : Flags) : Prop := i.wf = true → h.Fits b (i.uses 0) → flagTraps h.sc.fflags fl = false →
      s.WordLeft slot h b rest (exec i s) (h.withElems f.vd (· == 0) fun _ => v) (masks fun e => e == 0 && indicator fl) h.l
        (if 80 ≤ f.vd.toNat ∧ f.vd.toNat < 96 then (sc fl).set (BitVec.ofNat 5 (f.vd.toNat - 64)) w else sc fl) false
    let summed (i : Instr) (r : Node) : Prop := single i (r.getD (0, 0)).1 ((r.getD (0, 0)).1.setWidth 64) (r.getD (0, 0)).2
    let nan : Bool := act.any fun e => (f32 (src e)).isNaN
    let nv : Flags := if act.any fun e => (f32 (src e)).isSNaN then flagNV else 0
    let extremes (i : Instr) (none' : Slot) (worse : Slot → Slot → Bool) : Prop :=
      (nan = true → single i 0x7FC00000 0x7FC00000 nv) ∧ (act = [] → single i none' (none'.setWidth 64) 0) ∧
      (∀ e ∈ act, nan = false → (∀ x ∈ act, worse (src e) (src x) = false) → single i (src e) ((src e).setWidth 64) 0)
    summed (.vredsumF32 f) (sumTree (add false) (node false) 10 0) ∧ summed (.vredsumBf16 f) (sumTree (add true) (node true) 10 0) ∧
    summed (.vredsumb f) (sumTree (add false)
      (fun j => scaleNode mode f.sat.toNat ((h.operandAt f.vb (j / 4)).toNat / 2 ^ (8 * (j % 4)) % 256) (sumTree (add false) (node false) 2 (4 * j))) 8 0) ∧
    extremes (.vredmax f) 0xFF800000 (fun x y => ltZero (f32 x) (f32 y)) ∧ extremes (.vredmin f) 0x7F800000 (fun x y => ltZero (f32 y) (f32 x)) ∧
    (let t := (act.map fun e => (src e).toInt).sum
     single (.vredsumI32 f) (BitVec.ofInt 32 t) ((BitVec.ofInt 32 t).signExtend 64) 0) ∧
    (let pair (v i : Slot) (fl : Flags) : Prop := (Instr.vredmaxi f).wf = true → h.Fits b ((Instr.vredmaxi f).uses 0) →
       flagTraps h.sc.fflags fl = false →
       s.WordLeft slot h b rest (exec (.vredmaxi f) s) (h.withElems f.vd (· < 2) fun e => if e = 0 then v else i)
         (masks fun e => e == 0 && indicator fl) h.l (sc fl) false
     (act = [] → pair 0xFF800000 0xFFFFFFFF 0) ∧
     (∀ e ∈ act, (f32 (src e)).isNaN = true → (∀ x ∈ act, x < e → (f32 (src x)).isNaN = false) →
       pair (src e ||| 0x00400000) (BitVec.ofNat 32 e) nv) ∧
     (∀ e ∈ act, nan = false → (∀ x ∈ act, ltZero (f32 (src e)) (f32 (src x)) = false ∧ (x < e → ltZero (f32 (src x)) (f32 (src e)) = true)) →
       pair (src e) (BitVec.ofNat 32 e) 0)) ∧
    (let at' (e : Nat) : Slot × Flags := match (act.filter (· < e)).map src with
       | [] => (src e, 0)
       | xs => add false (runningSum (add false) xs) (src e)
     let fl : Flags := act.foldl (fun a e => a ||| (at' e).2) 0
     (Instr.vscanF32 f).wf = true → h.Fits b ((Instr.vscanF32 f).uses 0) → flagTraps h.sc.fflags fl = false →
       s.WordLeft slot h b rest (exec (.vscanF32 f) s) (h.withElems f.vd (act.contains ·) fun e => (at' e).1)
         (masks fun e => act.contains e && indicator (at' e).2) h.l (sc fl) false)

/-- R140 to R142, R252, R253: the rank words with a VL above 0. vtopk leaves the entry of rank p at element p of its pair of registers, with the
filler beyond the entries present; vmergek the best n of each run of 2 n; xcsel the rank of each token among its expert's, or -1; xcount
adds the tokens to the counters of the table and to the bins of its register, saturating. -/
def Obligations.RankAndExpertCountWords : Prop :=
  ∀ (s : State) (slot : Nat) (h : Hart) (b : Block) (rest : List Block) (f : VR), s.AtWord slot h b rest → 0 < b.env.vl →
    let vl := b.env.vl
    let mvl := mvlOf b.env.nregs
    let act := h.activeBelow f.mask vl
    let entry (e : Nat) : Entry := ⟨h.operandAt f.va e, h.operandAt f.vb e, e⟩
    let same (j e : Nat) : Bool := (h.mask j).getLsbD e
    let n := (h.sc.get (BitVec.ofNat 5 (f.vc.toNat - 64))).toNat % 2 ^ 32
    let best (es : List Nat) (p : Nat) : Slot × Slot :=
      match es.find? fun e => rankAmong keyBefore (es.map entry) (entry e) == p with
      | some e => (h.operandAt f.va e, h.operandAt f.vb e)
      | none => (0xFF800000, 0xFFFFFFFF)
    let pairs (i : Instr) (at' : Nat → Bool) (val : Nat → Slot × Slot) : Prop := i.wf = true → h.Fits b (i.uses 0) →
      s.WordLeft slot h b rest (exec i s) (fun r e => if at' e = true ∧ r = f.vd.toNat then (val e).1
        else if at' e = true ∧ r = f.vd.toNat + 1 then (val e).2 else h.elem r e) same h.l h.sc false
    pairs (.vtopk f) (fun e => e < min n vl) (best act) ∧
    (mergeOk n = true →
      pairs (.vmergek f) (fun e => e < (vl + 2 * n - 1) / (2 * n) * n && e < mvl)
        (fun e => best (act.filter fun x => 2 * (e / n) * n ≤ x && x < 2 * (e / n) * n + 2 * n) (e % n))) ∧
    (let v := (h.sc.get (BitVec.ofNat 5 (f.vb.toNat - 64))).toNat
     let e := v % 32
     let k := v / 2 ^ 16
     (Instr.xcsel f).wf = true → h.Fits b ((Instr.xcsel f).uses e) → 1 ≤ e → e ≤ 16 → k ≤ 1024 → v = k * 2 ^ 16 + e →
       let token (x i : Nat) : Entry := ⟨h.elem (f.va.toNat + x) i, BitVec.ofNat 32 i, i⟩
       s.WordLeft slot h b rest (exec (.xcsel f) s) (fun r i => if f.vd.toNat ≤ r ∧ r < f.vd.toNat + e ∧ i < vl
         then (let x := r - f.vd.toNat
               let rank := rankAmong keyBefore (act.map (token x)) (token x i)
               if act.contains i && rank < min k vl then BitVec.ofNat 32 rank else 0xFFFFFFFF)
         else h.elem r i) same h.l h.sc false) ∧
    (let cx := s.context h.ctx
     let e0 := (h.sc.get (BitVec.ofNat 5 (f.vb.toNat - 64))).toNat % 2 ^ 32
     let id (i : Nat) : Nat := (h.elem f.va.toNat i).toNat
     let hits (x : Nat) : Nat := (act.filter fun i => id i == x).length
     (Instr.xcount f).wf = true → h.Fits b ((Instr.xcount f).uses 0) → (∀ i ∈ act, id i < cx.nexp ∧ id i ≤ 16383) →
       ∃ t g, exec (.xcount f) s = .next t ∧ t.hart slot = some g ∧ t.mem = s.mem ∧
         { t with experts := s.experts, harts := s.harts } = s ∧
         (∀ x, x < cx.nexp → (t.expert (cx.expbase + x)).counter.toNat = min 0xFFFF ((s.expert (cx.expbase + x)).counter.toNat + hits x)) ∧
         (∀ r i, i < 1024 → g.elem r i = if f.vd.toNat < 64 ∧ r = f.vd.toNat ∧ i < vl
           then BitVec.ofNat 32 (min 0xFFFFFFFF ((h.elem r i).toNat + hits (e0 + i))) else h.elem r i) ∧
         g.sc = h.sc ∧ g.m = h.m ∧ g.blocks = t.nextFront (h.who slot) b rest ∧
         (g.csat = true ↔ h.csat = true ∨ ∃ x, x < cx.nexp ∧ 0xFFFF < (s.expert (cx.expbase + x)).counter.toNat + hits x) ∧
         (g.hsat = true ↔ h.hsat = true ∨ ∃ i, i < vl ∧ f.vd.toNat < 64 ∧ 0xFFFFFFFF < (h.elem f.vd.toNat i).toNat + hits (e0 + i)))

/-! ### Vector words: memory (R33 to R35, R145, R150 to R157, R183, R203, R222, R224) -/

/-- R33, R34, R36, R150, R152, R154, R155, R157: a load whose elements all lie at readable places leaves each active element widened, times its block's
scale under an applied scale mode, and the scale bytes beside it under a mode that keeps them apart; a load queue receives an entry for
every element, +0 for an inactive one; memory stays. vldff shortens VL to the element that faults first. vpref leaves everything. The
places' translations are kept in the cache. -/
def Obligations.VectorLoads : Prop :=
  ∀ (s : State) (slot : Nat) (h : Hart) (b : Block) (rest : List Block) (f : VM) (pl spl : Nat → Place), s.AtWord slot h b rest →
    let w := h.who slot
    let vl := b.env.vl
    let base := (h.field b f.base + 32 * f.off.signExtend 64).toNat
    let unit (e : Nat) : Nat := nibAt f.fmt base ((e * fmtUnits f.fmt : Nat) : Int)
    let strided (e : Nat) : Nat := nibAt f.fmt base ((e : Int) * (h.field b (f.idx.setWidth 5)).toInt)
    let indexed (e : Nat) : Nat := nibAt f.fmt base ((h.elem f.idx.toNat e).toNat : Int)
    let per := if f.scale.toNat / 2 = 1 then 4 else 32
    let scaled := f.scale.toNat / 2 ≠ 0
    let apart := f.scale.toNat % 2 = 1
    let snib (j : Nat) : Nat := 2 * (((h.field b (f.base + 1)).toNat + j) % 2 ^ 64)
    let rest' (e : Nat) : Prop := b.elem ≤ e ∧ e < vl
    let same (j e : Nat) : Bool := (h.mask j).getLsbD e
    let readable (nib : Nat → Nat) : Prop :=
      (∀ e, h.live b f.mask e = true → s.elemAt w .load f.fmt (nib e) (pl e) ∧ s.readsClean (pl e) (fmtBytes f.fmt)) ∧
      (scaled → ∀ e, (apart ∧ rest' e ∧ e % 4 = 0) ∨ (¬apart ∧ h.live b f.mask e = true) →
        s.elemAt w .load 9 (snib (e / per)) (spl (e / per)) ∧ s.readsClean (spl (e / per)) 1)
    let sb (j : Nat) : Nat := (Memory.read (spl j).key s.mem).toNat
    let val (nib : Nat → Nat) (e : Nat) : Slot := widen f.fmt (s.readCode (pl e) f.fmt (nib e))
      (if f.scale.toNat / 2 ≠ 0 ∧ f.scale.toNat % 2 ≠ 1 then (if sb (e / per) = 255 then none else some ((sb (e / per) : Int) - 127)) else some 0)
    let byte (e j : Nat) : Nat := if b.elem ≤ 4 * (4 * e + j) ∧ 4 * (4 * e + j) < vl then sb (4 * (4 * e + j) / per)
      else (h.elem (f.vd.toNat + 1) e).toNat / 2 ^ (8 * j) % 256
    let loaded (nib : Nat → Nat) (r e : Nat) : Slot :=
      if r = f.vd.toNat ∧ h.live b f.mask e = true then val nib e
      else if f.scale.toNat % 2 = 1 ∧ r = f.vd.toNat + 1 then
        BitVec.ofNat 32 (byte e 0 + 2 ^ 8 * byte e 1 + 2 ^ 16 * byte e 2 + 2 ^ 24 * byte e 3)
      else h.elem r e
    let toRegister (i : Instr) (nib : Nat → Nat) : Prop := s.mayIssue slot h b i → f.vd.toNat < 64 → readable nib →
      s.WordLeft slot h b rest (exec i s) (loaded nib) same h.l h.sc false
    let toQueue (i : Instr) (nib : Nat → Nat) : Prop := s.mayIssue slot h b i → 72 ≤ f.vd.toNat → readable nib →
      let q := h.lq.getD (f.vd.toNat - 72) LoadQ.empty
      let es := (List.range vl).filter fun e => b.elem ≤ e
      q.entries.length + es.length ≤ 1024 → ∃ q' : LoadQ,
        q'.entries.map (·.1) = q.entries.map (·.1) ++ es.map (fun e => if h.live b f.mask e = true then val nib e else 0) ∧
        q'.restart = q.restart ∧
        s.WordLeft slot { h with lq := h.lq.setIfInBounds (f.vd.toNat - 72) q' } b rest (exec i s) h.elem same h.l h.sc false
    let both (i : Instr) (nib : Nat → Nat) : Prop := toRegister i nib ∧ toQueue i nib
    both (.vld f) unit ∧ both (.vlds f) strided ∧ both (.vldx f) indexed ∧
    (s.mayIssue slot h b (.vldff f) → f.vd.toNat < 64 → f.scale = 0 → ∀ n, n ≤ vl →
      let whole := n = vl ∧ ∀ e, h.live b f.mask e = true → s.elemAt w .load f.fmt (unit e) (pl e) ∧ s.readsClean (pl e) (fmtBytes f.fmt)
      let short := n < vl ∧ h.live b f.mask n = true ∧ (∃ a, a < n ∧ h.live b f.mask a = true) ∧
        (∀ e, e < n → h.live b f.mask e = true → s.elemAt w .load f.fmt (unit e) (pl e) ∧ s.readsClean (pl e) (fmtBytes f.fmt)) ∧
        ((∃ c, s.elemPlace w .load f.fmt (unit n) = .error c) ∨
          (s.elemAt w .load f.fmt (unit n) (pl n) ∧ s.readError [(pl n, fmtBytes f.fmt)] = some (9, (pl n).key)))
      whole ∨ short → ∃ t g, exec (.vldff f) s = .next t ∧ t.hart slot = some g ∧ t.mem = s.mem ∧ g.vl = min n h.vl ∧
        (∀ r e, e < 1024 → g.elem r e = if r = f.vd.toNat ∧ e < n ∧ h.live b f.mask e = true then val unit e else h.elem r e) ∧
        ∀ b' ∈ g.blocks.head?, b' ∈ rest.head? ∨ (b'.pc = b.pc + 8 ∧ b'.elem = 0 ∧ b'.env.vl = n ∧ b'.ff = true)) ∧
    (s.mayIssue slot h b (.vldseg f) →
      let k := f.scope.toNat + 1
      let place (j : Nat) : Nat := if f.idx = 127 then j else (h.elem f.idx.toNat j).toNat
      let nib (e j : Nat) : Nat := nibAt f.fmt base (((e * k + j) * fmtUnits f.fmt : Nat) : Int)
      (∀ v, v < k → ∃ j, j < k ∧ place j = v) → ∀ q : Nat → Nat → Place,
      (∀ e j, h.live b f.mask e = true → j < k → s.elemAt w .load f.fmt (nib e j) (q e j) ∧ s.readsClean (q e j) (fmtBytes f.fmt)) →
        s.WordLeft slot h b rest (exec (.vldseg f) s) (fun r e =>
          match (List.range k).find? fun j => r == f.vd.toNat + place j && h.live b f.mask e with
          | some j => widen f.fmt (s.readCode (q e j) f.fmt (nib e j)) (some 0)
          | none => h.elem r e) same h.l h.sc false) ∧
    (s.mayIssue slot h b (.vpref f) →
      (∀ e, h.live b f.mask e = true → (∃ p, s.elemAt w .load f.fmt (unit e) p) ∨
        ∃ c, c ≠ 4 ∧ s.elemPlace w .load f.fmt (unit e) = .error c ∧
          ((tlbFind h.ctx (unit e / 2) s.tlb).isSome = true ∨ s.leaf h.ctx (unit e / 2) = none)) →
        s.WordLeft slot h b rest (exec (.vpref f) s) h.elem same h.l h.sc false)

/-- R35, R144, R145, R150, R152: a store whose elements lie at writable places outside every bound region writes each active element's narrowed code at its
place, in ascending order, and no other byte; under a block scale it writes every block of four that has an active element, with codes of zero for
the others, and the block's scale byte; every active element draws under SR, those of a block with a NaN too (R39). No register changes. The places' translations are kept in the cache. -/
def Obligations.VectorStores : Prop :=
  ∀ (s : State) (slot : Nat) (h : Hart) (b : Block) (rest : List Block) (f : VM) (pl spl : Nat → Place), s.Inv → s.AtWord slot h b rest →
    let w := h.who slot
    let vl := b.env.vl
    let base := (h.field b f.base + 32 * f.off.signExtend 64).toNat
    let unit (e : Nat) : Nat := nibAt f.fmt base ((e * fmtUnits f.fmt : Nat) : Int)
    let strided (e : Nat) : Nat := nibAt f.fmt base ((e : Int) * (h.field b (f.idx.setWidth 5)).toInt)
    let indexed (e : Nat) : Nat := nibAt f.fmt base ((h.elem f.idx.toNat e).toNat : Int)
    let snib (j : Nat) : Nat := 2 * (((h.field b (f.base + 1)).toNat + j) % 2 ^ 64)
    let mode := b.env.vround.toNat % 8
    let draws := narrowDraws f.fmt mode
    let code (e : Nat) (scale : Int) : Nat :=
      narrow f.fmt (h.operandAt f.vd e) b.env.vround mode (if draws then h.drawAt b f.mask e else 0) scale
    let writable (c : BitVec 6) (nib : Nat) (p : Place) : Prop :=
      s.elemAt w .store c nib p ∧ regionAt s.regions p.key = none ∧ s.storesClean p c
    let same (j e : Nat) : Bool := (h.mask j).getLsbD e
    let stored (i : Instr) (nib : Nat → Nat) : Prop := s.mayIssue slot h b i → f.scale = 0 →
      (∀ e, h.live b f.mask e = true → writable f.fmt (nib e) (pl e)) →
      let u := (h.lives b f.mask).foldl (fun t e => t.storeCode h.ctx (pl e) f.fmt (nib e) (code e 0)) s
      u.WordLeft slot h b rest (exec i s) h.elem same h.l h.sc draws ∧
      ∀ k, (∀ e, h.live b f.mask e = true → k < (pl e).key ∨ (pl e).key + fmtBytes f.fmt ≤ k) → Memory.read k u.mem = Memory.read k s.mem
    let blocks := (List.range ((vl + 3) / 4)).filter fun j => b.elem ≤ 4 * j && (List.range 4).any fun n => h.live b f.mask (4 * j + n)
    let value (e : Nat) : Slot := if h.live b f.mask e = true then h.operandAt f.vd e else 0
    let sb (j : Nat) : Nat := if f.scale.toNat % 2 = 1 then (h.elem (f.vd.toNat + 1) (j / 4)).toNat / 2 ^ (8 * (j % 4)) % 256
      else blockScale f.fmt ((List.range 4).map fun n => value (4 * j + n))
    let blockCode (j n : Nat) : Nat := if h.live b f.mask (4 * j + n) = true ∧ ¬(f.scale.toNat % 2 ≠ 1 ∧ sb j = 255)
      then code (4 * j + n) (127 - (sb j : Int)) else 0
    let inBlocks (i : Instr) (nib : Nat → Nat) : Prop := s.mayIssue slot h b i → f.scale ≠ 0 → b.elem % 4 = 0 →
      (∀ j ∈ blocks, (∀ n, n < 4 → writable f.fmt (nib (4 * j + n)) (pl (4 * j + n))) ∧ writable 9 (snib j) (spl j)) →
      let u := blocks.foldl (fun t j => ((List.range 4).foldl (fun t n =>
        t.storeCode h.ctx (pl (4 * j + n)) f.fmt (nib (4 * j + n)) (blockCode j n)) t).storeCode h.ctx (spl j) 9 (snib j) (sb j)) s
      u.WordLeft slot h b rest (exec i s) h.elem same h.l h.sc draws ∧
      ∀ k, (∀ j ∈ blocks, (∀ n, n < 4 → k < (pl (4 * j + n)).key ∨ (pl (4 * j + n)).key + fmtBytes f.fmt ≤ k) ∧ k ≠ (spl j).key) →
        Memory.read k u.mem = Memory.read k s.mem
    (stored (.vst f) unit ∧ stored (.vsts f) strided ∧ stored (.vstx f) indexed) ∧
    (inBlocks (.vst f) unit ∧ inBlocks (.vsts f) strided ∧ inBlocks (.vstx f) indexed)

/-- R156, R183, R203, R222, R224: the words that read and write a place in one action an element, and the words of accumulator rows. vamo performs
its operation at each covered place in ascending order and marks the elements that its scope does not cover as missed; vamo.swap returns the
old values; cadd adds at each place; vappend claims a slot an element; mdrain and mfill move a row, in which the
contents of another context read as zero (R294), and wait while its chaining bit is set. (The
log of Sillage is off; the translations are kept in the cache.) -/
def Obligations.VectorUpdates : Prop :=
  ∀ (s : State) (slot : Nat) (h : Hart) (b : Block) (rest : List Block) (f : VM) (o : BitVec 2) (pl : Nat → Place), s.Inv → s.AtWord slot h b rest →
    s.dbg.silMode = 0 →
    let w := h.who slot
    let lives := h.lives b f.mask
    let same (j e : Nat) : Bool := (h.mask j).getLsbD e
    let off := (h.field b f.base + 32 * f.off.signExtend 64).toNat
    let amoNib (e : Nat) : Nat := nibAt f.fmt (h.field b f.base).toNat ((h.elem f.idx.toNat e).toNat : Int)
    let amo (i : Instr) (swap : Bool) (new : Slot → Slot → Slot) : Prop := s.mayIssue slot h b i →
      (∀ e, h.live b f.mask e = true → s.elemAt w .atomic f.fmt (amoNib e) (pl e) ∧ s.readsClean (pl e) 4) →
      let missed (e : Nat) : Bool := f.scope.toNat < narrowest w (pl e)
      let one (t : State) (e : Nat) : State := if missed e then t
        else t.pokeBy h.ctx (pl e).key (leBytes 4 (new (BitVec.ofNat 32 (t.peekNat (pl e).key 4)) (h.operandAt f.vd e)).toNat)
      let u := lives.foldl one s
      let old (e : Nat) : Slot := BitVec.ofNat 32 (((lives.filter (· < e)).foldl one s).peekNat (pl e).key 4)
      u.WordLeft slot { h with missCount := h.missCount + BitVec.ofNat 32 (lives.filter fun e => missed e).length } b rest (exec i s)
        (fun r e => if swap && r == f.vd.toNat && h.live b f.mask e && !missed e then old e else h.elem r e)
        (h.withMasks b f.mask (some h.mreg.toNat) none missed fun _ => false) h.l h.sc false ∧
      ∀ k, (∀ e, h.live b f.mask e = true → k < (pl e).key ∨ (pl e).key + 4 ≤ k) → Memory.read k u.mem = Memory.read k s.mem
    let caddNib (e : Nat) : Nat := if f.idx = 127 then nibAt f.fmt off ((e * fmtUnits f.fmt : Nat) : Int)
      else nibAt f.fmt off ((h.elem f.idx.toNat e).toNat : Int)
    amo (.vamoAdd o f) false (fun x y => x + y) ∧ amo (.vamoAnd o f) false (fun x y => x &&& y) ∧ amo (.vamoOr o f) false (fun x y => x ||| y) ∧
    amo (.vamoXor o f) false (fun x y => x ^^^ y) ∧ amo (.vamoMin o f) false (fun x y => if y.toInt < x.toInt then y else x) ∧
    amo (.vamoMax o f) false (fun x y => if x.toInt < y.toInt then y else x) ∧
    amo (.vamoMinn o f) false (fun x y => if y.toNat < x.toNat then y else x) ∧
    amo (.vamoMaxn o f) false (fun x y => if x.toNat < y.toNat then y else x) ∧ amo (.vamoSwap o f) true (fun _ y => y) ∧
    (s.mayIssue slot h b (.cadd f) →
      (∀ e, h.live b f.mask e = true → s.elemAt w .cadd f.fmt (caddNib e) (pl e) ∧ (pl e).home ∉ s.stackDown ∧ s.badBlock (pl e).key = none) →
      let new (x : Nat) (y : Slot) : Nat := match f.fmt.toNat with
        | 0 => (roundF32 (addNum 0 (f32 (BitVec.ofNat 32 x)) (f32 y)).1 0 0 0).1.toNat
        | 1 => (roundTo bf16 (addNum 0 (bf16.decode x) (bf16.decode (y.toNat / 65536))).1 0 0 0).1
        | _ => (BitVec.ofNat 32 x + y).toNat
      let u := lives.foldl (fun t e => t.pokeNat (pl e).key (fmtBytes f.fmt) (new (t.peekNat (pl e).key (fmtBytes f.fmt)) (h.operandAt f.vd e))) s
      u.WordLeft slot h b rest (exec (.cadd f) s) h.elem same h.l h.sc false ∧
      ∀ k, (∀ e, h.live b f.mask e = true → k < (pl e).key ∨ (pl e).key + fmtBytes f.fmt ≤ k) → Memory.read k u.mem = Memory.read k s.mem) ∧
    (s.mayIssue slot h b (.vappend f) → ∀ (p : Place) (ent : Nat → Place), p.kind = 0 →
      off % 64 = 0 → off < 2 ^ 57 → s.elemAt w .store 11 (2 * off) p → s.readsClean p 24 →
      (∀ n, n < s.peekNat (p.key + 8) 4 → s.elemAt w .store 11 (2 * (off + 0x40 + 4 * n)) (ent n) ∧ (ent n).kind = 0 ∧ s.readsClean (ent n) 4 ∧
        (p.key + 24 ≤ (ent n).key ∨ (ent n).key + 4 ≤ p.key)) →
      let u := lives.foldl (fun t e => t.appended h.ctx p ent ((h.field b (f.base + 1) + BitVec.ofNat 64 e).toNat % 2 ^ 32)) s
      u.WordLeft slot h b rest (exec (.vappend f) s) h.elem same h.l h.sc false ∧
      u.peekNat p.key 8 = (s.peekNat p.key 8 + lives.length) % 2 ^ 64 ∧
      ∀ k, (k < p.key ∨ p.key + 24 ≤ k) → (∀ n, n < s.peekNat (p.key + 8) 4 → k < (ent n).key ∨ (ent n).key + 4 ≤ k) →
        Memory.read k u.mem = Memory.read k s.mem) ∧
    (let row := (h.field b f.base).toNat
     let c := slotCluster slot
     let cl := s.cluster c
     let acc := f.idx.toNat
     let free := (cl.chain.getD acc 0).getLsbD row = false
     let mine (x : Cluster) (i e : Nat) : Slot := x.cellFor h.ctx acc i e
     b.env.vl ≤ 96 → row < 128 →
      (¬free → ∀ i ∈ [Instr.mdrain f, .mfill f], s.mayIssue slot h b i → exec i s = .next (s.setHart slot { h with vwait := true })) ∧
      (free → s.mayIssue slot h b (.mdrain f) →
        (∀ e, h.live b f.mask e = true → s.badIn (accKey c (cellKey acc row e)) 4 = none) →
        let mode := b.env.vround.toNat % 8
        let rounds := f.fmt.toNat = 1
        let out (e : Nat) : Slot := if f.fmt.toNat = 1
          then (roundBf (f32 (mine cl row e)) mode (memSat b.env.vround) (if mode = 5 then h.drawAt b f.mask e else 0)).1 else mine cl row e
        s.WordLeft slot h b rest (exec (.mdrain f) s) (h.withElems f.vd (h.live b f.mask) out) same h.l h.sc (decide rounds && mode == 5)) ∧
      (free → s.mayIssue slot h b (.mfill f) →
        ∃ u : State, { u with clusters := s.clusters } = s ∧ u.WordLeft slot h b rest (exec (.mfill f) s) h.elem same h.l h.sc false ∧
          (∀ d, d ≠ c → u.cluster d = s.cluster d) ∧
          (∀ j x e, j < 4 → j ≠ acc → x < 128 → e < 96 → (u.cluster c).cell j x e = cl.cell j x e) ∧
          ∀ x e, x < 128 → e < 96 → mine (u.cluster c) x e =
            if x = row ∧ h.live b f.mask e = true then fpSlot (f.fmt.toNat == 1) (h.elem f.vd.toNat e) else mine cl x e))

/-! ### Queries (R52, R189 to R202, R205) -/

/-- R193, R196 to R202: a query whose descriptor is valid, whose reply is within its bound and whose active rows are all readable issues: it leaves
its reply in flight, with the values of its definition for the places of its destination and with its pins, and the destination empty. Nothing else
of the hart changes, and of the rest only the banks of its rows. No stack of its rows has paused queries or a failing link. (Rows are read as the query issues: the model's choice, log 11. The log of Sillage is off; the translations are kept in the cache.) -/
def Obligations.QueriesIssue : Prop :=
  ∀ (s : State) (slot : Nat) (h : Hart) (b : Block) (rest : List Block) (f : VQ) (d : QDesc) (pl : Nat → Place), s.AtWord slot h b rest →
    s.dbg.silMode = 0 → 0 < b.env.vl → b.env.qd.getD f.desc.toNat none = some d →
    let k := s.convoyAt slot h b
    let w := h.who slot
    let vd := f.vd.toNat
    let act := h.activeBelow f.mask b.env.vl
    let rows := act.map fun i => (⟨i, (pl i).home, rowCodes d.fmt d.len (Memory.reads s.mem (pl i).key d.rowBytes),
      (rowCodes d.fmt d.len (Memory.reads s.mem (pl i).key d.rowBytes)).map fun c => widen d.fmt c (some 0)⟩ : RowData)
    act ≠ [] → h.queries.length < 8 → (∀ q ∈ h.queries, q.vd ≠ vd) →
    (∀ i ∈ act, i < d.rows ∧ d.row i < 2 ^ 57 ∧ d.row i % 4096 + d.rowBytes ≤ 4096 ∧ s.xlate w .query (d.row i) = .ok (pl i) ∧
      (tlbFind h.ctx (d.row i) s.tlb).isSome = true ∧ (s.baseDie (pl i).home).qpause = false ∧ (pl i).home ∉ s.stackDown ∧
      ∀ x ∈ s.bad, x + 64 ≤ (pl i).key ∨ (pl i).key + d.rowBytes ≤ x) →
    let co (j : Nat) : Slot := if f.co.toNat < 64 ∧ mvlOf b.env.nregs ≤ j then Config.staleElem s.steps f.co.toNat j else h.operandAt f.co j
    let dot (x : List Slot) : Slot :=
      ((sumTree (qAdd d.fmt) (fun j => if j < x.length then some (qMul d.fmt (co j) (x.getD j 0), 0) else none) 10 0).getD (0, 0)).1
    let nibs := fmtBits d.fmt / 4
    let issued (i : Instr) (m : Sem) (pair whole : Bool) (reply : Nat) (writes : List (Nat × Nat × Slot)) : Prop :=
      i.wf = true → h.Fits b (i.uses 0) → s.pinsFit slot h b m → 8 * reply ≤ act.length * d.len * nibs →
      let gone : BitVec 64 := (1 <<< vd) ||| (if pair then 1 <<< (vd + 1) else 0)
      let read := if whole then act else act.filter (b.elem ≤ ·)
      let u := read.foldl (fun t i => t.queryCommand (pl i).home (pl i).key) s
      u.WordLeft slot { h with full := h.full &&& ~~~gone,
                               queries := h.queries ++ [⟨b.seq, vd, pair, whole, writes.filter fun x => x.2.1 < mvlOf b.env.nregs,
                                 (k.pinsOf m b.place).filter (·.query)⟩] }
        b rest (exec i s) h.elem (fun j e => (h.mask j).getLsbD e) h.l h.sc false
    let best (n : Nat) : List (Slot × Slot) := bestEntries (scoreBefore d.fmt) n (rows.map fun r => ⟨dot r.xs, BitVec.ofNat 32 r.i, r.i⟩)
    let todo := rows.filter fun r => b.elem ≤ r.i
    let sx := f.mode.getLsbD 0
    (todo ≠ [] → issued (.qdot f) (semQdot f) false false (act.length * (if sx then nibs else 8))
      (todo.map fun r => (vd, r.i, if sx then k.dotSx b.place f d r else dot r.xs))) ∧
    (d.len ≤ mvlOf b.env.nregs →
      issued (.qwsum f) (semQwsum f) false true (8 * d.len)
        ((List.range d.len).map fun j => (vd, j, qStacks d.fmt b.env.vl (rows.map fun r => (r.i, r.stack, qMul d.fmt (co r.i) (r.xs.getD j 0))))) ∧
      issued (.qfsum f) (semQfsum f) false true (8 * d.len)
        ((List.range d.len).map fun j => (vd, j, qStacks d.fmt b.env.vl
          ((rows.filter fun r => keyMeets d.fmt (f.mode.toNat % 8) (r.xs.getD d.keycol 0) (h.operandAt f.co 0)).map fun r =>
            (r.i, r.stack, r.xs.getD j 0))))) ∧
    issued (.qmaxi f) (semQmaxi f) false true 16 ((best 1).flatMap fun p => [(vd, 0, p.1), (vd, 1, p.2)]) ∧
    (f.k.toNat ≤ mvlOf b.env.nregs →
      issued (.qtopk f) (semQtopk f) true true (16 * f.k.toNat)
        ((List.range f.k.toNat).flatMap fun p => [(vd, p, ((best f.k.toNat).getD p (0, 0)).1), (vd + 1, p, ((best f.k.toNat).getD p (0, 0)).2)]) ∧
      ((f32 (co 0)).isFin = true → (f32 (co 1)).isFin = true → ltNum (.fin false 0 0) (f32 (co 1)) = true →
        issued (.qhist f) (semQhist f) false true (8 * f.k.toNat)
          ((List.range f.k.toNat).map fun n => (vd, n, BitVec.ofNat 32 (rows.filter fun r =>
            binOf (f32 (co 0)) (f32 (co 1)) (keyNum d.fmt (r.xs.getD d.keycol 0)) f.k.toNat == some n).length))))

/-- R65, R70, R197: a reply of a hart's query in flight arrives: with one query in flight, the next element of a qdot that has more to come, or all
the elements that are left, with which the destination is full and the query is gone; of several, one of them. -/
def Obligations.QueryReplies : Prop :=
  ∀ (s : State) (slot : Nat) (h : Hart) (q : Query), s.hart slot = some h →
    (h.queries = [q] → ∃ t g, exec (.queryReply slot) s = .next t ∧ t.hart slot = some g ∧ t.mem = s.mem ∧
      (q.whole = true ∨ q.writes.length ≤ 1 → g.queries = [] ∧ g.full.getLsbD q.vd = (h.full.getLsbD q.vd || decide (q.vd < 64)) ∧
        (∀ j, j < 64 → j ≠ q.vd → (q.pair = false ∨ j ≠ q.vd + 1) → g.full.getLsbD j = h.full.getLsbD j) ∧
        g.v = q.writes.foldl (fun v x => tblPut (elemKey x.1 x.2.1) x.2.2 v) h.v) ∧
      (∀ x y rest, q.whole = false → q.writes = x :: y :: rest →
        g.full = h.full ∧ g.v = tblPut (elemKey x.1 x.2.1) x.2.2 h.v ∧ g.queries = [{ q with writes := y :: rest }])) ∧
    (h.queries ≠ [] → ∃ p ∈ h.queries, exec (.queryReply slot) s = .next (s.setHart slot (h.takeReply p)))

/-! ### The vector stream (R61, R68 to R73, R82) -/

/-- R70 to R73: what any vector word that is a convoy of its own comes to, whatever it names. Its checks wait: the hart waits at it. They trap: the trap
is taken with nothing of the word committed. They pass: it issues, and its elements run from where the block stands; run to the end, they are left with
the front moved on; stopped before an element, they leave what stands there and the block resumes at that element, a trap with the
slot-cycles of the elements it discards (R264). A word whose VL is 0 commits nothing; a query that issues with it is still an event of the log of Sillage (R354). -/
def Obligations.VectorWordsRun : Prop :=
  ∀ (s : State) (slot : Nat) (h : Hart) (b : Block) (rest : List Block) (x : VWord) (m : Sem), s.AtWord slot h b rest → wordSem h x = some m →
    let k := s.convoyAt slot h b
    (k.check [] m b.place = .error .wait → runVWord x s = .next (s.setHart slot { h with vwait := true })) ∧
    (∀ t bad, k.check [] m b.place = .error (.trap t bad) → runVWord x s = k.takeTrap b t bad) ∧
    (∀ n, k.check [] m b.place = .ok n →
      let w := k.accepted m b.place n
      let b1 := b.issue k [(m, w)]
      (m.use.query = false ∨ n ≠ 0 → (k.begun m w).emptyQuery [(m, w)] = .ok (k.begun m w)) ∧
      (∀ started, (k.begun m w).emptyQuery [(m, w)] = .ok started →
        (∀ k1, Convoy.run [(m, w)] b.elem started = .done k1 →
          runVWord x s = .next (k1.complete b1 [(m, w)] (b.pc + 8) m.use.ff n).state) ∧
        (∀ k1 i, Convoy.run [(m, w)] b.elem started = .stop k1 i .wait →
          runVWord x s = .next (k1.waitAt { b1 with elem := i, sent := k1.sent, ahead := (k1.holdPieces [(m, w)] i).ahead })) ∧
        (∀ k1 i t bad, Convoy.run [(m, w)] b.elem started = .stop k1 i (.trap t bad) →
          runVWord x s = k1.takeTrap { b1 with elem := i, sent := k1.sent } t bad) ∧
        (n = 0 → Convoy.run [(m, w)] b.elem started = .done started)))

/-- R61, R71, R73, R94, R116: the vector stream of a running hart: a block that stands at its vstop ends; a word that is no instruction, or that cannot
be fetched, traps; otherwise the convoy that the partition gives runs: one of a
single word as that word does, and a convoy whose members all issue and whose fronts all commit completes, its block moved behind it; a producer of a load queue that a stop discarded is restarted before
it. vstop, as the word at the front, ends its block. -/
def Obligations.VectorStreamTurn : Prop :=
  ∀ (s : State) (slot : Nat) (h : Hart) (b : Block) (rest : List Block), s.hart slot = some h → h.state = .running → h.blocks = b :: rest →
    let w := h.who slot
    (s.cur = .vec slot → exec .vstop s = .next (s.setHart slot { h with blocks := rest })) ∧
    (h.restartNext = none →
      (∀ x, s.fetchVWord w b.pc.toNat = .ok (some x) → x.isStop = true →
        exec (.convoyIssue slot) s = .next (s.setHart slot { h with blocks := rest })) ∧
      (s.fetchVWord w b.pc.toNat = .ok none → exec (.convoyIssue slot) s = s.trapHart slot h { cause := 1 } h.sc.pc) ∧
      (∀ c, s.fetchVWord w b.pc.toNat = .error c →
        exec (.convoyIssue slot) s = s.trapHart slot h { cause := c, addr := b.pc.toNat, access := 5 } h.sc.pc) ∧
      (∀ x m, s.fetchVWord w b.pc.toNat = .ok (some x) → b.sem h x = some m → b.cut ≤ 8 →
        ∃ ms, s.nextConvoy slot h b = (b.pc, m) :: ms ∧ ms.length < 8 ∧ exec (.convoyIssue slot) s = s.convoy slot h b ((b.pc, m) :: ms) ∧
          (s.AtWord slot h b rest → ms = [] → exec (.convoyIssue slot) s = runVWord x s) ∧
          (s.AtWord slot h b rest → ∀ c k1, (s.convoyAt slot h b).issueAll b ((b.pc, m) :: ms) [] [] b.env.vl = .all c →
            ∀ k0, ((s.convoyAt slot h b).begunAll c).emptyQuery c = .ok k0 → Convoy.run c b.elem (k0.fetchAhead c b.elem) = .done k1 → ∃ t g, exec (.convoyIssue slot) s = .next t ∧ t.hart slot = some g ∧
              t = (k1.complete (b.issue (s.convoyAt slot h b) c) c ((c.getLast?.map fun x => x.2.addr + 8).getD b.pc) (c.any fun x => x.1.use.ff)
                ((c.getLast?.map fun x => x.2.vl).getD b.env.vl)).state))) ∧
    (∀ j r, h.restartNext = some (j, r) → exec (.convoyIssue slot) s = s.restartLoad slot h j r)

/-! ### Reset, invariants, encodings, steps -/

/-- R7 and the maps of the registers: what the supervisor registers of the four cores, the monitor and debug registers, and the kernel-level
registers of a hart read as right after reset or launch. Every field reads 0 but those named here. No core runs and no hart is placed. -/
def Obligations.ResetValues : Prop :=
  let s := State.reset
  (∀ d cr, d < 4 → 0x800 ≤ cr → crCause (.scc d) cr = none → s.crValue (.scc d) (s.die d).core cr =
    if cr = 0x802 ∨ cr = 0x832 then 4 else if cr = 0x803 then 0x8010 else if cr = 0x810 ∨ cr = 0x840 then 12
    else if cr = 0x856 then 16 * 2 ^ 59 else if cr = 0x866 then 0xFFFF else if cr = 0x873 then 4096 else 0) ∧
  (∀ cr, monAssigned cr = true ∨ dbgAssigned cr = true → s.monReg cr = if cr = 0xC10 then 4 * 2 ^ 52 else 0) ∧
  (∀ d, d < 4 → (s.die d).running = false) ∧ s.harts = [] ∧ s.kernels = [] ∧
  (∀ ctx kid id n lanes now wall slot cr (pc args scr : Word), cr ≤ 0x018 →
    let h := Hart.launch ctx kid id n lanes pc args scr now wall
    s.hartReg slot h h.sc cr =
      if cr = 0x001 then 8192 / n else if cr = 0x002 then n else if cr = 0x007 then id else if cr = 0x008 then kid
      else if cr = 0x014 then args.toNat % 2 ^ 57 else if cr = 0x017 then 15 else if cr = 0x018 then scr.toNat else 0) ∧
  (∀ ctx kid id n lanes now wall (pc args scr : Word), let h := Hart.launch ctx kid id n lanes pc args scr now wall
    (∀ r, h.sc.get r = 0) ∧ (∀ r e, h.elem r e = 0) ∧ (∀ r, r < 64 → h.full.getLsbD r = true) ∧ ∀ j, 1 ≤ j → j < 16 → h.mask j = 0)

/-- The state after reset has its memory in canonical form. -/
def Obligations.ResetInvariant : Prop := State.reset.Inv

/-- Every step keeps the canonical form of memory, from every state that has it. -/
def Obligations.StepKeepsInvariant : Prop := ∀ s t : State, s.Inv → step s = .next t → t.Inv

/-- R76 to R83: the 32-bit words that decode are exactly the encodings of the well-formed scalar instructions, each of its own: no bit of a word
is dropped, and no other word is an instruction. -/
def Obligations.ScalarDecodeEncode : Prop :=
  ∀ (i : Instr) (w : BitVec 32), decodeScalar w = .ok i ↔ i.wf = true ∧ encodeScalar i = some w

/-- R84 to R94: the 64-bit words that decode are exactly the encodings of the well-formed vector instructions, each of its own. -/
def Obligations.VectorDecodeEncode : Prop :=
  ∀ (i : Instr) (w : BitVec 64), decodeVector w = .ok i ↔ i.wf = true ∧ encodeVector i = some w

/-- Words that the worked examples of the chapters write out decode to what they stand for. -/
def Obligations.SampleWordsDecode : Prop :=
  decodeScalar 0x04642800#32 = .ok (.add 3 4 5) ∧ decodeScalar 0x0CE7FFF8#32 = .ok (.addi 7 7 0xFFF8) ∧
  decodeScalar 0x30855FFD#32 = .ok (.bLt 4 5 0x1FFD) ∧ decodeScalar 0x40C5C008#32 = .ok (.ldD 6 5 0 8) ∧
  decodeScalar 0x492000B0#32 = .ok (.crd 9 0x00B) ∧ decodeScalar 0x5085305A#32 = .ok (.amoAdd 4 5 6 ⟨true, 3, 2⟩) ∧
  decodeScalar 0x54060116#32 = .ok (.bar 17 6) ∧ decodeScalar 0x6C484802#32 = .ok (.mma 2 8 9) ∧
  decodeScalar 0x68C41801#32 = .ok (.xpark 6 4 3) ∧ decodeScalar 0x78000004#32 = .ok (.vf 4) ∧
  decodeVector 0x0208041031DC1203#64 = .ok (.vfma true ⟨4, 1, 2, 3, 3, true, 7, false, false, false, 1, 0⟩) ∧
  decodeVector 0x110C7002054050FF#64 = .ok (.vst ⟨6, 7, 0, 2, 1, 5, 0, 0x0A, 0, 0xFF⟩) ∧
  decodeVector 0x20140D0000010000#64 = .ok (.qdot ⟨10, 3, 1, 0, false, 0, 0, 1, 0⟩) ∧
  decodeVector 0x1B1250C22C080080#64 = .ok (.vamoSwap 0 ⟨9, 5, 6, 2, 0x0B, 0, 1, 0, 0, 0⟩) ∧
  decodeScalar 0x00000000#32 = .error .majorZero

/-- A step runs the decoded word. When nothing is forced (no sample owed, no budget reached) and the agenda gives a party its turn, the bytes at
its program counter are decoded and exec performs the instruction, with what a turn adds around it: the regrants it causes and its time. A
vector stream's front that is no convoy of several words runs as the word; an event of the agenda runs as itself. -/
def Obligations.StepRunsTheDecodedWord : Prop :=
  ∀ (s : State) (rest : List Turn), s.forced = none →
    (∀ p c bs i, s.agenda = .scalar p :: rest → let u : State := { s with agenda := rest, cur := p }
      u.scalar p = some c → u.scalarReady → u.fetchBytes (u.who p) c.pc.toNat 4 = .ok bs → decodeScalar (BitVec.ofNat 32 (leNat bs)) = .ok i →
      step s = andThen s.settleTurn (exec i u)) ∧
    (∀ slot h b bs i more, s.agenda = .vector slot :: rest → let u : State := { s with agenda := rest, cur := .vec slot }
      s.hart slot = some h → h.state = .running → h.restartNext = none → h.blocks = b :: more →
      h.inConvoy = true ∨ u.stopSource slot h true (if h.grant = 0 then [] else (u.nextConvoy slot h b).map fun m => m.1.toNat) = none →
      u.fetchBytes (h.who slot) b.pc.toNat 8 = .ok bs → decodeVector (BitVec.ofNat 64 (leNat bs)) = .ok i →
      ((u.nextConvoy slot h b).length ≤ 1 → step s = andThen s.settleTurn (exec i u)) ∧
      (1 < (u.nextConvoy slot h b).length → step s = andThen s.settleTurn (exec (.convoyIssue slot) u))) ∧
    (∀ p i, s.agenda = .event p i :: rest → mayOccur i = true →
      step s = andThen s.settleTurn (exec i { s with agenda := rest, cur := p }))

/-- What performing a scalar word leaves beside its effect on the scalar side: of a hart its count of words, its last issue and its waiting mark;
of a program nothing; of a core in its launch area LPPOS, and its fetched word is spent. Memory, every other hart, cluster and die, every context, kernel, region and register of
the part stay. -/
def Obligations.PerformedFrame : Prop :=
  ∀ (s : State) (c c' : Scalar), s.scalar s.cur = some c →
    let t := s.performed c c'
    (∀ slot h, s.cur = .vec slot → s.hart slot = some h → ∃ g, t.hart slot = some g ∧ g.sc = c' ∧ g.words = h.words + 1 ∧ g.waiting = false ∧
      g.accountsOf h = h ∧ (∀ n, n ≠ slot → t.hart n = s.hart n) ∧ { t with harts := s.harts } = s) ∧
    (∀ k m, s.cur = .mcc k → (s.cluster k).mcc = some m → t.cluster k = { s.cluster k with mcc := some { m with sc := c' } } ∧
      (∀ n, n ≠ k → t.cluster n = s.cluster n) ∧ { t with clusters := s.clusters } = s) ∧
    (∀ k q, s.cur = .seq k → (s.cluster k).seq = some q → t.cluster k = { s.cluster k with seq := some { q with sc := c' } } ∧
      (∀ n, n ≠ k → t.cluster n = s.cluster n) ∧ { t with clusters := s.clusters } = s) ∧
    (∀ d, s.cur = .scc d → let x := s.die d
      (x.inArea c.pc.toNat = false → t.die d = { x with core := c', fetched := false }) ∧
      (x.inArea c.pc.toNat = true →
        let e := if c'.pc = c.pc + 4 ∧ x.inArea c'.pc.toNat = false then { c' with pc := BitVec.ofNat 64 x.lpVa } else c'
        t.die d = { x with lpPos := x.lpPos + 4, core := e, fetched := false }) ∧
      (∀ n, n ≠ d → t.die n = s.die n) ∧ { t with dies := s.dies } = s)

/-! ### Traps (R94, R116, R282 to R287, R297, R299) -/

/-- R282, R285, R286, R297, R299: a vector hart that traps with a cause that its context holds is held at its stop with every vector register full, its
queries committed and its blocks where they stood, and the record stands at the tail of the fault queue, which moves by one (as the first record of the cycle: R285 orders those of one cycle). Any other cause
stops the hart and ends its kernel with the cycle (R303), and every trap of a forked program ends its kernel. A trap on a core stops it and sets its bit of MSTAT.sctrap. trap, brk, an illegal
word and a word that cannot be fetched are such traps: trap and brk stop behind the word. eret on a core resumes the hart that TRHART
names, both its streams where they were held; in the locked clock mode it asks for its lanes again, which its hold has returned (log 73). -/
def Obligations.TrapEntryAndReturn : Prop :=
  ∀ (s : State), s.Inv →
    (∀ slot h (t : Trap) (pcStop pcRec : Word), s.hart slot = some h → h.half = none → s.holdsOn' h.ctx t.cause = true →
      s.queueStands h.ctx → (∀ x ∈ s.recent, x.1 ≠ h.ctx) →
      let q := (s.context h.ctx).fq
      let tail := s.peekNat q.pa 8
      ∃ u g, s.takeTrap (.vec slot) t pcStop pcRec = .next u ∧ u.hart slot = some g ∧ g.state = .held t.cause ∧ g.waiting = true ∧ g.nextGrant = some 0 ∧
        g.sc = { h.sc with pc := pcStop } ∧ g.queries = [] ∧ g.full = BitVec.allOnes 64 ∧ g.blocks.map (fun b => (b.pc, b.elem)) = h.blocks.map (fun b => (b.pc, b.elem)) ∧
        (∀ n, n ≠ slot → u.hart n = s.hart n) ∧ u.kernels = s.kernels ∧ u.peekNat q.pa 8 = (tail + 1) % 2 ^ 64 ∧
        Memory.reads u.mem (q.pa + 64 + 64 * (tail % 2 ^ q.lg)) 64 =
          faultRecord ⟨0, h.ctx, clusterDie (slotCluster slot), slotCluster slot, h.kid, h.hartid, pcRec.toNat, h.vidx.toNat⟩ t 1) ∧
    (∀ slot h k (t : Trap) (pcStop pcRec : Word), s.hart slot = some h → s.holdsOn' h.ctx t.cause = false →
      s.kernel h.ctx h.kid = some k → k.state = .running → k.doomed = none →
      ∃ u g, s.takeTrap (.vec slot) t pcStop pcRec = .next u ∧ u.hart slot = some g ∧ g.state = .stopped ∧ u.doomedBy h.ctx h.kid t.cause) ∧
    (∀ k c, s.kernel k.ctx k.kid = some k → k.state = .running → k.doomed = some c → (∀ x ∈ s.kernels, x.doomed ≠ none → x = k) →
      s.killDoomed.killed k.ctx k.kid 3 c) ∧
    (∀ p k (t : Trap) (pcStop pcRec : Word), (∃ c, p = .mcc c ∨ p = .seq c) →
      s.kernel (s.who p).ctx (s.who p).kid = some k → k.state = .running →
      ∃ u, s.takeTrap p t pcStop pcRec = .next u ∧ u.killed (s.who p).ctx (s.who p).kid 3 t.cause) ∧
    (∀ d (t : Trap) (pcStop pcRec : Word), d < 4 → ∃ u, s.takeTrap (.scc d) t pcStop pcRec = .next u ∧ (u.die d).running = false ∧
      (u.die d).core.pc = pcStop ∧ u.sctrap.getLsbD d = true ∧ u.msix = s.msix ++ [1] ∧ u.mem = s.mem) ∧
    (∀ slot h a, s.OnHart slot h → h.half = none →
      let held (i : Instr) (cause : Nat) (pc : Word) : Prop := s.holdsOn' h.ctx cause = true →
        ∃ u g, exec i s = .next u ∧ u.hart slot = some g ∧ g.state = .held cause ∧ g.sc = { h.sc with pc := pc }
      ((Ctx.mk s s.cur h.sc).regBusy a = false → h.quiet = true → held (.trap a) 0x10 (h.sc.pc + 4)) ∧
      (h.quiet = true → held .brk 0x0F (h.sc.pc + 4)) ∧ held .illegalInstruction 0x01 h.sc.pc ∧
      (∀ cause addr, held (.instructionFetchFault cause addr) cause h.sc.pc)) ∧
    (∀ d c, s.cur = .scc d → s.Issues c .super [] [] → let x := s.die d
      (∀ slot h cause, s.harts.find? (fun e => e.2.ofKernel x.trCtx x.trKernel && e.2.hartid == x.trHart) = some (slot, h) → h.state = .held cause →
        ∃ t, exec .eret s = .next t ∧ t.hart slot =
            some { h with state := .running, waiting := false, vwait := false, nextGrant := if s.clkCur then some h.lanes else h.nextGrant } ∧ (t.die d).trErr = false ∧ t.mem = s.mem ∧
          ∀ n, n ≠ slot → t.hart n = s.hart n) ∧
      ((∀ e ∈ s.harts, e.2.ofKernel x.trCtx x.trKernel = true → e.2.hartid = x.trHart → ∀ cause, e.2.state ≠ .held cause) →
        ∃ t, exec .eret s = .next t ∧ (t.die d).trErr = true ∧ t.harts = s.harts ∧ t.mem = s.mem))

/-! ### Query descriptors, relocation, experts (R191, R192, R204, R207, R245 to R251) -/

/-- R191, R192, R204, R207: qdesc loads its record, checks it and captures it with its base moved by b rows; a record that breaks R191 traps with cause
0x12. creloc makes the page at b hold the bytes of the page at a and leaves every other byte, traps with the cause of its first failed test,
and meets an uncorrectable block of its source with a context fault. -/
def Obligations.QdescCreloc : Prop :=
  ∀ (s : State) (slot : Nat) (h : Hart) (j : BitVec 2) (a b : Reg), s.Inv → s.OnHart slot h → s.Issues h.sc .vecOnly [] [a, b] →
    let k0 : Ctx := ⟨s, s.cur, h.sc⟩
    let va := (h.sc.get a).toNat
    let vb := (h.sc.get b).toNat
    let w := h.who slot
    (∀ key, k0.memBusy false 15 va 32 = false → k0.recordPlace va 0x12 = .ok key →
      let num (off n : Nat) : Nat := leNat (Memory.reads s.mem (key + off) n)
      let fmt : BitVec 6 := BitVec.ofNat 6 (num 8 1)
      let stride : Int := (BitVec.ofNat 64 (num 24 8)).toInt
      let fits : Prop := num 0 8 % 16 = 0 ∧ num 8 1 < 64 ∧ fmtCodeOk fmt = true ∧ num 9 1 = 0 ∧ 8 ≤ num 12 4 ∧ num 12 4 ≤ 1024 ∧ num 10 2 < num 12 4 ∧
        (fmtBits fmt = 4 → num 12 4 % 2 = 0) ∧ num 16 4 ≠ 0 ∧ num 20 4 = 0 ∧ stride % 16 = 0
      (fits → ∃ t g, exec (.qdesc j a b) s = .next t ∧ t.hart slot = some g ∧ g.sc = h.sc.advance ∧ t.mem = s.mem ∧
        (∀ n, n ≠ j.toNat → g.qd.getD n none = h.qd.getD n none) ∧
        g.qd.getD j.toNat none = some ⟨BitVec.ofInt 64 (num 0 8 + (h.sc.get b).toInt * stride), fmt, num 10 2, num 12 4, num 16 4, stride⟩) ∧
      (¬fits → exec (.qdesc j a b) s = s.takeTrap s.cur { cause := 0x12, addr := va } h.sc.pc h.sc.pc)) ∧
    (∀ cause v, h.quiet = true → h.reloc = 0 → s.relocCause w va vb = some (cause, v) →
      exec (.creloc a b) s = s.takeTrap s.cur { cause := cause, addr := v } h.sc.pc h.sc.pc) ∧
    (∀ ea eb lg lg', h.quiet = true → h.reloc = 0 → s.relocCause w va vb = none → s.leaf w.ctx va = some (ea, lg) → s.leaf w.ctx vb = some (eb, lg') →
      let src := ea.field 51 12 * 4096
      let dst := eb.field 51 12 * 4096
      let n := 2 ^ lg
      (src + n ≤ dst ∨ dst + n ≤ src → (∀ x ∈ s.bad, x + 64 ≤ src ∨ src + n ≤ x) → ∃ t g, exec (.creloc a b) s = .next t ∧ t.hart slot = some g ∧
        g.sc = h.sc.advance ∧ (∀ i, i < n → Memory.read (dst + i) t.mem = Memory.read (src + i) s.mem) ∧
        ∀ k, k < dst ∨ dst + n ≤ k → Memory.read k t.mem = Memory.read k s.mem) ∧
      (src ≠ dst → (∃ x ∈ s.bad, src < x + 64 ∧ x < src + n) → (s.context h.ctx).state = 1 →
        ∃ t, exec (.creloc a b) s = .next t ∧ (t.context h.ctx).state = 3 ∧ (t.context h.ctx).ckill = true ∧ (t.context h.ctx).disc = true))

/-- R245 to R251: the words of the Expert Residency Table and of the Vestibule. xlook answers the state of an expert, with the slot's address when it is
resident, and takes the hold; xpark parks as many of the mask's tokens as have room and starts the fetch of an absent expert; xwake takes the
oldest ready record of its hart; xlayer ends every hold and takes the staged sets; xrepl stages a set and xhint leaves its hints. A value that breaks
their rules traps. (The log of Sillage is off.) -/
def Obligations.ExpertWords : Prop :=
  ∀ (s : State) (slot : Nat) (h : Hart) (d a b : Reg) (m : BitVec 4), s.OnHart slot h → s.Issues h.sc .vecOnly [d] [a, b] → s.dbg.silMode = 0 →
    let v := (h.sc.get a).toNat
    let y := h.sc.get b
    let die := clusterDie (slotCluster slot)
    let traps (i : Instr) (cause : Nat) : Prop := exec i s = s.takeTrap s.cur { cause := cause } h.sc.pc h.sc.pc
    let mine (r : VestRec) : Bool := r.ctx == h.ctx && r.slot == slot
    (16384 ≤ v → traps (.xlook d a) 1) ∧
    (v < 16384 → s.entryOf h.ctx v = none → exec (.xlook d a) s = .next (s.performed h.sc (h.sc.wrote d 0))) ∧
    (∀ n, v < 16384 → s.entryOf h.ctx v = some n →
      let x := s.expert n
      (x.state = .absent → exec (.xlook d a) s = .next (s.performed h.sc (h.sc.wrote d 0))) ∧
      (x.state = .fetching → exec (.xlook d a) s = .next (s.performed h.sc (h.sc.wrote d 1))) ∧
      (∀ r i, chooseReplica die (tblGet 0 v h.sets) x = some (r, i) → ∃ t g, exec (.xlook d a) s = .next t ∧ t.hart slot = some g ∧ t.mem = s.mem ∧
        (∀ p, p ∈ g.holds ↔ p = (v, r) ∨ p ∈ h.holds) ∧
        g.sc = h.sc.wrote d (BitVec.ofNat 64 (((s.context h.ctx).slotVa i) / 65536 * 65536 % 2 ^ 57 + x.state.code))) ∧
      (x.state = .resident ∨ x.state = .pinned → x.filled = [] → chooseReplica die (tblGet 0 v h.sets) x = some (.home, x.slot))) ∧
    ((v / 16384 % 4 ≠ 0 ∨ 2 ^ 48 ≤ v) → traps (.xpark d a m) 1) ∧
    (v / 16384 % 4 = 0 → v < 2 ^ 48 → s.pendingAny slot h (fun u => m != 0 && u.writes.contains (.m m.toNat)) = false →
      (Ctx.mk s s.cur h.sc).ffPending = false →
      let e := v % 16384
      (s.entryOf h.ctx e = none ∨ (∃ n, s.entryOf h.ctx e = some n ∧ (s.expert n).tier = 0) → traps (.xpark d a m) 4) ∧
      (∀ n, s.entryOf h.ctx e = some n → (s.expert n).tier ≠ 0 →
        let x := s.expert n
        let bits := maskBits (h.mask m.toNat) h.vl
        let free := min (65536 - s.vestUsed) ((s.context h.ctx).vquota - s.vestUsedBy h.ctx)
        let num := if 64 ≤ (s.vest.filter mine).length then 0 else min bits.length free
        let ready := x.state == .resident || x.state == .pinned
        (x.state = .absent → h.quiet = true) → ∃ t g, exec (.xpark d a m) s = .next t ∧ t.hart slot = some g ∧ t.mem = s.mem ∧ g.sc = h.sc.wrote d (BitVec.ofNat 64 num) ∧
          g.vfull = (h.vfull || decide (num < bits.length)) ∧
          t.vest = s.vest ++ (if num = 0 then [] else [⟨h.ctx, slot, e, BitVec.ofNat 32 (v / 65536), maskOf (bits.take num), num, ready, none⟩]) ∧
          t.expert n = if x.state = .absent then { x with state := .fetching, started := false } else x)) ∧
    (s.vest.any mine = false → exec (.xwake d m) s = .next (s.performed h.sc (h.sc.wrote d 0xFFFFFFFFFFFFFFFF))) ∧
    (s.pendingAny slot h (fun u => u.writes.contains (.m m.toNat) || u.reads.contains (.m m.toNat)) = false →
      (s.vest.any mine = true → (∀ r ∈ s.vest, mine r = true → r.ready = false ∧ r.failed = none) → exec (.xwake d m) s = .next (s.markWaiting s.cur)) ∧
      (∀ pre r post, s.vest = pre ++ r :: post → mine r = true → (∀ q ∈ pre, mine q = true → q.ready = false ∧ q.failed = none) →
        (r.ready = true → r.failed = none → ∃ t g, exec (.xwake d m) s = .next t ∧ t.hart slot = some g ∧ t.mem = s.mem ∧ t.vest = s.vest.erase r ∧
          (m ≠ 0 → g.mask m.toNat = r.bits) ∧ g.sc = h.sc.wrote d (BitVec.ofNat 64 (r.expert + r.t0.toNat * 65536))) ∧
        (∀ cause, r.failed = some cause → exec (.xwake d m) s =
          (({ s with vest := s.vest.erase r } : State).releaseReplicas h.ctx).takeTrap s.cur
            { cause := 0x12, kind := 6, under := cause, access := 8, info := r.expert } h.sc.pc h.sc.pc))) ∧
    ((Ctx.mk s s.cur h.sc).settled h = .ok () → tokenTrap h.tok.toList 0xFF = none →
      ∃ t g, exec (.xlayer d) s = .next t ∧ t.hart slot = some g ∧ t.mem = s.mem ∧ g.holds = [] ∧ g.sets = s.stagedSets h.ctx ∧
        g.layer = h.layer + 1 ∧ g.sc = h.sc.wrote d ((h.layer + 1).setWidth 64)) ∧
    (s.entryOf h.ctx v = none ∨ 16384 ≤ v → traps (.xrepl a b) 1 ∧ traps (.xhint a b) 1) ∧
    (∀ n, v < 16384 → s.entryOf h.ctx v = some n →
      (replicaSetOk y = false → traps (.xrepl a b) 1) ∧
      (replicaSetOk y = true → ∃ t, exec (.xrepl a b) s = .next t ∧ (t.expert n).staged = y ∧ (t.expert n).state = (s.expert n).state ∧
        t.mem = s.mem ∧ t.scalar s.cur = some h.sc.advance) ∧
      (y.field 31 8 ≠ 0 → traps (.xhint a b) 1) ∧
      (y.field 31 8 = 0 → ∃ t, exec (.xhint a b) s = .next t ∧ t.mem = s.mem ∧ t.scalar s.cur = some h.sc.advance ∧
        t.expert n = { s.expert n with reuse := y.extractLsb' 0 8, nextuse := y.extractLsb' 32 32 } ∧ ∀ k, k ≠ n → t.expert k = s.expert k))

/-! ### The matrix core (R170 to R182) -/

/-- R170 to R182: on a matrix control core each operation word checks its registers and its record and goes to the end of its pipe with the next place in
issue order; mcfg sets the window, mwait waits until both pipes are empty. A full pipe makes a word wait, and so does an mst issued before that has yet to
store into the record or header that the word reads; a word that breaks its rule, or
names an accumulator that the program has not claimed or has released, traps with cause 0x13. -/
def Obligations.MatrixWords : Prop :=
  ∀ (s : State) (k : Nat) (m : Mcc) (j : BitVec 2) (a b : Reg), s.cur = .mcc k → (s.cluster k).mcc = some m →
    let c := s.cluster k
    let w : Who := { s.who s.cur with eng := 3 }
    let va := (m.sc.get a).toNat
    let vb := (m.sc.get b).toNat
    let owned := m.claims.getLsbD j.toNat = true ∧ m.released.getLsbD j.toNat = false
    let op (kind : MatKind) : MatOp := ⟨kind, m.sc.pc, m.ops, false, 0, 0, 0⟩
    let next (rel : BitVec 4) : Mcc := { m with sc := m.sc.advance, ops := m.ops + 1, released := rel }
    let array (i : Instr) (rel : BitVec 4) (kind : MatKind) : Prop :=
      (c.arrq.length < 8 → exec i s = .next (s.setCluster k { c with mcc := some (next rel), arrq := c.arrq ++ [op kind] })) ∧
      (8 ≤ c.arrq.length → exec i s = .next s)
    let fill (i : Instr) (kind : MatKind) : Prop :=
      (c.fillq.length < 8 → exec i s = .next (s.setCluster k { c with mcc := some (next m.released), fillq := c.fillq ++ [op kind] })) ∧
      (8 ≤ c.fillq.length → exec i s = .next s)
    let wrong (i : Instr) (addr : Nat) : Prop := exec i s = s.takeTrap s.cur { cause := 0x13, addr := addr } m.sc.pc m.sc.pc
    let unstored (n : Nat) : Bool := (Ctx.mk s s.cur m.sc).unstored k va n
    (owned → array (.mzero j) m.released (.mzero j.toNat)) ∧ (¬owned → wrong (.mzero j) 0) ∧
    (owned → vb < 512 → va % 2 ^ 63 < 512 → array (.mma j a b) (if va < 2 ^ 63 then m.released else m.released ||| (1 <<< j.toNat))
      (.mma j.toNat (va % 512) vb (decide (2 ^ 63 ≤ va)) m.w)) ∧
    (¬owned ∨ 512 ≤ vb ∨ 512 ≤ va % 2 ^ 63 → wrong (.mma j a b) 0) ∧
    (let n := (m.sc.get b).toInt
     let mine := m.claims.getLsbD va = true ∧ m.released.getLsbD va = false
     (va < 4 → mine → -254 ≤ n → n ≤ 254 → array (.mscale a b) m.released (.mscale va n)) ∧
     (4 ≤ va ∨ ¬mine ∨ n < -254 ∨ 254 < n → wrong (.mscale a b) 0)) ∧
    (va < 4 → exec (.mcfg a) s = .next (s.setCluster k { c with mcc := some { m with sc := m.sc.advance, w := 16 * 2 ^ va } })) ∧
    (4 ≤ va → wrong (.mcfg a) 0) ∧
    (c.fillq = [] → c.arrq = [] → exec .mwait s = .next (s.performed m.sc m.sc.advance)) ∧
    (c.fillq ≠ [] ∨ c.arrq ≠ [] → exec .mwait s = .next s) ∧
    (¬owned ∨ va % 16 ≠ 0 → wrong (.mst j a) va) ∧ (va % 64 ≠ 0 ∨ 383 < vb → wrong (.mldW a b) va) ∧ (va % 32 ≠ 0 ∨ 383 < vb → wrong (.mldA a b) va) ∧
    (owned → va % 16 = 0 → unstored 16 = true → exec (.mst j a) s = .next s) ∧
    (va % 64 = 0 → vb ≤ 383 → unstored 64 = true → exec (.mldW a b) s = .next s) ∧
    (va % 32 = 0 → vb ≤ 383 → unstored 32 = true → exec (.mldA a b) s = .next s) ∧
    (∀ r, owned → va % 16 = 0 → unstored 16 = false → s.engineBytes w true 2 va 16 = .done r →
      let fmt := recNat r 8 1
      let stride := recNat r 12 4
      fmt < 64 → (fmt < 3 ∨ (32 ≤ fmt ∧ fmt % 8 ≠ 0)) → recNat r 9 3 = 0 → stride % 32 = 0 → 96 * fmtBits (BitVec.ofNat 6 fmt) / 8 ≤ stride →
      array (.mst j a) m.released (.mst j.toNat (recNat r 0 8) fmt stride m.sc.vround)) ∧
    (∀ r, va % 64 = 0 → vb ≤ 383 → unstored 64 = false → s.engineBytes w false 2 va 64 = .done r →
      let kc := recNat r 0 4
      let fmt := recNat r 4 1
      let fl := recNat r 5 1
      let f6 : BitVec 6 := BitVec.ofNat 6 fmt
      kc % 4 = 0 → 4 ≤ kc → kc ≤ 16384 → fmt < 64 → operandFmt f6 = true → fl < 4 → recNat r 6 58 = 0 → ¬(fmt = 1 ∧ fl % 2 = 1) →
      vb + granules (bCodeBytes f6 kc (decide (2 ≤ fl)) + bScaleBytes kc (decide (fl % 2 = 1))) ≤ 384 →
      fill (.mldW a b) (.mldW va vb kc fmt (decide (fl % 2 = 1)) (decide (2 ≤ fl)))) ∧
    (∀ r, va % 32 = 0 → vb ≤ 383 → unstored 32 = false → s.engineBytes w true 2 va 32 = .done r →
      let fmt := recNat r 8 1
      let f6 : BitVec 6 := BitVec.ofNat 6 fmt
      let scaled := recNat r 9 1 = 1
      let kc := recNat r 12 4
      let stride := recNat r 16 4
      fmt < 64 → operandFmt f6 = true → recNat r 9 1 < 2 → recNat r 10 2 = 0 → kc % 4 = 0 → 4 ≤ kc → kc ≤ 16384 → stride % 32 = 0 →
      kc * fmtBits f6 / 8 ≤ stride → recNat r 20 4 = 0 → (¬scaled → recNat r 24 8 = 0) → ¬(fmt = 1 ∧ scaled) →
      vb + granules (aCodeBytes f6 kc + aScaleBytes kc (decide scaled)) ≤ 384 →
      fill (.mldA a b) (.mldA vb (recNat r 0 8) kc fmt (decide scaled) stride (recNat r 24 8)))

/-- R170, R171, R175, R177 to R181, R185: an operation begins when the order of its pipe lets it, a fill destroying the runs it overlaps. A row of an mma
becomes final, no earlier than its cycle, with the sums of R177 in its cells and, under release, its chaining bit cleared; every other cell stays. No
operation completes before the cycle that R178 and R180 give it. A complete mma has every row
final, mzero has zeroed its accumulator, mscale has scaled it, a fill has entered its run, and mst has stored its cells; the operation leaves its
pipe. An mma without its two runs ends the kernel with cause 0x13. -/
def Obligations.MatrixEvents : Prop :=
  ∀ (s : State) (k : Nat),
    let c := s.cluster k
    let w := s.who (.mcc k)
    let begun (op : MatOp) : MatOp := { op with started := true, due := s.dueOf k op }
    let sums (a b : Run) (j win row col : Nat) : Slot := (mmaCell a b row col win (c.cell j row col)).1
    (∀ fill op, c.headOp fill = some op → op.started = false → s.mayBegin k fill op = true →
      ((∀ j ga gb r win, op.kind ≠ .mma j ga gb r win) → ∃ t, exec (.matrixOperationStart k fill) s = .next t ∧ t.mem = s.mem ∧
        (t.cluster k).headOp fill = some (begun op) ∧ (t.cluster k).acc = c.acc ∧
        ∀ r, r ∈ (t.cluster k).larder ↔ r ∈ c.larder ∧ r.meets op.kind.span.1 op.kind.span.2 = false) ∧
      (∀ j ga gb r win, op.kind = .mma j ga gb r win →
        (∀ x y, c.runAt ga = some x → c.runAt gb = some y → pairOk x y = true → ∃ t, exec (.matrixOperationStart k fill) s = .next t ∧
          t.mem = s.mem ∧ (t.cluster k).headOp fill = some (begun op) ∧ (t.cluster k).larder = c.larder) ∧
        (∀ kn, (c.runAt ga = none ∨ c.runAt gb = none) → s.kernel w.ctx w.kid = some kn → kn.state = .running →
          ∃ t, exec (.matrixOperationStart k fill) s = .next t ∧ t.killed w.ctx w.kid 3 0x13))) ∧
    (∀ op rest j ga gb r win a b, c.arrq = op :: rest → op.started = true → op.kind = .mma j ga gb r win → c.runAt ga = some a → c.runAt gb = some b → s.arrayBad k op = none →
      (op.rows < 128 → op.due + op.rows ≤ s.time → ∃ t, exec (.rowFinal k) s = .next t ∧ t.mem = s.mem ∧ (t.cluster k).arrq.map (·.rows) = (op.rows + 1) :: rest.map (·.rows) ∧
        (∀ i row col, row < 128 → col < 96 → (t.cluster k).cell i row col =
          if i = j ∧ row = op.rows then sums a b j win row col else c.cell i row col) ∧
        ∀ i : Fin 4, ∀ row, row < 128 → (t.cluster k).chain[i].getLsbD row =
          if r = true ∧ i.val = j ∧ row = op.rows then false else c.chain[i].getLsbD row) ∧
      (op.rows < 128 → s.time < op.due + op.rows → exec (.rowFinal k) s = .next s) ∧
      (s.time < op.ends → exec (.matrixOperationComplete k false) s = .next s) ∧
      (op.rows ≤ 128 → op.ends ≤ s.time → ∃ t, exec (.matrixOperationComplete k false) s = .next t ∧ t.mem = s.mem ∧ (t.cluster k).arrq = rest ∧
        ∀ i row col, row < 128 → col < 96 → (t.cluster k).cell i row col =
          if i = j ∧ op.rows ≤ row then sums a b j win row col else c.cell i row col)) ∧
    (∀ op rest j, c.arrq = op :: rest → op.started = true → op.kind = .mzero j → op.ends ≤ s.time → ∃ t, exec (.matrixOperationComplete k false) s = .next t ∧
      t.mem = s.mem ∧ (t.cluster k).arrq = rest ∧
      ∀ i row col, row < 128 → col < 96 → (t.cluster k).cell i row col = if i = j then 0 else c.cell i row col) ∧
    (∀ op rest j n, c.arrq = op :: rest → op.started = true → op.kind = .mscale j n → s.arrayBad k op = none → op.ends ≤ s.time → ∃ t, exec (.matrixOperationComplete k false) s = .next t ∧
      t.mem = s.mem ∧ (t.cluster k).arrq = rest ∧ ∀ i row col, row < 128 → col < 96 →
        (i ≠ j → (t.cluster k).cell i row col = c.cell i row col) ∧
        (∀ x, c.acc.filter (fun e => e.1 == cellKey j row col) = [(cellKey j row col, x)] → (t.cluster k).cell j row col = scaleCell x n) ∧
        (c.acc.filter (fun e => e.1 == cellKey j row col) = [] → (t.cluster k).cell j row col = 0)) ∧
    (∀ op rest j base f stride vround u n, c.arrq = op :: rest → op.started = true → op.kind = .mst j base f stride vround → s.arrayBad k op = none → op.ends ≤ s.time →
      s.storeCells (s.pipeWho k false) c j base (BitVec.ofNat 6 f) stride vround (mstBytes (BitVec.ofNat 6 f) - op.rows) op.rows = (u, n, none) →
      ∃ t, exec (.matrixOperationComplete k false) s = .next t ∧ t.mem = u.mem ∧ (t.cluster k).arrq = rest) ∧
    (∀ op rest va g kc f sc sp bs, c.fillq = op :: rest → op.started = true → op.kind = .mldW va g kc f sc sp →
      let f6 : BitVec 6 := BitVec.ofNat 6 f
      let nc := bCodeBytes f6 kc sp
      let n := nc + bScaleBytes kc sc
      s.engineBytes (s.pipeWho k true) false (n / 4096 + 2) (va + 64) n = .done bs → (sp = true → badSparse f6 kc (bs.take nc) = false) →
      ∃ t, exec (.matrixOperationComplete k true) s = .next t ∧ t.mem = s.mem ∧ (t.cluster k).fillq = rest ∧
        (t.cluster k).larder = c.larder ++ [⟨g, granules n, false, f, sc, sp, kc, va, op.kind, w.ctx, w.kid, bs.take nc, bs.drop nc⟩]) ∧
    (∀ op rest g base kc f sc stride sb bs ss, c.fillq = op :: rest → op.started = true → op.kind = .mldA g base kc f sc stride sb →
      let f6 : BitVec 6 := BitVec.ofNat 6 f
      let n := aScaleBytes kc sc
      s.engineRows (s.pipeWho k true) base stride (kc * fmtBits f6 / 8) 128 = .done bs → bs.length = aCodeBytes f6 kc →
      (if sc = true then s.engineBytes (s.pipeWho k true) true (n / 4096 + 2) sb n = .done ss else ss = []) →
      ∃ t, exec (.matrixOperationComplete k true) s = .next t ∧ t.mem = s.mem ∧ (t.cluster k).fillq = rest ∧
        (t.cluster k).larder = c.larder ++ [⟨g, granules (aCodeBytes f6 kc + n), true, f, sc, false, kc, base, op.kind, w.ctx, w.kid, bs, ss⟩])

/-! ### Supervisor words (R291, R298, R300, R301, R316 to R319, R330) -/

/-- R298, R300, R301, R316 to R319, R330, R354: the supervisor words on a stream controller core. tlbinv removes the translations that its value names, stops the vector words that
have a pin on one at their fronts, and waits for what else holds a pin; ctxsave, after a turn that begins the save, and ctxload end with the status of
R291 in their descriptor, and with the context saved or resident; klaunch enters a kernel, refuses it, or waits for a place; kwait, kkill and kprio act on
the live kernel that their register names. logmark writes its two records to the log of a hart that logs. -/
def Obligations.SupervisorWords : Prop :=
  (∀ (s : State) (die : Nat) (c : Scalar) (d a b : Reg), s.Inv → s.cur = .scc die → s.Issues c .super [] [] →
    let v := c.get a
    let va := v.toNat
    let w := s.who s.cur
    let core := s.die die
    let waits (i : Instr) : Prop := exec i s = .next (s.markWaiting s.cur)
    let traps (i : Instr) (cause addr : Nat) : Prop := exec i s = s.takeTrap s.cur { cause := cause, addr := addr } c.pc c.pc
    let ends (t : State) (c' : Scalar) : Prop := t.scalar s.cur = (s.performed c c').scalar s.cur
    let ctx := v.field 63 58
    let page := v.field 56 12 * 4096
    let all := v.getLsbD 57
    let hits (e : TlbEntry) : Prop := e.ctx = ctx ∧ (all = true ∨ (e.va ≤ page ∧ page < e.va + 2 ^ e.lg))
    ((v.field 11 0 ≠ 0 ∨ (all = true ∧ v.field 56 12 ≠ 0)) → traps (.tlbinv a) 1 0) ∧
    (v.field 11 0 = 0 → (all = true → v.field 56 12 = 0) →
      let u := s.tlbRemove ctx page all
      let hs := u.tlbHolders ctx page all
      let removed (t : State) : Prop := t.mem = s.mem ∧ (∀ e, e ∈ t.tlb ↔ e ∈ s.tlb ∧ ¬hits e) ∧
        ∀ n h, s.hart n = some h → (∀ e ∈ s.harts, e.1 = n → e.2 = h) → ∃ g, t.hart n = some g ∧ g.vidx = h.vidx ∧
          (h.ctx = ctx → h.probedOn page all = true → g.inConvoy = false) ∧ (h.ctx ≠ ctx ∨ h.probedOn page all = false → g = h)
      (core.tlbWait = none → hs.any u.tlbHeld = true →
        ∃ t, exec (.tlbinv a) s = .next t ∧ removed t ∧ t.scalar s.cur = some c ∧ (t.die die).tlbWait = some hs) ∧
      (core.tlbWait = none → hs.any u.tlbHeld = false →
        ∃ t, exec (.tlbinv a) s = .next t ∧ removed t ∧ ends t c.advance ∧ (t.die die).tlbWait = none) ∧
      (∀ ws, core.tlbWait = some ws → ∃ t, exec (.tlbinv a) s = .next t ∧ t.mem = s.mem ∧ t.tlb = s.tlb ∧ t.harts = s.harts ∧
        (if ws.any s.tlbHeld = true then t.scalar s.cur = some c ∧ (t.die die).tlbWait = some ws
          else ends t c.advance ∧ (t.die die).tlbWait = none))) ∧
    (va % 64 ≠ 0 → traps (.ctxsave a) 3 va ∧ traps (.ctxload a) 3 va) ∧
    (∀ p, va % 64 = 0 → va < 2 ^ 57 → s.xlate w .store va = .ok p →
      let num (k off n : Nat) : Nat := leNat (Memory.reads s.mem (k + off) n)
      let id := num p.key 0 1
      let image := num p.key 8 8
      let cap := num p.key 16 8
      let status (t : State) (st : Nat) : Prop := leNat (Memory.reads t.mem (p.key + 0x18) 4) = st ∧ ends t c.advance
      (63 < id → traps (.ctxsave a) 1 0 ∧ traps (.ctxload a) 1 0) ∧
      let same (t : State) : Prop := t.harts = s.harts ∧ t.ctxs = s.ctxs
      let begun := core.saving = some id
      (id ≤ 63 → s.killing id = true → waits (.ctxsave a)) ∧
      (id ≤ 63 → s.killing id = false → (s.context id).state ≠ 1 → ∃ t, exec (.ctxsave a) s = .next t ∧ same t ∧ (t.die die).saving = none ∧
        status t (if begun ∧ (s.context id).state = 3 then 4 else 2)) ∧
      (id ≤ 63 → s.killing id = false → (s.context id).state = 1 →
        (¬begun → exec (.ctxsave a) s = .next ((s.setDie die { core with saving := some id }).markWaiting s.cur)) ∧
        (begun → s.settling id = true → waits (.ctxsave a)) ∧
        (begun → s.settling id = false → s.stopsDue id ≠ [] → ∃ t, exec (.ctxsave a) s = .next t ∧ (t.die die).saving = some id) ∧
        (begun → s.settling id = false → s.stopsDue id = [] →
          let stopped := s.preempt id
          let bs := imageBytes (stopped.sectionsOf id)
          (stopped.killing id = true → ∃ t, exec (.ctxsave a) s = .next t ∧ (t.die die).saving = some id) ∧
          (stopped.killing id = false → cap < bs.length → ∃ t, exec (.ctxsave a) s = .next t ∧ status t 1 ∧ same t) ∧
          (stopped.killing id = false → bs.length ≤ cap → ∃ t, exec (.ctxsave a) s = .next t ∧ status t 0 ∧
            leNat (Memory.reads t.mem (p.key + 0x20) 8) = bs.length % 2 ^ 64 ∧
            (physOk image bs.length = true → image + bs.length ≤ p.key ∨ p.key + 64 ≤ image → Memory.reads t.mem image bs.length = bs) ∧
            (t.context id).state = 2 ∧ ∀ e ∈ t.harts, e.2.ctx ≠ id))) ∧
      (id ≤ 63 → (s.context id).state ≠ 2 → ∃ t, exec (.ctxload a) s = .next t ∧ status t 2 ∧ same t) ∧
      (id ≤ 63 → (s.context id).state = 2 →
        (s.placesFree id = false → waits (.ctxload a)) ∧
        (s.placesFree id = true →
          let head := s.physBytes image 64
          let n := recNat head 8 8
          let good : Prop := recNat head 0 4 = 0x58435944 ∧ recNat head 4 2 = 1 ∧ 64 ≤ n ∧ n ≤ cap
          let back := (parseSections (recNat head 6 2) (s.physBytes (image + 64) (n - 64))).bind (s.restore id)
          (¬good ∨ back = none → ∃ t, exec (.ctxload a) s = .next t ∧ status t 3 ∧ same t) ∧
          (∀ u, good → back = some u → ∃ t, exec (.ctxload a) s = .next t ∧ status t 0 ∧ (t.context id).state = 1 ∧ t.harts = u.harts)))) ∧
    (va % 128 ≠ 0 → core.pendingLaunch = none → traps (.klaunch d a) 3 va) ∧
    (∀ p, core.pendingLaunch = none → va % 128 = 0 → va < 2 ^ 57 → s.xlate w .load va = .ok p →
      let bs := Memory.reads s.mem p.key 128
      let ctx := recNat bs 0x14 1
      let image := recNat bs 0 8
      let refused := exec (.klaunch d a) s = .next (s.performed c (c.wrote d (BitVec.ofInt 64 (-1))))
      (63 < ctx → refused) ∧
      (∀ cause, ctx ≤ 63 → (s.touch 0 va).imageFor die ctx image = .error cause → traps (.klaunch d a) cause image) ∧
      (∀ u e, ctx ≤ 63 → (s.touch 0 va).imageFor die ctx image = .ok (u, e) →
        (parseLaunch bs = none ∨ headerOk e.head = false → refused) ∧
        (∀ r, parseLaunch bs = some r → headerOk e.head = true →
          let kn := newKernel die r e.head (e.head ++ e.text)
          let answers (v : Int) : Prop := ∃ t, exec (.klaunch d a) s = .next t ∧ ends t (c.wrote d (BitVec.ofInt 64 v)) ∧ t.kernels = s.kernels ∧ t.mem = s.mem
          ((s.context ctx).state ≠ 1 → answers (-3)) ∧
          ((s.context ctx).state = 1 → kn.elastic = false → 2048 < r.n → answers (-2)) ∧
          ((s.context ctx).state = 1 → kn.elastic = true ∨ r.n ≤ 2048 →
            (s.heldBy die < 256 → ∃ t, exec (.klaunch d a) s = .next t ∧ t.mem = s.mem ∧ ends t (c.wrote d (BitVec.ofNat 64 (s.nextKid ctx))) ∧
              t.kernels = s.kernels ++ [{ kn with kid := s.nextKid ctx, order := s.launches, launched := s.time,
                                                  after := r.after.filter fun x => (s.kernel ctx x).isSome }] ∧
              (t.context ctx).nextKid = (s.nextKid ctx + 1) % 65535) ∧
            (256 ≤ s.heldBy die → ∃ t, exec (.klaunch d a) s = .next t ∧ t.kernels = s.kernels ∧ t.mem = s.mem ∧ t.scalar s.cur = some c ∧
              (t.die die).pendingLaunch = some (d, kn, true)))))) ∧
    (2 ^ 22 ≤ va → ∀ i ∈ [Instr.kwait a, .kkill a, .kprio a b], traps i 1 0) ∧
    (va < 2 ^ 22 →
      let ctx := v.field 21 16
      let kid := v.field 15 0
      let p := (c.get b).toNat
      (6 < p → traps (.kprio a b) 1 0) ∧
      (s.kernel ctx kid = none → exec (.kwait a) s = .next (s.performed c c.advance) ∧
        (core.killing = none → exec (.kkill a) s = .next (s.performed c c.advance)) ∧
        (p ≤ 6 → exec (.kprio a b) s = .next (s.performed c c.advance))) ∧
      (∀ kn, s.kernel ctx kid = some kn → waits (.kwait a) ∧
        (core.killing = none → kn.state = .running → ∃ t, exec (.kkill a) s = .next t ∧ t.killed ctx kid 3 0 ∧ t.scalar s.cur = some c ∧
          (t.die die).killing = some kn.order) ∧
        (p ≤ 6 → ∃ t, exec (.kprio a b) s = .next t ∧ ends t c.advance ∧ t.kernel ctx kid = some { kn with prio := p } ∧ t.mem = s.mem)) ∧
      (∀ o, core.killing = some o →
        ((∃ x ∈ s.kernels, x.order = o) → waits (.kkill a)) ∧
        ((∀ x ∈ s.kernels, x.order ≠ o) → ∃ t, exec (.kkill a) s = .next t ∧ ends t c.advance ∧ t.kernels = s.kernels ∧ t.mem = s.mem ∧
          (t.die die).killing = none))) ∧
    exec (.logmark a) s = .next (s.performed c c.advance)) ∧
  (∀ (s : State) (slot : Nat) (h : Hart) (a : Reg), s.Inv → s.OnHart slot h → s.Issues h.sc .traps [] [a] →
    let q := s.dbg
    let tail := s.peekNat q.silPa 8
    let head := s.peekNat (q.silPa + 8) 8
    let at' (n : Nat) : Nat := q.silPa + 64 + 16 * (n % 2 ^ 64 % 2 ^ q.silLg)
    (q.silMode = 0 ∨ q.sel ≠ h.ctx → exec (.logmark a) s = .next (s.performed h.sc h.sc.advance)) ∧
    (q.silMode = 1 → q.sel = h.ctx → h.quiet = true → physOk q.silPa (64 + 16 * 2 ^ q.silLg) = true → (tail + 2 ^ 64 - head) % 2 ^ 64 + 1 < 2 ^ q.silLg →
      ∃ t g, exec (.logmark a) s = .next t ∧ t.hart slot = some g ∧ g.sc = h.sc.advance ∧ t.peekNat q.silPa 8 = (tail + 2) % 2 ^ 64 ∧
        Memory.reads t.mem (at' tail) 16 = silEntry (tblGet 0 h.ctx q.silSeq) h.hartid h.kid 12 ∧
        Memory.reads t.mem (at' (tail + 1)) 16 = silCont (h.sc.get a).toNat))

/-! ### Launch, grants, samples (R287, R290, R295, R306 to R311, R314, R316, R352, R355) -/

/-- R290, R295, R306 to R311, R314, R316, R352, R355: the steps that no word names, of launch, placement, grants, priorities, budgets, the clock mode,
digests, samples and retention. A regrant decides for each hart of the cluster 0, 8, 16, 32 or 64 lanes, which it takes at its next boundary
between convoys, and for a lone runnable hart as much of its request as there is; a budget that is reached ends its kernel with cause 0x11; a kernel becomes ready when its transfers are performed and
the kernels before it have ended, its harts are placed from its image's entry, and the end of a killed kernel leaves none of its harts. -/
def Obligations.SchedulingEvents : Prop :=
  ∀ (s : State),
    (∀ c, ∃ t, exec (.regrant c) s = .next t ∧ t.mem = s.mem ∧ ∀ n h, s.hart n = some h → (∀ e ∈ s.harts, e.1 = n → e.2 = h) →
      let keeps := s.clkCur = true ∧ h.grant ≠ 0 ∧ h.state = .running
      ∃ g, t.hart n = some g ∧ { g with grant := h.grant, nextGrant := h.nextGrant, vwait := h.vwait } = h ∧
        (slotCluster n ≠ c ∨ (keeps ∧ h.nextGrant = none) → g = h) ∧
        (slotCluster n = c → ¬keeps → ∃ x, x ∈ [0, 8, 16, 32, 64] ∧ (h.atBoundary = true → x ≤ h.grant → g.grant = x) ∧
          ((g.grant = x ∧ g.nextGrant = none) ∨ (g.grant = h.grant ∧ g.nextGrant = some x))) ∧
        (slotCluster n = c → ¬keeps → h.state = .running → (h.blocks ≠ [] ∨ h.runnable = true) → h.atBoundary = true →
          s.harts.filter (fun e => slotCluster e.1 == c) = [(n, h)] →
          g.grant = if 64 ≤ h.lanes then 64 else if 32 ≤ h.lanes then 32 else if 16 ≤ h.lanes then 16 else if 8 ≤ h.lanes then 8 else 0)) ∧
    (∃ t, exec .priorityAging s = .next t ∧ t.mem = s.mem ∧
      (∀ n h, s.hart n = some h → t.hart n = some (if h.runnable = true ∨ h.wordsToRun = true then { h with aged := (s.wall - h.lastIssue) / wallMs } else h)) ∧
      t.kernels = s.kernels.map fun k => if (k.state = .ready ∨ k.state = .running) ∧ k.placed < k.n
        then { k with aged := (s.wall - k.readyAt) / wallMs } else k) ∧
    (∀ ctx kid k, s.kernel ctx kid = some k → k.state = .running → k.budget ≠ 0 → k.budget ≤ k.count →
      ∃ t, exec (.budgetExceeded ctx kid) s = .next t ∧ t.killed ctx kid 3 0x11) ∧
    (∀ slot h, s.hart slot = some h → h.digestDue = true →
      (h.quiet = false → exec (.intervalDigest slot) s = .next (s.setHart slot { h with waiting := true })) ∧
      (∀ u, h.quiet = true → s.syncEvent h.ctx h.hartid h.kid 13 (some (s.digest slot h)) = .pass u →
        exec (.intervalDigest slot) s = .next (u.setHart slot { h with digestDue := false }))) ∧
    (∀ slot h, s.hart slot = some h → s.Inv → s.dbg.smpPer ≠ 0 → s.dbg.sel = h.ctx → physOk s.dbg.smpPa 64 = true →
      let pa := s.dbg.smpPa
      let tail := s.peekNat pa 8
      let at' := pa + 64 + 64 * (tail % 2 ^ Config.sampleLg)
      physOk at' 64 = true → (tail + 2 ^ 64 - s.peekNat (pa + 8) 8) % 2 ^ 64 < 2 ^ Config.sampleLg →
      ∃ t, exec (.dbgSample slot) s = .next t ∧ t.harts = s.harts ∧ t.peekNat pa 8 = (tail + 1) % 2 ^ 64 ∧
        t.peekNat at' 8 = h.cycle.toNat ∧ t.peekNat (at' + 8) 8 = h.sc.pc.toNat ∧ t.peekNat (at' + 0x1C) 4 = h.hartid % 2 ^ 32 ∧
        t.peekNat (at' + 0x20) 2 = h.kid % 2 ^ 16 ∧ t.peekNat (at' + 0x22) 2 = slotCluster slot % 2 ^ 16) ∧
    (∀ slot bank h, s.hart slot = some h → bank < 8 → bank ∉ h.retained → tblGet h.placedAt bank h.touched + 4096 ≤ s.time →
      exec (.retentionEntry slot bank) s = .next (s.setHart slot { h with retained := h.retained ++ [bank] })) ∧
    (s.clkReq ≠ s.clkCur → exec .hartPlacement s = .next s) ∧
    (∀ k, s.clkReq = s.clkCur → s.toPlace = [k] → k.n = k.placed + 1 →
      (s.findCluster k = none → k.elastic = false → exec .hartPlacement s = .next s) ∧
      (∀ c new, s.findCluster k = some c → s.freeHartSlot c = some new → k.scratch = 0 → ∃ t g, exec .hartPlacement s = .next t ∧ s.hart new = none ∧
        t.hart new = some g ∧ g.ctx = k.ctx ∧ g.kid = k.kid ∧ g.hartid = k.placed ∧ g.sc.pc = BitVec.ofNat 64 (k.image + k.entry) ∧ g.nregs = k.nregs ∧
        g.state = .running ∧ t.mem = s.mem ∧ t.kernel k.ctx k.kid = some { k with placed := k.n, state := .running })) ∧
    (∀ die d kn fresh, die < 4 → (s.die die).pendingLaunch = some (d, kn, fresh) →
      (256 ≤ s.heldBy die → exec (.scoreboardAdmit die) s = .next s) ∧
      (s.heldBy die < 256 → (s.context kn.ctx).state = 1 → (kn.elastic = true ∨ kn.n ≤ 2048) → ∃ t, exec (.scoreboardAdmit die) s = .next t ∧
        t.kernels = s.kernels ++ [{ kn with kid := s.nextKid kn.ctx, order := s.launches, launched := s.time,
                                            after := kn.after.filter fun x => (s.kernel kn.ctx x).isSome }] ∧ (t.die die).pendingLaunch = none ∧
        (t.die die).core.x = ((s.die die).core.set d (BitVec.ofNat 64 (s.nextKid kn.ctx))).x ∧ t.mem = s.mem)) ∧
    (∀ ctx kid n k tr, s.kernel ctx kid = some k → k.state = .waiting → k.trans[n]? = some tr → tr.done = false →
      let w := State.enter.transferWho k n
      let run := s.transferGo w tr (tr.size / 32 + 2) tr.pos
      let kept (d : Bool) : Kernel := { k with trans := setNth { tr with pos := run.2.1, done := d } k.trans n }
      (run.2.2 = none → ∃ t, exec (.inputTransferComplete ctx kid n) s = .next t ∧ t.mem = run.1.mem ∧ t.kernel ctx kid = some (kept true)) ∧
      (∀ side e va key, run.2.2 = some (side, .failed e va key) → k.done = 0 →
        ∃ t, exec (.inputTransferComplete ctx kid n) s = .next t ∧ t.kernel ctx kid = none) ∧
      (∀ side va, run.2.2 = some (side, .absent va) →
        (s.awaitsPage w va = true → Config.refuses s.steps = true → k.done = 0 →
          ∃ t, exec (.inputTransferComplete ctx kid n) s = .next t ∧ t.kernel ctx kid = none) ∧
        (s.awaitsPage w va = false → ∃ t, exec (.inputTransferComplete ctx kid n) s = .next t ∧ t.kernel ctx kid = some (kept false)))) ∧
    (∀ ctx kid k, s.kernel ctx kid = some k → k.state = .waiting →
      let may := (∀ x ∈ k.trans, x.done = true) ∧ k.after = []
      (may → k.n ≠ 0 → exec (.kernelReady ctx kid) s = .next (s.setKernel { k with state := .ready, readyAt := s.wall })) ∧
      (may → k.n = 0 → k.done = 0 → ∃ t, exec (.kernelReady ctx kid) s = .next t ∧ t.kernel ctx kid = none) ∧
      (¬may → exec (.kernelReady ctx kid) s = .next s)) ∧
    (s.clkReq ≠ s.clkCur → s.harts = [] → exec .clockModeChange s =
      .next { s with clkCur := s.clkReq, clkMHz := if s.clkReq = true then 1800 else 2100 }) ∧
    (s.clkReq = s.clkCur ∨ s.harts ≠ [] → exec .clockModeChange s = .next s) ∧
    (∀ ctx kid k st cause, s.kernel ctx kid = some k → k.state = .killing st cause → (s.context ctx).disc = false → k.done = 0 →
      ∃ t, exec (.kernelKillComplete ctx kid) s = .next t ∧ t.kernel ctx kid = none ∧ ∀ e ∈ t.harts, e.2.ofKernel ctx kid = false)

/-! ### Register writes as steps of the table (R6, R39, R44, R284, R304, R313, R314, R333, R341, R343, R346, R348, R350, R353) -/

/-- R6, R39, R44, R284, R304, R313, R314, R333, R341, R343, R346, R348, R350, R353: the table's steps that are register writes. Each changes the fields that its register map
gives and no byte of memory but what closing a context zeroes; a write that its condition does not allow leaves the machine as it is. -/
def Obligations.RegisterEvents : Prop :=
  ∀ (s : State) (v : BitVec 64),
    (∀ cr : BitVec 12, cr.toNat = 0xB01 → exec (.registerWrite cr v) s = .next { s with mhdmBase := v.toNat / 2 ^ 30 % 2 ^ 22 * 2 ^ 30,
                                                                                          mhdmGib := if v.toNat % 128 ≤ 64 then v.toNat % 128 else s.mhdmGib }) ∧
    (∀ d : Nat, d < 4 → s.cur = .scc d →
      let x := s.die d
      let ctx := x.ctxsel
      let k := s.context ctx
      exec (.registerWrite 0x800 v) s = .next (s.setDie d { x with ctxsel := v.toNat % 64 }) ∧
      exec (.fqctlWrite 0x802 v) s = .next (s.setContext ctx { k with fq := k.fq.setCtl v }) ∧
      exec (.fqctlWrite 0x832 v) s = .next (s.setContext ctx { k with pgq := k.pgq.setCtl v }) ∧
      (v.getLsbD 0 = true → exec (.pgwake v) s = .next { s with pageWaits := s.pageWaits.filter (·.1 ≠ ctx) }) ∧
      (v.getLsbD 0 = false → exec (.pgwake v) s = .next s) ∧
      (v.getLsbD 0 = true → exec (.bdctlRestart v) s = .next (s.setBaseDie x.bdsel { s.baseDie x.bdsel with restarted := true, beats := 0 })) ∧
      (v.getLsbD 0 = false → exec (.bdctlRestart v) s = .next s) ∧
      (∀ n, s.entryOf ctx x.xsel = some n → (replicaSetOk v = false → exec (.xe3Stage v) s = .next s) ∧
        (replicaSetOk v = true → ∃ t, exec (.xe3Stage v) s = .next t ∧ (t.expert n).staged = v ∧ t.mem = s.mem)) ∧
      (s.entryOf ctx x.xsel = none → exec (.xe3Stage v) s = .next s) ∧
      (∃ t, exec (.lpbaseWrite v) s = .next t ∧ t.mem = s.mem ∧ (t.die d).lpVa = v.toNat / 2 ^ 12 % 2 ^ 45 * 2 ^ 12 ∧ (t.die d).lpPos = 0 ∧
        (t.die d).lpLimit = 0 ∧ (t.die d).lpLg = if 12 ≤ v.toNat % 32 ∧ v.toNat % 32 ≤ 30 then v.toNat % 32 else x.lpLg) ∧
      (∀ i, i ≤ 4 → s.clkCur = true → exec (.sltWrite (BitVec.ofNat 12 (0x862 + i)) v) s = .next s) ∧
      (∀ i, i ≤ 4 → s.clkCur = false → ∃ t, exec (.sltWrite (BitVec.ofNat 12 (0x862 + i)) v) s = .next t ∧ t.mem = s.mem ∧ t.slt = s.slt ∧
        t.sltWaits = s.sltWaits ++ (if x.sltsel.getLsbD 5 then List.range 32 else [x.sltsel.toNat % 32]).map fun c =>
          ⟨x.sltsel.toNat / 256, c, i, if i = 4 then v &&& 0xFFFF else v⟩)) ∧
    (∀ slot h, s.OnHart slot h → h.quiet = true →
      (∃ t g, exec (.srseedWrite v) s = .next t ∧ t.hart slot = some g ∧ g.srseed = v.setWidth 32 ∧ (∀ j : Fin 64, g.gen[j] = genSeed (v.setWidth 32) j.val) ∧
        g.sc.g64 = genSeed (v.setWidth 32) 64 ∧ g.sc.pc = h.sc.pc ∧ t.mem = s.mem) ∧
      (∃ t g, exec (.fflagsWrite v) s = .next t ∧ t.hart slot = some g ∧ g.sc.fflags = fflagsFrom v ∧ { g with sc := h.sc } = h ∧ t.mem = s.mem)) ∧
    (∀ ctx, let k := s.context ctx
      (k.state = 0 → exec (.ctxcmdOpen ctx) s = .next (s.setContext ctx { k with state := 1 })) ∧
      (k.state ≠ 0 → exec (.ctxcmdOpen ctx) s = .next s) ∧
      (k.state = 3 → k.disc = false → exec (.ctxcmdReopen ctx) s = .next (s.setContext ctx { k with state := 1 })) ∧
      (k.state ≠ 3 ∨ k.disc = true → exec (.ctxcmdReopen ctx) s = .next s) ∧
      (let may := (k.state = 1 ∧ ∀ x ∈ s.kernels, x.ctx ≠ ctx) ∨ k.state = 2 ∨ (k.state = 3 ∧ k.disc = false)
       (may → ∃ t, exec (.ctxcmdClose ctx) s = .next t ∧ (t.context ctx).state = 0 ∧ (t.context ctx).ckill = false ∧ (t.context ctx).nextKid = 0 ∧
          (∀ e ∈ t.tlb, e.ctx ≠ ctx) ∧ (∀ r ∈ t.regions, r.ctx ≠ ctx) ∧ (∀ r ∈ t.vest, r.ctx ≠ ctx)) ∧
       (¬may → exec (.ctxcmdClose ctx) s = .next s))) ∧
    (∀ die, (5 ≤ s.stage → die < 4 → exec (.lplimitWrite die v) s = .next (s.setDie die { s.die die with lpLimit := v &&& ~~~3 })) ∧
      (s.stage < 5 → exec (.lplimitWrite die v) s = .next s)) ∧
    (∃ t, exec (.kcinv v) s = .next t ∧ t.mem = s.mem ∧ ∀ d, d < 4 → (t.die d).images =
      (s.die d).images.filter fun i => !(v.getLsbD 6 || i.ctx == v.toNat % 64)) ∧
    exec (.clkmodeWrite v) s = .next { s with clkReq := v.getLsbD 0 } ∧
    (∀ ctx e n, s.entryOf ctx e = some n → let x := s.expert n
      let pinned := ∃ i ∈ x.slots, s.pinsOn ctx ((s.context ctx).slotVa i) (2 ^ (s.context ctx).slotlg) = true
      (x.state = .resident → exec (.xe0Pin ctx e) s = .next (s.setExpert n { x with state := .pinned })) ∧ (x.state ≠ .resident → exec (.xe0Pin ctx e) s = .next s) ∧
      (x.state = .pinned → exec (.xe0Unpin ctx e) s = .next ((s.setExpert n { x with state := .resident }).releaseReplicas ctx)) ∧ (x.state ≠ .pinned → exec (.xe0Unpin ctx e) s = .next s) ∧
      (x.state = .resident → s.holdsOn ctx e = 0 → s.recordsOn ctx e = 0 → ¬pinned → ∃ t, exec (.xe0Evict ctx e) s = .next t ∧ (t.expert n).state = .absent ∧
        (t.expert n).filled = [] ∧ t.mem = s.mem ∧ tblFind ((s.context ctx).slotbase + x.slot) t.slots = none) ∧
      (x.state ≠ .resident ∨ s.holdsOn ctx e ≠ 0 ∨ s.recordsOn ctx e ≠ 0 ∨ pinned → exec (.xe0Evict ctx e) s = .next s)) ∧
    (∀ stack chan, s.clkCur = true → exec (.sltTurnApply stack chan) s = .next s) ∧
    (∀ stack chan, s.clkCur = false → ∃ t, exec (.sltTurnApply stack chan) s = .next t ∧ t.mem = s.mem ∧
      (∀ w, w ∈ t.sltWaits ↔ w ∈ s.sltWaits ∧ ¬(w.stack = stack ∧ w.chan = chan)) ∧
      (∀ w, s.sltWaits.filter (fun w => w.stack == stack && w.chan == chan) = [w] → ∀ st ch i, i < 256 → ch < 32 → w.reg < 256 → chan < 32 →
        t.sltValue st ch i = if st = stack ∧ ch = chan ∧ i = w.reg then w.value else s.sltValue st ch i)) ∧
    (v.getLsbD 63 = true → exec (.errlogClear v) s = .next { s with errValid := false, errPa := 0 }) ∧
    (v.getLsbD 63 = false → exec (.errlogClear v) s = .next s) ∧
    (let hit (e : Nat × Hart) : Prop := e.2.ofKernel s.dbg.sel (v.toNat % 2 ^ 16) = true ∧ e.2.state = .running
     ∃ t, exec (.dbghalt v) s = .next t ∧ t.mem = s.mem ∧ t.harts = s.harts ∧
      (∀ e ∈ s.harts, hit e → ∃ m, tblFind e.1 t.dbg.stops = some (4, m) ∨ tblFind e.1 t.dbg.stops = some (5, m)) ∧
      ∀ n, (∀ e ∈ s.harts, e.1 = n → ¬hit e) → tblFind n t.dbg.stops = tblFind n s.dbg.stops)

/-! ### Experts' fetches, tier commands, context faults (R207, R250, R288, R335 to R338, R342, R343, R360) -/

/-- R207, R250, R288, R320, R335, R337, R342, R343, R360: the steps of the fetch engine, the tier engines and a context's end. A fetch takes the lowest free slot, or the one that
an eviction frees, and ends resident with its records ready or absent with its records failed; a replica is filled into a free slot. A tier command moves
or zeroes its page, or fails with cause 0x14 over the failed link of a Cellar stack, and then writes its status and leaves the engine, or waits for the
status's page; a lost port fails its commands with cause 0x14. A context fault stops its context
and kills its kernels, and the end of its discard leaves none of its harts, kernels and regions. -/
def Obligations.ExpertTierEvents : Prop :=
  (∀ (s : State) (ctx e n : Nat), s.entryOf ctx e = some n →
    let x := s.expert n
    let k := s.context ctx
    let mine (r : VestRec) : Bool := r.ctx == ctx && r.expert == e
    (x.state = .fetching → x.started = false →
      (∀ i, s.freeSlot ctx = some i → ∃ t, exec (.expertFetchStart ctx e) s = .next t ∧ t.expert n = { x with slot := i, started := true } ∧
        tblFind (k.slotbase + i) t.slots = some n ∧ t.mem = s.mem) ∧
      (s.freeSlot ctx = none → s.victim ctx = none → exec (.expertFetchStart ctx e) s = .next s) ∧
      (∀ v nv i, s.freeSlot ctx = none → s.victim ctx = some v → s.entryOf ctx v = some nv → (s.evict ctx v).freeSlot ctx = some i →
        ∃ t, exec (.expertFetchStart ctx e) s = .next t ∧ (t.expert nv).state = .absent ∧ t.expert n = { x with slot := i, started := true } ∧ t.mem = s.mem)) ∧
    (x.state = .fetching → x.started = true →
      (∀ u, s.tierCause x.tier = none → s.fetchPages ctx x.tier (k.slotVa x.slot) (2 ^ k.slotlg / 4096) = (u, none) →
        ∃ t, exec (.expertFetchComplete ctx e) s = .next t ∧ t.mem = u.mem ∧ t.expert n = { x with state := .resident, started := false } ∧
          t.vest = s.vest.map fun r => if mine r then { r with ready := true } else r) ∧
      (∀ cause, s.tierCause x.tier = some cause → ∃ t, exec (.expertFetchComplete ctx e) s = .next t ∧ t.mem = s.mem ∧
        t.expert n = { x with state := .absent, started := false, slot := 0 } ∧ tblFind (k.slotbase + x.slot) t.slots = none ∧
        t.vest = s.vest.map fun r => if mine r && !r.ready then { r with failed := some cause } else r)) ∧
    (∀ rep i u, x.state = .resident ∨ x.state = .pinned → rep.getLsbD 15 = true → s.replicaWanted ctx e rep = true → (∀ r ∈ x.filled, r.1 ≠ rep) →
      (fieldPeer rep = true → s.peerLost (fieldNum rep) = false) → s.freeSlot ctx = some i → s.slotBad ctx (k.slotVa x.slot) (2 ^ k.slotlg / 4096) = none →
      s.copySlot ctx (k.slotVa x.slot) (k.slotVa i) (2 ^ k.slotlg / 4096) = some u →
      ∃ t, exec (.replicaFill ctx e rep) s = .next t ∧ t.mem = u.mem ∧ t.expert n = { x with filled := x.filled ++ [(rep, i)] } ∧
        tblFind (k.slotbase + i) t.slots = some n)) ∧
  (∀ (s : State) (die idx lg : Nat) (c : TierCmd), s.Inv → die < 4 → (s.die die).tfLimit.toNat < (s.die die).tfPos.toNat + 64 →
    (s.die die).cmds[idx]? = some c → pageLg c.size = some lg →
    let n := 2 ^ lg
    let cut (i : Instr) : Prop := ∃ t, exec i s = .next t ∧ (t.die die).cmds[idx]? = some { c with ended := some (2 + 256 * 0x14) } ∧ t.mem = s.mem
    let from' (i : Instr) (src dst : Nat) : Prop := (src + n ≤ dst ∨ dst + n ≤ src) →
      (s.frameCut src = true ∨ s.frameCut dst = true → cut i) ∧
      (s.frameCut src = false → s.frameCut dst = false → (∀ b ∈ s.bad, b < src ∨ src + n ≤ b) →
        ∃ t, exec i s = .next t ∧ (t.die die).cmds[idx]? = some { c with ended := some 1 } ∧ (∀ j, j < n → Memory.read (dst + j) t.mem = Memory.read (src + j) s.mem) ∧
          ∀ a, a < dst ∨ dst + n ≤ a → Memory.read a t.mem = Memory.read a s.mem)
    (c.ended = none → c.op = 1 → s.tierCause c.tier = none → from' (.tierPageIn die idx) (tierKey c.tier) c.frame) ∧
    (c.ended = none → c.op = 2 → s.tierCause c.tier = none → s.framePinned c.frame lg = false → from' (.tierPageOut die idx) c.frame (tierKey c.tier)) ∧
    (c.ended = none → c.op = 3 → from' (.cellarMove die idx) c.src c.frame) ∧
    (c.ended = none → c.op = 4 → s.frameCut c.frame = true → cut (.zeroFrame die idx)) ∧
    (c.ended = none → c.op = 4 → s.frameCut c.frame = false → ∃ t, exec (.zeroFrame die idx) s = .next t ∧ (t.die die).cmds[idx]? = some { c with ended := some 1 } ∧
      (∀ j, j < n → Memory.read (c.frame + j) t.mem = 0) ∧ ∀ a, a < c.frame ∨ c.frame + n ≤ a → Memory.read a t.mem = Memory.read a s.mem) ∧
    let awaits := s.awaitsPage (tierWho die) c.done = true ∨ s.awaitsPage (tierWho die) (c.done + 7) = true
    (∀ st, c.ended = some st → awaits → exec (.tierCommandDone die idx) s = .next s) ∧
    (∀ st p q, c.ended = some st → st < 2 ^ 64 → ¬awaits → c.done % 8 = 0 → c.done < 2 ^ 57 → s.xlate (tierWho die) .store c.done = .ok p →
      s.xlate (tierWho die) .store (c.done + 7) = .ok q →
      ∃ t, exec (.tierCommandDone die idx) s = .next t ∧ t.peekNat p.key 8 = st ∧ (t.die die).cmds = (s.die die).cmds.eraseIdx idx) ∧
    (∀ st, c.ended = some st → ¬awaits → c.done < 2 ^ 57 → s.leaf 0 c.done = none →
      exec (.tierCommandDone die idx) s = .next (s.pageAsk (tierWho die) c.done (accessField 2 0 0 false)))) ∧
  (∀ (s : State) (port : Nat), port < 2 → (s.die (port + 1)).tfLimit.toNat < (s.die (port + 1)).tfPos.toNat + 64 →
    ∃ t, exec (.tierLinkLoss port) s = .next t ∧ t.mem = s.mem ∧ t.tierLost.contains port = true ∧
      (t.die (port + 1)).cmds = (s.die (port + 1)).cmds.map fun c =>
        if c.ended = none ∧ (c.op = 1 ∨ c.op = 2) then { c with ended := some (2 + 256 * 0x14) } else c) ∧
  (∀ (s : State) (ctx stack : Nat) (base : Bool) (pa : Nat),
    ((s.context ctx).state ≠ 1 → exec (.contextFault ctx stack base pa) s = .next s) ∧
    ((s.context ctx).state = 1 → ∃ t, exec (.contextFault ctx stack base pa) s = .next t ∧ (t.context ctx).state = 3 ∧
      (t.context ctx).ckill = true ∧ (t.context ctx).disc = true ∧ (base = false → t.errValid = true) ∧
      ∀ kid k, s.kernel ctx kid = some k → k.state = .running → t.killed ctx kid 0 0) ∧
    ((s.context ctx).disc = false → exec (.discardComplete ctx) s = .next s) ∧
    ((s.context ctx).disc = true → ∃ t, exec (.discardComplete ctx) s = .next t ∧ (t.context ctx).disc = false ∧ (∀ e ∈ t.harts, e.2.ctx ≠ ctx) ∧
      (∀ k ∈ t.kernels, k.ctx ≠ ctx) ∧ ∀ r ∈ t.regions, r.ctx ≠ ctx))

/-! ### The platform (R16, R347 to R350, R357 to R366) -/

/-- R16, R347 to R350, R357 to R359, R361 to R366: the steps of the base dies, the clock, boot, the links, the host's memory range, the mailboxes and SPDM. A
mailbox's request is answered with its status, its reply where its op has one, and its done number last; a peer's request is performed at working
memory and answered; a flit that sixteen replays in a row have not mended takes a port down; boot goes stage by stage and stops where a verification
fails, and refresh runs from its stage 3 on. An SPDM request is answered, or waits while the mailbox is busy. (What SPDM's standard fixes of a reply
stands in Config; the sideband's codes are log 26's, the mailbox's queue log 45's.) -/
def Obligations.PlatformEvents : Prop :=
  ∀ (s : State), s.Inv →
    (∀ host, s.mboxRung host = true → (host = false → physOk s.msvcPa 4096 = true) →
      let num (t : State) := t.mboxNat host
      let op := num s 8 2
      let n := num s 0x10 8
      let v : Word := BitVec.ofNat 64 (num s 0x18 8)
      let done (t : State) (st : Nat) : Prop := num t 0xA 2 = st ∧ num t 4 4 = num s 0 4 ∧ t.rung = s.rung.drop 1
      (op = 0 → ∃ t, exec (.mboxNop host) s = .next t ∧ done t 0) ∧
      (op = 5 → ∃ t, exec (.mboxReadStage host) s = .next t ∧ done t 0 ∧ num t 0x10 8 = s.monReg 0xB00 % 2 ^ 64) ∧
      (5 ≤ s.stage →
        (op = 1 → dbgAssigned n = true → ∃ t, exec (.mboxReadDebug host) s = .next t ∧ done t 0 ∧ num t 0x10 8 = s.monReg n % 2 ^ 64) ∧
        (op = 2 → dbgAssigned n = true → ∃ t, exec (.mboxWriteDebug host) s = .next t ∧ done t 0 ∧ t.dbg = (s.dbgWrite n v).dbg) ∧
        (op = 3 → monAssigned n = true → ∃ t, exec (.mboxReadMonitor host) s = .next t ∧ done t 0 ∧ num t 0x10 8 = s.monReg n % 2 ^ 64) ∧
        (op = 4 → n = 0xB00 → v &&& ~~~0xF800 ≠ 0 → ∃ t, exec (.mboxWriteMonitor host) s = .next t ∧ done t 3) ∧
        (op = 4 → monAssigned n = true → (n = 0xB00 → v &&& ~~~0xF800 = 0) → ∃ t, exec (.mboxWriteMonitor host) s = .next t ∧ done t 0 ∧ t.lnode = (s.monWrite n v).lnode ∧
          t.sctrap = (s.monWrite n v).sctrap ∧ t.lbrk = (s.monWrite n v).lbrk ∧ t.mhdmBase = (s.monWrite n v).mhdmBase) ∧
        (op = 1 → dbgAssigned n = false → ∃ t, exec (.mboxReadDebug host) s = .next t ∧ done t 2) ∧
        (op = 4 → monAssigned n = false → ∃ t, exec (.mboxWriteMonitor host) s = .next t ∧ done t 2)) ∧
      (s.stage < 5 → (op = 1 → ∃ t, exec (.mboxReadDebug host) s = .next t ∧ done t 4) ∧ (op = 4 → ∃ t, exec (.mboxWriteMonitor host) s = .next t ∧ done t 4))) ∧
    (∀ die, die < 12 → let b := s.baseDie die
      (s.stage < 3 → exec (.refresh die) s = .next s ∧ exec (.fallbackTakeover die) s = .next s ∧ ∀ pointer, exec (.heartbeat die pointer) s = .next s) ∧
      (∀ pointer, 3 ≤ s.stage → (b.fb = false → exec (.heartbeat die pointer) s = .next (s.setBaseDie die { b with pointer := pointer, beat := pointer, beatAt := s.wall })) ∧
        (b.fb = true → b.restarted = true → exec (.heartbeat die pointer) s =
          .next (s.setBaseDie die { b with beats := if s.beatsMissed b = true then 1 else b.beats + 1, beat := pointer, beatAt := s.wall })) ∧
        (b.fb = true → b.restarted = false → exec (.heartbeat die pointer) s = .next s)) ∧
      (3 ≤ s.stage → b.pointer < 2 ^ 20 → ∃ t, exec (.refresh die) s = .next t ∧ t.mem = s.mem ∧ (t.baseDie die).pointer = (b.pointer + 1) % 2 ^ 20 ∧
        ∀ bank row, row < 2 ^ 20 → tblFind (2 ^ 20 * bank + row) (t.baseDie die).acts =
          if row = b.pointer then none else tblFind (2 ^ 20 * bank + row) b.acts) ∧
      (b.fb = true ∨ s.beatsMissed b = false → exec (.fallbackTakeover die) s = .next s) ∧
      (3 ≤ s.stage → b.fb = false → s.beatsMissed b = true → ∃ t, exec (.fallbackTakeover die) s = .next t ∧ (t.baseDie die).fb = true ∧
        (t.baseDie die).qpause = decide (die < 8) ∧ (t.baseDie die).fbcount = min (b.fbcount + 1) 0xFFFF ∧ (t.baseDie die).pointer = b.beat ∧
        t.monIrq = s.monIrq ++ [die] ∧ t.mem = s.mem) ∧
      (b.fb = true → b.restarted = true → 2 ≤ b.beats → ∃ t, exec (.refreshHandback die) s = .next t ∧ (t.baseDie die).fb = false ∧
        (t.baseDie die).qpause = false ∧ t.mem = s.mem) ∧
      (b.fb = false ∨ b.restarted = false ∨ b.beats < 2 → exec (.refreshHandback die) s = .next s) ∧
      (∀ bank latch, exec (.subarrayClose die bank latch) s = .next (s.setBaseDie die { b with opened := b.opened.filter fun x => !(x.1 == bank && x.2.1 == latch) })) ∧
      (∀ bank, exec (.throttleEnd die bank) s = .next (s.setBaseDie die { b with throttled := b.throttled.filter (· ≠ bank) })) ∧
      (∀ bank row query, (bank, row, query) ∉ b.alerts → exec (.activationAlert die bank row query) s = .next s) ∧
      (∀ bank row query, row < 2 ^ 20 → (bank, row, query) ∈ b.alerts → ∃ t, exec (.activationAlert die bank row query) s = .next t ∧ t.mem = s.mem ∧
        (t.baseDie die).alerts = b.alerts.erase (bank, row, query) ∧ tblFind (2 ^ 20 * bank + row) (t.baseDie die).acts = tblFind (2 ^ 20 * bank + row) b.acts ∧
        (row + 1 < 2 ^ 20 → tblFind (2 ^ 20 * bank + (row + 1)) (t.baseDie die).acts = none) ∧
        (row + 2 < 2 ^ 20 → tblFind (2 ^ 20 * bank + (row + 2)) (t.baseDie die).acts = none) ∧
        (∀ x, x / 2 ^ 20 ≠ bank → tblFind x (t.baseDie die).acts = tblFind x b.acts) ∧
        (1 ≤ row → tblFind (2 ^ 20 * bank + (row - 1)) (t.baseDie die).acts = none) ∧
        (2 ≤ row → tblFind (2 ^ 20 * bank + (row - 2)) (t.baseDie die).acts = none) ∧
        (query = true → die < 8 → bank ∈ (t.baseDie die).throttled ∧ (t.baseDie die).qthr = b.qthr + 1) ∧
        (query = false ∨ 8 ≤ die → (t.baseDie die).throttled = b.throttled ∧ (t.baseDie die).qthr = b.qthr)) ∧
      (∀ block, ((isWorking block = true ∨ isCellar block = true) → (∃ x ∈ s.bad, x ≤ block ∧ block < x + 64) →
          exec (.scrub die block) s = .next { s with errValid := true, errPa := block / 64 * 64 }) ∧
        ((∀ x ∈ s.bad, block < x ∨ x + 64 ≤ block) → exec (.scrub die block) s = .next s))) ∧
    (s.clkCur = true → exec .clockLower s = .next s ∧ exec .clockRaise s = .next s ∧
      let ks := s.kernels.map fun k => if k.state = .running then { k with broken := true } else k
      exec .heatBreak s = .next { s with clkCur := false, clkReq := false, clkMHz := 2100, lbrk := true, kernels := ks }) ∧
    (s.clkCur = false → exec .clockLower s = .next { s with clkMHz := max 1200 (s.clkMHz - 100) } ∧
      exec .clockRaise s = .next { s with clkMHz := min 2100 (s.clkMHz + 100) } ∧ exec .heatBreak s = .next s) ∧
    (∃ t, exec .thermalTrip s = .next t ∧ (∀ k, Memory.read k t.mem = if k < 3 * 2 ^ 64 then 0 else Memory.read k s.mem) ∧ t.harts = [] ∧ t.stage = 0 ∧
      t.kernels = [] ∧ t.ctxs = [] ∧ t.sideband = s.sideband ++ [0x115]) ∧
    (s.fail = true ∨ 5 ≤ s.stage → exec .boot s = .next s) ∧
    (s.fail = false → s.stage < 5 → let next := s.stage + 1
      (next = 2 ∨ next = 3 ∨ next = 5 → Config.bootVerifies next = false →
        exec .boot s = .next { s with fail := true, sideband := s.sideband ++ [0x200 + next] }) ∧
      ((next = 2 ∨ next = 3 ∨ next = 5 → Config.bootVerifies next = true) → ∃ t, exec .boot s = .next t ∧ t.stage = next ∧ t.fail = false ∧
        (next = 4 → ∀ k, Memory.read k t.mem = if k < 3 * 2 ^ 64 then 0 else Memory.read k s.mem) ∧ (next ≠ 4 → t.mem = s.mem) ∧
        (next = 5 → ∀ d, d < 4 → (t.die d).running = true ∧ (t.die d).core.pc = BitVec.ofNat 64 (s.die d).areaAddr))) ∧
    (∀ port, (port < 12 → port ∉ s.portDown → exec (.linkDown port) s = .next { s with portDown := s.portDown ++ [port] }) ∧
      (12 ≤ port ∨ port ∈ s.portDown → exec (.linkDown port) s = .next s)) ∧
    (∀ port f, port < 12 → port ∉ s.portDown →
      (f.crcOk = false → ∃ t, exec (.flitReceive port f) s = .next t ∧ t.mem = s.mem ∧ tblGet 0 port t.replays = tblGet 0 port s.replays + 1 ∧
        (port ∈ t.portDown ↔ 17 ≤ tblGet 0 port s.replays + 1)) ∧
      (f.crcOk = true → f.dst = Config.ownNode →
        let answered (t : State) (data : List Byte) : Prop := exec (.flitReceive port f) s = .next t ∧ tblGet 0 port t.replays = 0 ∧
          t.sent = s.sent ++ [⟨f.src, f.dst, f.tag, .reply data, true⟩]
        (∀ pa len, f.op = .read pa len → pa + len ≤ 2 ^ 38 → len ≤ 192 → ∃ t, answered t (Memory.reads s.mem pa len) ∧ t.mem = s.mem) ∧
        (∀ pa data, f.op = .write pa data → pa + data.length ≤ 2 ^ 38 → data.length ≤ 192 → ∃ t, answered t [] ∧ Memory.reads t.mem pa data.length = data ∧
          ∀ k, k < pa ∨ pa + data.length ≤ k → Memory.read k t.mem = Memory.read k s.mem) ∧
        (∀ pa x cmp, f.op = .amo pa 0 true x cmp → pa % 8 = 0 → pa + 8 ≤ 2 ^ 38 →
          ∃ t, answered t (Memory.reads s.mem pa 8) ∧ t.peekNat pa 8 = (s.peekNat pa 8 + x.toNat) % 2 ^ 64))) ∧
    (∀ pa, let lo := s.mhdmBase
      let hi := min (s.mhdmBase + s.mhdmGib * 2 ^ 30) (2 ^ 38)
      (lo ≤ pa → pa + 64 ≤ hi → exec (.hostMemAccess pa none) s = .next { s with hostReply := some (Memory.reads s.mem pa 64) }) ∧
      (∀ bs, lo ≤ pa → pa + bs.length ≤ hi → ∃ t, exec (.hostMemAccess pa (some bs)) s = .next t ∧ Memory.reads t.mem pa bs.length = bs ∧
        ∀ k, k < pa ∨ pa + bs.length ≤ k → Memory.read k t.mem = Memory.read k s.mem) ∧
      (pa < lo → exec (.hostMemAccess pa none) s = .next s ∧ ∀ bs, exec (.hostMemAccess pa (some bs)) s = .next s)) ∧
    (∀ d, d < 4 → let bar (off : Nat) (data : Option (List Byte)) := s.run (.bar (0x100 * d + off) data)
      (s.fail = false → bar 0 none = .next { s with hostReply := some (leBytes 8 (s.die d).lpLimit.toNat) } ∧
        bar 8 none = .next { s with hostReply := some (leBytes 8 (s.die d).lpPos.toNat) }) ∧
      (∀ bs, bs.length = 8 → 5 ≤ s.stage → bar 0 (some bs) = .next (s.setDie d { s.die d with lpLimit := BitVec.ofNat 64 (leNat bs) &&& ~~~3 })) ∧
      (∀ bs, bs.length = 8 → s.stage < 5 → bar 0 (some bs) = .next s)) ∧
    s.run (.bar 0x2000 none) = .next { s with hostReply := some (leBytes 8 (s.monReg 0xB00)) } ∧
    (∀ req, ∀ x ∈ [(1, Instr.getVersion req), (2, .getCapabilities req), (3, .negotiateAlgorithms req), (4, .getDigests req), (5, .getCertificate req),
        (6, .challenge req), (7, .getMeasurements req)],
      (s.doe = none → s.doeWait = [] → exec x.2 s = .next { s with doe := some (spdmReply x.1 req) }) ∧
      (s.doe ≠ none ∨ s.doeWait ≠ [] → exec x.2 s = .next { s with doeWait := s.doeWait ++ [(x.1, req)] })) ∧
    (∀ req, (spdmReply 1 req).fact = .version 1 3 ∧ (spdmReply 3 req).fact = .algorithms [.ecdsaNistP256, .sha256] ∧
      (spdmReply 7 req).fact = .measurements measurements)
end

