-- ==== Sys2Proof/Laws/Exec.lean ====
section
/-! SUPPORT. What exec is of each instruction: the one meaning that its arm calls. -/
namespace Sys2Proof.Machine

@[simp] theorem exec_add (d : Reg) (a : Reg) (b : Reg) (s : State) : exec (.add d a b) s = execAdd d a b s := rfl
@[simp] theorem exec_sub (d : Reg) (a : Reg) (b : Reg) (s : State) : exec (.sub d a b) s = execSub d a b s := rfl
@[simp] theorem exec_mul (d : Reg) (a : Reg) (b : Reg) (s : State) : exec (.mul d a b) s = execMul d a b s := rfl
@[simp] theorem exec_mulh (d : Reg) (a : Reg) (b : Reg) (s : State) : exec (.mulh d a b) s = execMulh d a b s := rfl
@[simp] theorem exec_mulhn (d : Reg) (a : Reg) (b : Reg) (s : State) : exec (.mulhn d a b) s = execMulhn d a b s := rfl
@[simp] theorem exec_div (d : Reg) (a : Reg) (b : Reg) (s : State) : exec (.div d a b) s = execDiv d a b s := rfl
@[simp] theorem exec_divn (d : Reg) (a : Reg) (b : Reg) (s : State) : exec (.divn d a b) s = execDivn d a b s := rfl
@[simp] theorem exec_rem (d : Reg) (a : Reg) (b : Reg) (s : State) : exec (.rem d a b) s = execRem d a b s := rfl
@[simp] theorem exec_remn (d : Reg) (a : Reg) (b : Reg) (s : State) : exec (.remn d a b) s = execRemn d a b s := rfl
@[simp] theorem exec_and (d : Reg) (a : Reg) (b : Reg) (s : State) : exec (.and d a b) s = execAnd d a b s := rfl
@[simp] theorem exec_or (d : Reg) (a : Reg) (b : Reg) (s : State) : exec (.or d a b) s = execOr d a b s := rfl
@[simp] theorem exec_xor (d : Reg) (a : Reg) (b : Reg) (s : State) : exec (.xor d a b) s = execXor d a b s := rfl
@[simp] theorem exec_andn (d : Reg) (a : Reg) (b : Reg) (s : State) : exec (.andn d a b) s = execAndn d a b s := rfl
@[simp] theorem exec_shl (d : Reg) (a : Reg) (b : Reg) (s : State) : exec (.shl d a b) s = execShl d a b s := rfl
@[simp] theorem exec_shr (d : Reg) (a : Reg) (b : Reg) (s : State) : exec (.shr d a b) s = execShr d a b s := rfl
@[simp] theorem exec_sra (d : Reg) (a : Reg) (b : Reg) (s : State) : exec (.sra d a b) s = execSra d a b s := rfl
@[simp] theorem exec_rotr (d : Reg) (a : Reg) (b : Reg) (s : State) : exec (.rotr d a b) s = execRotr d a b s := rfl
@[simp] theorem exec_min (d : Reg) (a : Reg) (b : Reg) (s : State) : exec (.min d a b) s = execMin d a b s := rfl
@[simp] theorem exec_max (d : Reg) (a : Reg) (b : Reg) (s : State) : exec (.max d a b) s = execMax d a b s := rfl
@[simp] theorem exec_minn (d : Reg) (a : Reg) (b : Reg) (s : State) : exec (.minn d a b) s = execMinn d a b s := rfl
@[simp] theorem exec_maxn (d : Reg) (a : Reg) (b : Reg) (s : State) : exec (.maxn d a b) s = execMaxn d a b s := rfl
@[simp] theorem exec_slt (d : Reg) (a : Reg) (b : Reg) (s : State) : exec (.slt d a b) s = execSlt d a b s := rfl
@[simp] theorem exec_sltn (d : Reg) (a : Reg) (b : Reg) (s : State) : exec (.sltn d a b) s = execSltn d a b s := rfl
@[simp] theorem exec_seq (d : Reg) (a : Reg) (b : Reg) (s : State) : exec (.seq d a b) s = execSeq d a b s := rfl
@[simp] theorem exec_csel (d : Reg) (a : Reg) (b : Reg) (s : State) : exec (.csel d a b) s = execCsel d a b s := rfl
@[simp] theorem exec_clz (d : Reg) (a : Reg) (s : State) : exec (.clz d a) s = execClz d a s := rfl
@[simp] theorem exec_ctz (d : Reg) (a : Reg) (s : State) : exec (.ctz d a) s = execCtz d a s := rfl
@[simp] theorem exec_popc (d : Reg) (a : Reg) (s : State) : exec (.popc d a) s = execPopc d a s := rfl
@[simp] theorem exec_sextB (d : Reg) (a : Reg) (s : State) : exec (.sextB d a) s = execSextB d a s := rfl
@[simp] theorem exec_sextH (d : Reg) (a : Reg) (s : State) : exec (.sextH d a) s = execSextH d a s := rfl
@[simp] theorem exec_sextW (d : Reg) (a : Reg) (s : State) : exec (.sextW d a) s = execSextW d a s := rfl
@[simp] theorem exec_zextB (d : Reg) (a : Reg) (s : State) : exec (.zextB d a) s = execZextB d a s := rfl
@[simp] theorem exec_zextH (d : Reg) (a : Reg) (s : State) : exec (.zextH d a) s = execZextH d a s := rfl
@[simp] theorem exec_zextW (d : Reg) (a : Reg) (s : State) : exec (.zextW d a) s = execZextW d a s := rfl
@[simp] theorem exec_fadd (d : Reg) (a : Reg) (b : Reg) (s : State) : exec (.fadd d a b) s = execFadd d a b s := rfl
@[simp] theorem exec_fsub (d : Reg) (a : Reg) (b : Reg) (s : State) : exec (.fsub d a b) s = execFsub d a b s := rfl
@[simp] theorem exec_fmul (d : Reg) (a : Reg) (b : Reg) (s : State) : exec (.fmul d a b) s = execFmul d a b s := rfl
@[simp] theorem exec_ffma (d : Reg) (a : Reg) (b : Reg) (s : State) : exec (.ffma d a b) s = execFfma d a b s := rfl
@[simp] theorem exec_fmin (d : Reg) (a : Reg) (b : Reg) (s : State) : exec (.fmin d a b) s = execFmin d a b s := rfl
@[simp] theorem exec_fmax (d : Reg) (a : Reg) (b : Reg) (s : State) : exec (.fmax d a b) s = execFmax d a b s := rfl
@[simp] theorem exec_fcmpEq (d : Reg) (a : Reg) (b : Reg) (s : State) : exec (.fcmpEq d a b) s = execFcmpEq d a b s := rfl
@[simp] theorem exec_fcmpLt (d : Reg) (a : Reg) (b : Reg) (s : State) : exec (.fcmpLt d a b) s = execFcmpLt d a b s := rfl
@[simp] theorem exec_fcmpLe (d : Reg) (a : Reg) (b : Reg) (s : State) : exec (.fcmpLe d a b) s = execFcmpLe d a b s := rfl
@[simp] theorem exec_fcvtF32I64 (d : Reg) (a : Reg) (s : State) : exec (.fcvtF32I64 d a) s = execFcvtF32I64 d a s := rfl
@[simp] theorem exec_fcvtI64F32 (d : Reg) (a : Reg) (s : State) : exec (.fcvtI64F32 d a) s = execFcvtI64F32 d a s := rfl
@[simp] theorem exec_addi (d : Reg) (a : Reg) (imm : BitVec 16) (s : State) : exec (.addi d a imm) s = execAddi d a imm s := rfl
@[simp] theorem exec_andi (d : Reg) (a : Reg) (imm : BitVec 16) (s : State) : exec (.andi d a imm) s = execAndi d a imm s := rfl
@[simp] theorem exec_ori (d : Reg) (a : Reg) (imm : BitVec 16) (s : State) : exec (.ori d a imm) s = execOri d a imm s := rfl
@[simp] theorem exec_xori (d : Reg) (a : Reg) (imm : BitVec 16) (s : State) : exec (.xori d a imm) s = execXori d a imm s := rfl
@[simp] theorem exec_slti (d : Reg) (a : Reg) (imm : BitVec 16) (s : State) : exec (.slti d a imm) s = execSlti d a imm s := rfl
@[simp] theorem exec_sltni (d : Reg) (a : Reg) (imm : BitVec 16) (s : State) : exec (.sltni d a imm) s = execSltni d a imm s := rfl
@[simp] theorem exec_shli (d : Reg) (a : Reg) (amount : BitVec 6) (s : State) : exec (.shli d a amount) s = execShli d a amount s := rfl
@[simp] theorem exec_shri (d : Reg) (a : Reg) (amount : BitVec 6) (s : State) : exec (.shri d a amount) s = execShri d a amount s := rfl
@[simp] theorem exec_srai (d : Reg) (a : Reg) (amount : BitVec 6) (s : State) : exec (.srai d a amount) s = execSrai d a amount s := rfl
@[simp] theorem exec_rotri (d : Reg) (a : Reg) (amount : BitVec 6) (s : State) : exec (.rotri d a amount) s = execRotri d a amount s := rfl
@[simp] theorem exec_lih (d : Reg) (k : BitVec 2) (half : BitVec 16) (s : State) : exec (.lih d k half) s = execLih d k half s := rfl
@[simp] theorem exec_pcadd (d : Reg) (imm : BitVec 16) (s : State) : exec (.pcadd d imm) s = execPcadd d imm s := rfl
@[simp] theorem exec_bEq (a : Reg) (b : Reg) (off : BitVec 13) (s : State) : exec (.bEq a b off) s = execBEq a b off s := rfl
@[simp] theorem exec_bNe (a : Reg) (b : Reg) (off : BitVec 13) (s : State) : exec (.bNe a b off) s = execBNe a b off s := rfl
@[simp] theorem exec_bLt (a : Reg) (b : Reg) (off : BitVec 13) (s : State) : exec (.bLt a b off) s = execBLt a b off s := rfl
@[simp] theorem exec_bGe (a : Reg) (b : Reg) (off : BitVec 13) (s : State) : exec (.bGe a b off) s = execBGe a b off s := rfl
@[simp] theorem exec_bLtn (a : Reg) (b : Reg) (off : BitVec 13) (s : State) : exec (.bLtn a b off) s = execBLtn a b off s := rfl
@[simp] theorem exec_bGen (a : Reg) (b : Reg) (off : BitVec 13) (s : State) : exec (.bGen a b off) s = execBGen a b off s := rfl
@[simp] theorem exec_jal (off : BitVec 26) (s : State) : exec (.jal off) s = execJal off s := rfl
@[simp] theorem exec_jmp (off : BitVec 26) (s : State) : exec (.jmp off) s = execJmp off s := rfl
@[simp] theorem exec_jalr (d : Reg) (a : Reg) (imm : BitVec 16) (s : State) : exec (.jalr d a imm) s = execJalr d a imm s := rfl
@[simp] theorem exec_ldB (d : Reg) (base : Reg) (cls : BitVec 4) (off : BitVec 9) (s : State) : exec (.ldB d base cls off) s = execLdB d base cls off s := rfl
@[simp] theorem exec_ldH (d : Reg) (base : Reg) (cls : BitVec 4) (off : BitVec 9) (s : State) : exec (.ldH d base cls off) s = execLdH d base cls off s := rfl
@[simp] theorem exec_ldW (d : Reg) (base : Reg) (cls : BitVec 4) (off : BitVec 9) (s : State) : exec (.ldW d base cls off) s = execLdW d base cls off s := rfl
@[simp] theorem exec_ldBn (d : Reg) (base : Reg) (cls : BitVec 4) (off : BitVec 9) (s : State) : exec (.ldBn d base cls off) s = execLdBn d base cls off s := rfl
@[simp] theorem exec_ldHn (d : Reg) (base : Reg) (cls : BitVec 4) (off : BitVec 9) (s : State) : exec (.ldHn d base cls off) s = execLdHn d base cls off s := rfl
@[simp] theorem exec_ldWn (d : Reg) (base : Reg) (cls : BitVec 4) (off : BitVec 9) (s : State) : exec (.ldWn d base cls off) s = execLdWn d base cls off s := rfl
@[simp] theorem exec_ldD (d : Reg) (base : Reg) (cls : BitVec 4) (off : BitVec 9) (s : State) : exec (.ldD d base cls off) s = execLdD d base cls off s := rfl
@[simp] theorem exec_stB (src : Reg) (base : Reg) (cls : BitVec 4) (off : BitVec 9) (s : State) : exec (.stB src base cls off) s = execStB src base cls off s := rfl
@[simp] theorem exec_stH (src : Reg) (base : Reg) (cls : BitVec 4) (off : BitVec 9) (s : State) : exec (.stH src base cls off) s = execStH src base cls off s := rfl
@[simp] theorem exec_stW (src : Reg) (base : Reg) (cls : BitVec 4) (off : BitVec 9) (s : State) : exec (.stW src base cls off) s = execStW src base cls off s := rfl
@[simp] theorem exec_stD (src : Reg) (base : Reg) (cls : BitVec 4) (off : BitVec 9) (s : State) : exec (.stD src base cls off) s = execStD src base cls off s := rfl
@[simp] theorem exec_crd (d : Reg) (cr : BitVec 12) (s : State) : exec (.crd d cr) s = execCrd d cr s := rfl
@[simp] theorem exec_cwr (cr : BitVec 12) (a : Reg) (s : State) : exec (.cwr cr a) s = execCwr cr a s := rfl
@[simp] theorem exec_crs (d : Reg) (cr : BitVec 12) (a : Reg) (s : State) : exec (.crs d cr a) s = execCrs d cr a s := rfl
@[simp] theorem exec_crc (d : Reg) (cr : BitVec 12) (a : Reg) (s : State) : exec (.crc d cr a) s = execCrc d cr a s := rfl
@[simp] theorem exec_vsetvl (d : Reg) (a : Reg) (b : Reg) (s : State) : exec (.vsetvl d a b) s = execVsetvl d a b s := rfl
@[simp] theorem exec_vcfg (d : Reg) (a : Reg) (s : State) : exec (.vcfg d a) s = execVcfg d a s := rfl
@[simp] theorem exec_amoAdd (d : Reg) (a : Reg) (b : Reg) (f : AmoForm) (s : State) : exec (.amoAdd d a b f) s = execAmoAdd d a b f s := rfl
@[simp] theorem exec_amoAnd (d : Reg) (a : Reg) (b : Reg) (f : AmoForm) (s : State) : exec (.amoAnd d a b f) s = execAmoAnd d a b f s := rfl
@[simp] theorem exec_amoOr (d : Reg) (a : Reg) (b : Reg) (f : AmoForm) (s : State) : exec (.amoOr d a b f) s = execAmoOr d a b f s := rfl
@[simp] theorem exec_amoXor (d : Reg) (a : Reg) (b : Reg) (f : AmoForm) (s : State) : exec (.amoXor d a b f) s = execAmoXor d a b f s := rfl
@[simp] theorem exec_amoMin (d : Reg) (a : Reg) (b : Reg) (f : AmoForm) (s : State) : exec (.amoMin d a b f) s = execAmoMin d a b f s := rfl
@[simp] theorem exec_amoMax (d : Reg) (a : Reg) (b : Reg) (f : AmoForm) (s : State) : exec (.amoMax d a b f) s = execAmoMax d a b f s := rfl
@[simp] theorem exec_amoMinn (d : Reg) (a : Reg) (b : Reg) (f : AmoForm) (s : State) : exec (.amoMinn d a b f) s = execAmoMinn d a b f s := rfl
@[simp] theorem exec_amoMaxn (d : Reg) (a : Reg) (b : Reg) (f : AmoForm) (s : State) : exec (.amoMaxn d a b f) s = execAmoMaxn d a b f s := rfl
@[simp] theorem exec_amoSwap (d : Reg) (a : Reg) (b : Reg) (f : AmoForm) (s : State) : exec (.amoSwap d a b f) s = execAmoSwap d a b f s := rfl
@[simp] theorem exec_amoCas (d : Reg) (a : Reg) (b : Reg) (f : AmoForm) (s : State) : exec (.amoCas d a b f) s = execAmoCas d a b f s := rfl
@[simp] theorem exec_join (a : Reg) (s : State) : exec (.join a) s = execJoin a s := rfl
@[simp] theorem exec_leave (a : Reg) (s : State) : exec (.leave a) s = execLeave a s := rfl
@[simp] theorem exec_grank (d : Reg) (a : Reg) (s : State) : exec (.grank d a) s = execGrank d a s := rfl
@[simp] theorem exec_step (a : Reg) (s : State) : exec (.step a) s = execStep a s := rfl
@[simp] theorem exec_pbind (a : Reg) (b : Reg) (s : State) : exec (.pbind a b) s = execPbind a b s := rfl
@[simp] theorem exec_punbind (a : Reg) (s : State) : exec (.punbind a) s = execPunbind a s := rfl
@[simp] theorem exec_bar (j : BitVec 7) (a : Reg) (s : State) : exec (.bar j a) s = execBar j a s := rfl
@[simp] theorem exec_bara (j : BitVec 7) (a : Reg) (s : State) : exec (.bara j a) s = execBara j a s := rfl
@[simp] theorem exec_barw (j : BitVec 7) (s : State) : exec (.barw j) s = execBarw j s := rfl
@[simp] theorem exec_gbar (a : Reg) (s : State) : exec (.gbar a) s = execGbar a s := rfl
@[simp] theorem exec_fenceC (scope : BitVec 3) (classes : BitVec 16) (s : State) : exec (.fenceC scope classes) s = execFenceC scope classes s := rfl
@[simp] theorem exec_forkM (a : Reg) (b : Reg) (s : State) : exec (.forkM a b) s = execForkM a b s := rfl
@[simp] theorem exec_forkC (a : Reg) (b : Reg) (s : State) : exec (.forkC a b) s = execForkC a b s := rfl
@[simp] theorem exec_forkH (d : Reg) (a : Reg) (b : Reg) (s : State) : exec (.forkH d a b) s = execForkH d a b s := rfl
@[simp] theorem exec_sbind (j : BitVec 3) (a : Reg) (b : Reg) (s : State) : exec (.sbind j a b) s = execSbind j a b s := rfl
@[simp] theorem exec_scpy (j : BitVec 3) (a : Reg) (b : Reg) (s : State) : exec (.scpy j a b) s = execScpy j a b s := rfl
@[simp] theorem exec_swait (tokens : BitVec 8) (s : State) : exec (.swait tokens) s = execSwait tokens s := rfl
@[simp] theorem exec_scancel (j : BitVec 3) (s : State) : exec (.scancel j) s = execScancel j s := rfl
@[simp] theorem exec_squery (d : Reg) (j : BitVec 3) (s : State) : exec (.squery d j) s = execSquery d j s := rfl
@[simp] theorem exec_scpySeg (j : BitVec 3) (a : Reg) (b : Reg) (s : State) : exec (.scpySeg j a b) s = execScpySeg j a b s := rfl
@[simp] theorem exec_qdesc (j : BitVec 2) (a : Reg) (b : Reg) (s : State) : exec (.qdesc j a b) s = execQdesc j a b s := rfl
@[simp] theorem exec_creloc (a : Reg) (b : Reg) (s : State) : exec (.creloc a b) s = execCreloc a b s := rfl
@[simp] theorem exec_xlook (d : Reg) (a : Reg) (s : State) : exec (.xlook d a) s = execXlook d a s := rfl
@[simp] theorem exec_xpark (d : Reg) (a : Reg) (m : BitVec 4) (s : State) : exec (.xpark d a m) s = execXpark d a m s := rfl
@[simp] theorem exec_xwake (d : Reg) (m : BitVec 4) (s : State) : exec (.xwake d m) s = execXwake d m s := rfl
@[simp] theorem exec_xlayer (d : Reg) (s : State) : exec (.xlayer d) s = execXlayer d s := rfl
@[simp] theorem exec_xrepl (a : Reg) (b : Reg) (s : State) : exec (.xrepl a b) s = execXrepl a b s := rfl
@[simp] theorem exec_xhint (a : Reg) (b : Reg) (s : State) : exec (.xhint a b) s = execXhint a b s := rfl
@[simp] theorem exec_mldW (a : Reg) (b : Reg) (s : State) : exec (.mldW a b) s = execMldW a b s := rfl
@[simp] theorem exec_mldA (a : Reg) (b : Reg) (s : State) : exec (.mldA a b) s = execMldA a b s := rfl
@[simp] theorem exec_mma (j : BitVec 2) (a : Reg) (b : Reg) (s : State) : exec (.mma j a b) s = execMma j a b s := rfl
@[simp] theorem exec_mzero (j : BitVec 2) (s : State) : exec (.mzero j) s = execMzero j s := rfl
@[simp] theorem exec_mst (j : BitVec 2) (a : Reg) (s : State) : exec (.mst j a) s = execMst j a s := rfl
@[simp] theorem exec_mcfg (a : Reg) (s : State) : exec (.mcfg a) s = execMcfg a s := rfl
@[simp] theorem exec_mscale (a : Reg) (b : Reg) (s : State) : exec (.mscale a b) s = execMscale a b s := rfl
@[simp] theorem exec_trap (a : Reg) (s : State) : exec (.trap a) s = execTrap a s := rfl
@[simp] theorem exec_tlbinv (a : Reg) (s : State) : exec (.tlbinv a) s = execTlbinv a s := rfl
@[simp] theorem exec_ctxsave (a : Reg) (s : State) : exec (.ctxsave a) s = execCtxsave a s := rfl
@[simp] theorem exec_ctxload (a : Reg) (s : State) : exec (.ctxload a) s = execCtxload a s := rfl
@[simp] theorem exec_logmark (a : Reg) (s : State) : exec (.logmark a) s = execLogmark a s := rfl
@[simp] theorem exec_klaunch (d : Reg) (a : Reg) (s : State) : exec (.klaunch d a) s = execKlaunch d a s := rfl
@[simp] theorem exec_kwait (a : Reg) (s : State) : exec (.kwait a) s = execKwait a s := rfl
@[simp] theorem exec_kkill (a : Reg) (s : State) : exec (.kkill a) s = execKkill a s := rfl
@[simp] theorem exec_kprio (a : Reg) (b : Reg) (s : State) : exec (.kprio a b) s = execKprio a b s := rfl
@[simp] theorem exec_waitm (d : Reg) (a : Reg) (b : Reg) (cls : BitVec 4) (s : State) : exec (.waitm d a b cls) s = execWaitm d a b cls s := rfl
@[simp] theorem exec_vf (off : BitVec 26) (s : State) : exec (.vf off) s = execVf off s := rfl
@[simp] theorem exec_vaddFp (bf : Bool) (f : VR) (s : State) : exec (.vaddFp bf f) s = execVaddFp bf f s := rfl
@[simp] theorem exec_vsubFp (bf : Bool) (f : VR) (s : State) : exec (.vsubFp bf f) s = execVsubFp bf f s := rfl
@[simp] theorem exec_vmulFp (bf : Bool) (f : VR) (s : State) : exec (.vmulFp bf f) s = execVmulFp bf f s := rfl
@[simp] theorem exec_vfma (bf : Bool) (f : VR) (s : State) : exec (.vfma bf f) s = execVfma bf f s := rfl
@[simp] theorem exec_vfms (bf : Bool) (f : VR) (s : State) : exec (.vfms bf f) s = execVfms bf f s := rfl
@[simp] theorem exec_vfnma (bf : Bool) (f : VR) (s : State) : exec (.vfnma bf f) s = execVfnma bf f s := rfl
@[simp] theorem exec_vdiv (bf : Bool) (f : VR) (s : State) : exec (.vdiv bf f) s = execVdiv bf f s := rfl
@[simp] theorem exec_vsqrt (bf : Bool) (f : VR) (s : State) : exec (.vsqrt bf f) s = execVsqrt bf f s := rfl
@[simp] theorem exec_vminFp (bf : Bool) (f : VR) (s : State) : exec (.vminFp bf f) s = execVminFp bf f s := rfl
@[simp] theorem exec_vmaxFp (bf : Bool) (f : VR) (s : State) : exec (.vmaxFp bf f) s = execVmaxFp bf f s := rfl
@[simp] theorem exec_vabs (bf : Bool) (f : VR) (s : State) : exec (.vabs bf f) s = execVabs bf f s := rfl
@[simp] theorem exec_vneg (bf : Bool) (f : VR) (s : State) : exec (.vneg bf f) s = execVneg bf f s := rfl
@[simp] theorem exec_vcopysign (bf : Bool) (f : VR) (s : State) : exec (.vcopysign bf f) s = execVcopysign bf f s := rfl
@[simp] theorem exec_vexp2 (f : VR) (s : State) : exec (.vexp2 f) s = execVexp2 f s := rfl
@[simp] theorem exec_vlog2 (f : VR) (s : State) : exec (.vlog2 f) s = execVlog2 f s := rfl
@[simp] theorem exec_vrcp (f : VR) (s : State) : exec (.vrcp f) s = execVrcp f s := rfl
@[simp] theorem exec_vrsqrt (f : VR) (s : State) : exec (.vrsqrt f) s = execVrsqrt f s := rfl
@[simp] theorem exec_vtanh (f : VR) (s : State) : exec (.vtanh f) s = execVtanh f s := rfl
@[simp] theorem exec_vcvtBf16F32 (f : VR) (s : State) : exec (.vcvtBf16F32 f) s = execVcvtBf16F32 f s := rfl
@[simp] theorem exec_vcvtF32I32 (f : VR) (s : State) : exec (.vcvtF32I32 f) s = execVcvtF32I32 f s := rfl
@[simp] theorem exec_vcvtI32F32 (f : VR) (s : State) : exec (.vcvtI32F32 f) s = execVcvtI32F32 f s := rfl
@[simp] theorem exec_vcvtF32N32 (f : VR) (s : State) : exec (.vcvtF32N32 f) s = execVcvtF32N32 f s := rfl
@[simp] theorem exec_vcvtN32F32 (f : VR) (s : State) : exec (.vcvtN32F32 f) s = execVcvtN32F32 f s := rfl
@[simp] theorem exec_vround (f : VR) (s : State) : exec (.vround f) s = execVround f s := rfl
@[simp] theorem exec_vclass (f : VR) (s : State) : exec (.vclass f) s = execVclass f s := rfl
@[simp] theorem exec_vaddI32 (f : VR) (s : State) : exec (.vaddI32 f) s = execVaddI32 f s := rfl
@[simp] theorem exec_vsubI32 (f : VR) (s : State) : exec (.vsubI32 f) s = execVsubI32 f s := rfl
@[simp] theorem exec_vmulI32 (f : VR) (s : State) : exec (.vmulI32 f) s = execVmulI32 f s := rfl
@[simp] theorem exec_vmulh (f : VR) (s : State) : exec (.vmulh f) s = execVmulh f s := rfl
@[simp] theorem exec_vmulhn (f : VR) (s : State) : exec (.vmulhn f) s = execVmulhn f s := rfl
@[simp] theorem exec_vand (f : VR) (s : State) : exec (.vand f) s = execVand f s := rfl
@[simp] theorem exec_vor (f : VR) (s : State) : exec (.vor f) s = execVor f s := rfl
@[simp] theorem exec_vxor (f : VR) (s : State) : exec (.vxor f) s = execVxor f s := rfl
@[simp] theorem exec_vshl (f : VR) (s : State) : exec (.vshl f) s = execVshl f s := rfl
@[simp] theorem exec_vshr (f : VR) (s : State) : exec (.vshr f) s = execVshr f s := rfl
@[simp] theorem exec_vsra (f : VR) (s : State) : exec (.vsra f) s = execVsra f s := rfl
@[simp] theorem exec_vminI32 (f : VR) (s : State) : exec (.vminI32 f) s = execVminI32 f s := rfl
@[simp] theorem exec_vmaxI32 (f : VR) (s : State) : exec (.vmaxI32 f) s = execVmaxI32 f s := rfl
@[simp] theorem exec_vminn (f : VR) (s : State) : exec (.vminn f) s = execVminn f s := rfl
@[simp] theorem exec_vmaxn (f : VR) (s : State) : exec (.vmaxn f) s = execVmaxn f s := rfl
@[simp] theorem exec_vaddi (f : VI) (s : State) : exec (.vaddi f) s = execVaddi f s := rfl
@[simp] theorem exec_vandi (f : VI) (s : State) : exec (.vandi f) s = execVandi f s := rfl
@[simp] theorem exec_vori (f : VI) (s : State) : exec (.vori f) s = execVori f s := rfl
@[simp] theorem exec_vxori (f : VI) (s : State) : exec (.vxori f) s = execVxori f s := rfl
@[simp] theorem exec_vshli (f : VI) (s : State) : exec (.vshli f) s = execVshli f s := rfl
@[simp] theorem exec_vshri (f : VI) (s : State) : exec (.vshri f) s = execVshri f s := rfl
@[simp] theorem exec_vsrai (f : VI) (s : State) : exec (.vsrai f) s = execVsrai f s := rfl
@[simp] theorem exec_vcmp (ty : BitVec 2) (cond : BitVec 3) (f : VR) (s : State) : exec (.vcmp ty cond f) s = execVcmp ty cond f s := rfl
@[simp] theorem exec_mand (f : VR) (s : State) : exec (.mand f) s = execMand f s := rfl
@[simp] theorem exec_mor (f : VR) (s : State) : exec (.mor f) s = execMor f s := rfl
@[simp] theorem exec_mxor (f : VR) (s : State) : exec (.mxor f) s = execMxor f s := rfl
@[simp] theorem exec_mandn (f : VR) (s : State) : exec (.mandn f) s = execMandn f s := rfl
@[simp] theorem exec_mnot (f : VR) (s : State) : exec (.mnot f) s = execMnot f s := rfl
@[simp] theorem exec_mset (f : VR) (s : State) : exec (.mset f) s = execMset f s := rfl
@[simp] theorem exec_mclr (f : VR) (s : State) : exec (.mclr f) s = execMclr f s := rfl
@[simp] theorem exec_mpop (f : VR) (s : State) : exec (.mpop f) s = execMpop f s := rfl
@[simp] theorem exec_mfirst (f : VR) (s : State) : exec (.mfirst f) s = execMfirst f s := rfl
@[simp] theorem exec_mlist (f : VR) (s : State) : exec (.mlist f) s = execMlist f s := rfl
@[simp] theorem exec_mfromv (f : VR) (s : State) : exec (.mfromv f) s = execMfromv f s := rfl
@[simp] theorem exec_mtov (f : VR) (s : State) : exec (.mtov f) s = execMtov f s := rfl
@[simp] theorem exec_vcompress (f : VR) (s : State) : exec (.vcompress f) s = execVcompress f s := rfl
@[simp] theorem exec_vexpand (f : VR) (s : State) : exec (.vexpand f) s = execVexpand f s := rfl
@[simp] theorem exec_vperm (f : VR) (s : State) : exec (.vperm f) s = execVperm f s := rfl
@[simp] theorem exec_vslideup (f : VR) (s : State) : exec (.vslideup f) s = execVslideup f s := rfl
@[simp] theorem exec_vslidedn (f : VR) (s : State) : exec (.vslidedn f) s = execVslidedn f s := rfl
@[simp] theorem exec_vbcast (f : VR) (s : State) : exec (.vbcast f) s = execVbcast f s := rfl
@[simp] theorem exec_vid (f : VR) (s : State) : exec (.vid f) s = execVid f s := rfl
@[simp] theorem exec_vmv (f : VR) (s : State) : exec (.vmv f) s = execVmv f s := rfl
@[simp] theorem exec_vsel (f : VR) (s : State) : exec (.vsel f) s = execVsel f s := rfl
@[simp] theorem exec_vredsumF32 (f : VR) (s : State) : exec (.vredsumF32 f) s = execVredsumF32 f s := rfl
@[simp] theorem exec_vredsumBf16 (f : VR) (s : State) : exec (.vredsumBf16 f) s = execVredsumBf16 f s := rfl
@[simp] theorem exec_vredmax (f : VR) (s : State) : exec (.vredmax f) s = execVredmax f s := rfl
@[simp] theorem exec_vredmin (f : VR) (s : State) : exec (.vredmin f) s = execVredmin f s := rfl
@[simp] theorem exec_vredsumI32 (f : VR) (s : State) : exec (.vredsumI32 f) s = execVredsumI32 f s := rfl
@[simp] theorem exec_vredsumb (f : VR) (s : State) : exec (.vredsumb f) s = execVredsumb f s := rfl
@[simp] theorem exec_vscanF32 (f : VR) (s : State) : exec (.vscanF32 f) s = execVscanF32 f s := rfl
@[simp] theorem exec_vredmaxi (f : VR) (s : State) : exec (.vredmaxi f) s = execVredmaxi f s := rfl
@[simp] theorem exec_vmergek (f : VR) (s : State) : exec (.vmergek f) s = execVmergek f s := rfl
@[simp] theorem exec_vtopk (f : VR) (s : State) : exec (.vtopk f) s = execVtopk f s := rfl
@[simp] theorem exec_xcount (f : VR) (s : State) : exec (.xcount f) s = execXcount f s := rfl
@[simp] theorem exec_xcsel (f : VR) (s : State) : exec (.xcsel f) s = execXcsel f s := rfl
@[simp] theorem exec_vld (f : VM) (s : State) : exec (.vld f) s = execVld f s := rfl
@[simp] theorem exec_vst (f : VM) (s : State) : exec (.vst f) s = execVst f s := rfl
@[simp] theorem exec_vlds (f : VM) (s : State) : exec (.vlds f) s = execVlds f s := rfl
@[simp] theorem exec_vsts (f : VM) (s : State) : exec (.vsts f) s = execVsts f s := rfl
@[simp] theorem exec_vldx (f : VM) (s : State) : exec (.vldx f) s = execVldx f s := rfl
@[simp] theorem exec_vstx (f : VM) (s : State) : exec (.vstx f) s = execVstx f s := rfl
@[simp] theorem exec_vldff (f : VM) (s : State) : exec (.vldff f) s = execVldff f s := rfl
@[simp] theorem exec_vldseg (f : VM) (s : State) : exec (.vldseg f) s = execVldseg f s := rfl
@[simp] theorem exec_vappend (f : VM) (s : State) : exec (.vappend f) s = execVappend f s := rfl
@[simp] theorem exec_mdrain (f : VM) (s : State) : exec (.mdrain f) s = execMdrain f s := rfl
@[simp] theorem exec_mfill (f : VM) (s : State) : exec (.mfill f) s = execMfill f s := rfl
@[simp] theorem exec_vamoAdd (order : BitVec 2) (f : VM) (s : State) : exec (.vamoAdd order f) s = execVamoAdd order f s := rfl
@[simp] theorem exec_vamoAnd (order : BitVec 2) (f : VM) (s : State) : exec (.vamoAnd order f) s = execVamoAnd order f s := rfl
@[simp] theorem exec_vamoOr (order : BitVec 2) (f : VM) (s : State) : exec (.vamoOr order f) s = execVamoOr order f s := rfl
@[simp] theorem exec_vamoXor (order : BitVec 2) (f : VM) (s : State) : exec (.vamoXor order f) s = execVamoXor order f s := rfl
@[simp] theorem exec_vamoMin (order : BitVec 2) (f : VM) (s : State) : exec (.vamoMin order f) s = execVamoMin order f s := rfl
@[simp] theorem exec_vamoMax (order : BitVec 2) (f : VM) (s : State) : exec (.vamoMax order f) s = execVamoMax order f s := rfl
@[simp] theorem exec_vamoMinn (order : BitVec 2) (f : VM) (s : State) : exec (.vamoMinn order f) s = execVamoMinn order f s := rfl
@[simp] theorem exec_vamoMaxn (order : BitVec 2) (f : VM) (s : State) : exec (.vamoMaxn order f) s = execVamoMaxn order f s := rfl
@[simp] theorem exec_vamoSwap (order : BitVec 2) (f : VM) (s : State) : exec (.vamoSwap order f) s = execVamoSwap order f s := rfl
@[simp] theorem exec_cadd (f : VM) (s : State) : exec (.cadd f) s = execCadd f s := rfl
@[simp] theorem exec_vpref (f : VM) (s : State) : exec (.vpref f) s = execVpref f s := rfl
@[simp] theorem exec_qdot (f : VQ) (s : State) : exec (.qdot f) s = execQdot f s := rfl
@[simp] theorem exec_qwsum (f : VQ) (s : State) : exec (.qwsum f) s = execQwsum f s := rfl
@[simp] theorem exec_qfsum (f : VQ) (s : State) : exec (.qfsum f) s = execQfsum f s := rfl
@[simp] theorem exec_qmaxi (f : VQ) (s : State) : exec (.qmaxi f) s = execQmaxi f s := rfl
@[simp] theorem exec_qtopk (f : VQ) (s : State) : exec (.qtopk f) s = execQtopk f s := rfl
@[simp] theorem exec_qhist (f : VQ) (s : State) : exec (.qhist f) s = execQhist f s := rfl
@[simp] theorem exec_vsync (s : State) : exec .vsync s = execVsync s := rfl
@[simp] theorem exec_rdvM (s : State) : exec .rdvM s = execRdvM s := rfl
@[simp] theorem exec_rdvC (s : State) : exec .rdvC s = execRdvC s := rfl
@[simp] theorem exec_rdvMc (s : State) : exec .rdvMc s = execRdvMc s := rfl
@[simp] theorem exec_halt (s : State) : exec .halt s = execHalt s := rfl
@[simp] theorem exec_mwait (s : State) : exec .mwait s = execMwait s := rfl
@[simp] theorem exec_eret (s : State) : exec .eret s = execEret s := rfl
@[simp] theorem exec_brk (s : State) : exec .brk s = execBrk s := rfl
@[simp] theorem exec_vstop (s : State) : exec .vstop s = execVstop s := rfl
@[simp] theorem exec_convoyIssue (slot : Nat) (s : State) : exec (.convoyIssue slot) s = execConvoyIssue slot s := rfl
@[simp] theorem exec_queryReply (slot : Nat) (s : State) : exec (.queryReply slot) s = execQueryReply slot s := rfl
@[simp] theorem exec_waitmWake (slot : Nat) (s : State) : exec (.waitmWake slot) s = execWaitmWake slot s := rfl
@[simp] theorem exec_regrant (cluster : Nat) (s : State) : exec (.regrant cluster) s = execRegrant cluster s := rfl
@[simp] theorem exec_priorityAging (s : State) : exec .priorityAging s = execPriorityAging s := rfl
@[simp] theorem exec_budgetExceeded (ctx : Nat) (kid : Nat) (s : State) : exec (.budgetExceeded ctx kid) s = execBudgetExceeded ctx kid s := rfl
@[simp] theorem exec_intervalDigest (slot : Nat) (s : State) : exec (.intervalDigest slot) s = execIntervalDigest slot s := rfl
@[simp] theorem exec_dbgSample (slot : Nat) (s : State) : exec (.dbgSample slot) s = execDbgSample slot s := rfl
@[simp] theorem exec_retentionEntry (slot : Nat) (bank : Nat) (s : State) : exec (.retentionEntry slot bank) s = execRetentionEntry slot bank s := rfl
@[simp] theorem exec_hartPlacement (s : State) : exec .hartPlacement s = execHartPlacement s := rfl
@[simp] theorem exec_scoreboardAdmit (die : Nat) (s : State) : exec (.scoreboardAdmit die) s = execScoreboardAdmit die s := rfl
@[simp] theorem exec_inputTransferComplete (ctx : Nat) (kid : Nat) (n : Nat) (s : State) : exec (.inputTransferComplete ctx kid n) s = execInputTransferComplete ctx kid n s := rfl
@[simp] theorem exec_kernelReady (ctx : Nat) (kid : Nat) (s : State) : exec (.kernelReady ctx kid) s = execKernelReady ctx kid s := rfl
@[simp] theorem exec_clockModeChange (s : State) : exec .clockModeChange s = execClockModeChange s := rfl
@[simp] theorem exec_matrixProgramStart (cluster : Nat) (s : State) : exec (.matrixProgramStart cluster) s = execMatrixProgramStart cluster s := rfl
@[simp] theorem exec_copyProgramStart (cluster : Nat) (s : State) : exec (.copyProgramStart cluster) s = execCopyProgramStart cluster s := rfl
@[simp] theorem exec_matrixOperationStart (cluster : Nat) (fill : Bool) (s : State) : exec (.matrixOperationStart cluster fill) s = execMatrixOperationStart cluster fill s := rfl
@[simp] theorem exec_rowFinal (cluster : Nat) (s : State) : exec (.rowFinal cluster) s = execRowFinal cluster s := rfl
@[simp] theorem exec_matrixOperationComplete (cluster : Nat) (fill : Bool) (s : State) : exec (.matrixOperationComplete cluster fill) s = execMatrixOperationComplete cluster fill s := rfl
@[simp] theorem exec_copyStart (cluster : Nat) (idx : Nat) (s : State) : exec (.copyStart cluster idx) s = execCopyStart cluster idx s := rfl
@[simp] theorem exec_copyComplete (cluster : Nat) (idx : Nat) (s : State) : exec (.copyComplete cluster idx) s = execCopyComplete cluster idx s := rfl
@[simp] theorem exec_copyFail (cluster : Nat) (idx : Nat) (s : State) : exec (.copyFail cluster idx) s = execCopyFail cluster idx s := rfl
@[simp] theorem exec_readStreamFetch (slot : Nat) (q : Nat) (s : State) : exec (.readStreamFetch slot q) s = execReadStreamFetch slot q s := rfl
@[simp] theorem exec_writeStreamPerform (slot : Nat) (q : Nat) (s : State) : exec (.writeStreamPerform slot q) s = execWriteStreamPerform slot q s := rfl
@[simp] theorem exec_expertFetchStart (ctx : Nat) (e : Nat) (s : State) : exec (.expertFetchStart ctx e) s = execExpertFetchStart ctx e s := rfl
@[simp] theorem exec_expertFetchComplete (ctx : Nat) (e : Nat) (s : State) : exec (.expertFetchComplete ctx e) s = execExpertFetchComplete ctx e s := rfl
@[simp] theorem exec_replicaFill (ctx : Nat) (e : Nat) (rep : BitVec 16) (s : State) : exec (.replicaFill ctx e rep) s = execReplicaFill ctx e rep s := rfl
@[simp] theorem exec_tierPageIn (die : Nat) (idx : Nat) (s : State) : exec (.tierPageIn die idx) s = execTierPageIn die idx s := rfl
@[simp] theorem exec_tierPageOut (die : Nat) (idx : Nat) (s : State) : exec (.tierPageOut die idx) s = execTierPageOut die idx s := rfl
@[simp] theorem exec_cellarMove (die : Nat) (idx : Nat) (s : State) : exec (.cellarMove die idx) s = execCellarMove die idx s := rfl
@[simp] theorem exec_zeroFrame (die : Nat) (idx : Nat) (s : State) : exec (.zeroFrame die idx) s = execZeroFrame die idx s := rfl
@[simp] theorem exec_tierCommandDone (die : Nat) (idx : Nat) (s : State) : exec (.tierCommandDone die idx) s = execTierCommandDone die idx s := rfl
@[simp] theorem exec_contextFault (ctx : Nat) (stack : Nat) (baseDie : Bool) (pa : Nat) (s : State) : exec (.contextFault ctx stack baseDie pa) s = execContextFault ctx stack baseDie pa s := rfl
@[simp] theorem exec_discardComplete (ctx : Nat) (s : State) : exec (.discardComplete ctx) s = execDiscardComplete ctx s := rfl
@[simp] theorem exec_registerWrite (cr : BitVec 12) (v : BitVec 64) (s : State) : exec (.registerWrite cr v) s = execRegisterWrite cr v s := rfl
@[simp] theorem exec_srseedWrite (v : BitVec 64) (s : State) : exec (.srseedWrite v) s = execSrseedWrite v s := rfl
@[simp] theorem exec_fflagsWrite (v : BitVec 64) (s : State) : exec (.fflagsWrite v) s = execFflagsWrite v s := rfl
@[simp] theorem exec_ctxcmdOpen (ctx : Nat) (s : State) : exec (.ctxcmdOpen ctx) s = execCtxcmdOpen ctx s := rfl
@[simp] theorem exec_ctxcmdClose (ctx : Nat) (s : State) : exec (.ctxcmdClose ctx) s = execCtxcmdClose ctx s := rfl
@[simp] theorem exec_ctxcmdReopen (ctx : Nat) (s : State) : exec (.ctxcmdReopen ctx) s = execCtxcmdReopen ctx s := rfl
@[simp] theorem exec_lpbaseWrite (v : BitVec 64) (s : State) : exec (.lpbaseWrite v) s = execLpbaseWrite v s := rfl
@[simp] theorem exec_lplimitWrite (die : Nat) (v : BitVec 64) (s : State) : exec (.lplimitWrite die v) s = execLplimitWrite die v s := rfl
@[simp] theorem exec_kcinv (v : BitVec 64) (s : State) : exec (.kcinv v) s = execKcinv v s := rfl
@[simp] theorem exec_clkmodeWrite (v : BitVec 64) (s : State) : exec (.clkmodeWrite v) s = execClkmodeWrite v s := rfl
@[simp] theorem exec_pgwake (v : BitVec 64) (s : State) : exec (.pgwake v) s = execPgwake v s := rfl
@[simp] theorem exec_xe0Pin (ctx : Nat) (e : Nat) (s : State) : exec (.xe0Pin ctx e) s = execXe0Pin ctx e s := rfl
@[simp] theorem exec_xe0Unpin (ctx : Nat) (e : Nat) (s : State) : exec (.xe0Unpin ctx e) s = execXe0Unpin ctx e s := rfl
@[simp] theorem exec_xe0Evict (ctx : Nat) (e : Nat) (s : State) : exec (.xe0Evict ctx e) s = execXe0Evict ctx e s := rfl
@[simp] theorem exec_xe3Stage (v : BitVec 64) (s : State) : exec (.xe3Stage v) s = execXe3Stage v s := rfl
@[simp] theorem exec_sltWrite (cr : BitVec 12) (v : BitVec 64) (s : State) : exec (.sltWrite cr v) s = execSltWrite cr v s := rfl
@[simp] theorem exec_sltTurnApply (stack : Nat) (chan : Nat) (s : State) : exec (.sltTurnApply stack chan) s = execSltTurnApply stack chan s := rfl
@[simp] theorem exec_bdctlRestart (v : BitVec 64) (s : State) : exec (.bdctlRestart v) s = execBdctlRestart v s := rfl
@[simp] theorem exec_errlogClear (v : BitVec 64) (s : State) : exec (.errlogClear v) s = execErrlogClear v s := rfl
@[simp] theorem exec_dbghalt (v : BitVec 64) (s : State) : exec (.dbghalt v) s = execDbghalt v s := rfl
@[simp] theorem exec_mboxNop (host : Bool) (s : State) : exec (.mboxNop host) s = execMboxNop host s := rfl
@[simp] theorem exec_mboxReadDebug (host : Bool) (s : State) : exec (.mboxReadDebug host) s = execMboxReadDebug host s := rfl
@[simp] theorem exec_mboxWriteDebug (host : Bool) (s : State) : exec (.mboxWriteDebug host) s = execMboxWriteDebug host s := rfl
@[simp] theorem exec_mboxReadMonitor (host : Bool) (s : State) : exec (.mboxReadMonitor host) s = execMboxReadMonitor host s := rfl
@[simp] theorem exec_mboxWriteMonitor (host : Bool) (s : State) : exec (.mboxWriteMonitor host) s = execMboxWriteMonitor host s := rfl
@[simp] theorem exec_mboxReadStage (host : Bool) (s : State) : exec (.mboxReadStage host) s = execMboxReadStage host s := rfl
@[simp] theorem exec_heartbeat (die : Nat) (pointer : Nat) (s : State) : exec (.heartbeat die pointer) s = execHeartbeat die pointer s := rfl
@[simp] theorem exec_refresh (die : Nat) (s : State) : exec (.refresh die) s = execRefresh die s := rfl
@[simp] theorem exec_fallbackTakeover (die : Nat) (s : State) : exec (.fallbackTakeover die) s = execFallbackTakeover die s := rfl
@[simp] theorem exec_refreshHandback (die : Nat) (s : State) : exec (.refreshHandback die) s = execRefreshHandback die s := rfl
@[simp] theorem exec_subarrayClose (die : Nat) (bank : Nat) (latch : Nat) (s : State) : exec (.subarrayClose die bank latch) s = execSubarrayClose die bank latch s := rfl
@[simp] theorem exec_activationAlert (die : Nat) (bank : Nat) (row : Nat) (query : Bool) (s : State) : exec (.activationAlert die bank row query) s = execActivationAlert die bank row query s := rfl
@[simp] theorem exec_throttleEnd (die : Nat) (bank : Nat) (s : State) : exec (.throttleEnd die bank) s = execThrottleEnd die bank s := rfl
@[simp] theorem exec_scrub (die : Nat) (block : Nat) (s : State) : exec (.scrub die block) s = execScrub die block s := rfl
@[simp] theorem exec_clockLower (s : State) : exec .clockLower s = execClockLower s := rfl
@[simp] theorem exec_clockRaise (s : State) : exec .clockRaise s = execClockRaise s := rfl
@[simp] theorem exec_heatBreak (s : State) : exec .heatBreak s = execHeatBreak s := rfl
@[simp] theorem exec_thermalTrip (s : State) : exec .thermalTrip s = execThermalTrip s := rfl
@[simp] theorem exec_boot (s : State) : exec .boot s = execBoot s := rfl
@[simp] theorem exec_flitReceive (port : Nat) (f : Flit) (s : State) : exec (.flitReceive port f) s = execFlitReceive port f s := rfl
@[simp] theorem exec_linkDown (port : Nat) (s : State) : exec (.linkDown port) s = execLinkDown port s := rfl
@[simp] theorem exec_tierLinkLoss (port : Nat) (s : State) : exec (.tierLinkLoss port) s = execTierLinkLoss port s := rfl
@[simp] theorem exec_hostMemAccess (pa : Nat) (data : Option (List (BitVec 8))) (s : State) : exec (.hostMemAccess pa data) s = execHostMemAccess pa data s := rfl
@[simp] theorem exec_getVersion (req : List (BitVec 8)) (s : State) : exec (.getVersion req) s = execGetVersion req s := rfl
@[simp] theorem exec_getCapabilities (req : List (BitVec 8)) (s : State) : exec (.getCapabilities req) s = execGetCapabilities req s := rfl
@[simp] theorem exec_negotiateAlgorithms (req : List (BitVec 8)) (s : State) : exec (.negotiateAlgorithms req) s = execNegotiateAlgorithms req s := rfl
@[simp] theorem exec_getDigests (req : List (BitVec 8)) (s : State) : exec (.getDigests req) s = execGetDigests req s := rfl
@[simp] theorem exec_getCertificate (req : List (BitVec 8)) (s : State) : exec (.getCertificate req) s = execGetCertificate req s := rfl
@[simp] theorem exec_challenge (req : List (BitVec 8)) (s : State) : exec (.challenge req) s = execChallenge req s := rfl
@[simp] theorem exec_getMeasurements (req : List (BitVec 8)) (s : State) : exec (.getMeasurements req) s = execGetMeasurements req s := rfl
@[simp] theorem exec_illegalInstruction (s : State) : exec .illegalInstruction s = execIllegalInstruction s := rfl
@[simp] theorem exec_instructionFetchFault (cause : Nat) (addr : Nat) (s : State) : exec (.instructionFetchFault cause addr) s = execInstructionFetchFault cause addr s := rfl
@[simp] theorem exec_kernelKillComplete (ctx : Nat) (kid : Nat) (s : State) : exec (.kernelKillComplete ctx kid) s = execKernelKillComplete ctx kid s := rfl
@[simp] theorem exec_fqctlWrite (cr : BitVec 12) (v : BitVec 64) (s : State) : exec (.fqctlWrite cr v) s = execFqctlWrite cr v s := rfl

end Sys2Proof.Machine
end

