-- ==== Sys2Proof/Laws/State.lean ====
section
/-! SUPPORT. What each update of the state leaves of each field: one lemma a field and update, true by unfolding the record. -/
namespace Sys2Proof.Machine

/-! ### State.setHart -/

@[simp] theorem State.setHart_mem (s : State) (slot : Nat) (h : Hart) : (s.setHart slot h).mem = s.mem := rfl
@[simp] theorem State.setHart_harts (s : State) (slot : Nat) (h : Hart) : (s.setHart slot h).harts = tblPut slot h s.harts := rfl
@[simp] theorem State.setHart_clusters (s : State) (slot : Nat) (h : Hart) : (s.setHart slot h).clusters = s.clusters := rfl
@[simp] theorem State.setHart_dies (s : State) (slot : Nat) (h : Hart) : (s.setHart slot h).dies = s.dies := rfl
@[simp] theorem State.setHart_ctxs (s : State) (slot : Nat) (h : Hart) : (s.setHart slot h).ctxs = s.ctxs := rfl
@[simp] theorem State.setHart_kernels (s : State) (slot : Nat) (h : Hart) : (s.setHart slot h).kernels = s.kernels := rfl
@[simp] theorem State.setHart_regions (s : State) (slot : Nat) (h : Hart) : (s.setHart slot h).regions = s.regions := rfl
@[simp] theorem State.setHart_experts (s : State) (slot : Nat) (h : Hart) : (s.setHart slot h).experts = s.experts := rfl
@[simp] theorem State.setHart_slots (s : State) (slot : Nat) (h : Hart) : (s.setHart slot h).slots = s.slots := rfl
@[simp] theorem State.setHart_vest (s : State) (slot : Nat) (h : Hart) : (s.setHart slot h).vest = s.vest := rfl
@[simp] theorem State.setHart_pageWaits (s : State) (slot : Nat) (h : Hart) : (s.setHart slot h).pageWaits = s.pageWaits := rfl
@[simp] theorem State.setHart_tlb (s : State) (slot : Nat) (h : Hart) : (s.setHart slot h).tlb = s.tlb := rfl
@[simp] theorem State.setHart_stackDown (s : State) (slot : Nat) (h : Hart) : (s.setHart slot h).stackDown = s.stackDown := rfl
@[simp] theorem State.setHart_owners (s : State) (slot : Nat) (h : Hart) : (s.setHart slot h).owners = s.owners := rfl
@[simp] theorem State.setHart_bad (s : State) (slot : Nat) (h : Hart) : (s.setHart slot h).bad = s.bad := rfl
@[simp] theorem State.setHart_clkCur (s : State) (slot : Nat) (h : Hart) : (s.setHart slot h).clkCur = s.clkCur := rfl
@[simp] theorem State.setHart_clkReq (s : State) (slot : Nat) (h : Hart) : (s.setHart slot h).clkReq = s.clkReq := rfl
@[simp] theorem State.setHart_clkMHz (s : State) (slot : Nat) (h : Hart) : (s.setHart slot h).clkMHz = s.clkMHz := rfl
@[simp] theorem State.setHart_slt (s : State) (slot : Nat) (h : Hart) : (s.setHart slot h).slt = s.slt := rfl
@[simp] theorem State.setHart_sltWaits (s : State) (slot : Nat) (h : Hart) : (s.setHart slot h).sltWaits = s.sltWaits := rfl
@[simp] theorem State.setHart_base (s : State) (slot : Nat) (h : Hart) : (s.setHart slot h).base = s.base := rfl
@[simp] theorem State.setHart_dbg (s : State) (slot : Nat) (h : Hart) : (s.setHart slot h).dbg = s.dbg := rfl
@[simp] theorem State.setHart_errValid (s : State) (slot : Nat) (h : Hart) : (s.setHart slot h).errValid = s.errValid := rfl
@[simp] theorem State.setHart_errPa (s : State) (slot : Nat) (h : Hart) : (s.setHart slot h).errPa = s.errPa := rfl
@[simp] theorem State.setHart_msvcPa (s : State) (slot : Nat) (h : Hart) : (s.setHart slot h).msvcPa = s.msvcPa := rfl
@[simp] theorem State.setHart_msvcEn (s : State) (slot : Nat) (h : Hart) : (s.setHart slot h).msvcEn = s.msvcEn := rfl
@[simp] theorem State.setHart_rung (s : State) (slot : Nat) (h : Hart) : (s.setHart slot h).rung = s.rung := rfl
@[simp] theorem State.setHart_monIrq (s : State) (slot : Nat) (h : Hart) : (s.setHart slot h).monIrq = s.monIrq := rfl
@[simp] theorem State.setHart_mbox (s : State) (slot : Nat) (h : Hart) : (s.setHart slot h).mbox = s.mbox := rfl
@[simp] theorem State.setHart_sctrap (s : State) (slot : Nat) (h : Hart) : (s.setHart slot h).sctrap = s.sctrap := rfl
@[simp] theorem State.setHart_lbrk (s : State) (slot : Nat) (h : Hart) : (s.setHart slot h).lbrk = s.lbrk := rfl
@[simp] theorem State.setHart_fail (s : State) (slot : Nat) (h : Hart) : (s.setHart slot h).fail = s.fail := rfl
@[simp] theorem State.setHart_tmode (s : State) (slot : Nat) (h : Hart) : (s.setHart slot h).tmode = s.tmode := rfl
@[simp] theorem State.setHart_stage (s : State) (slot : Nat) (h : Hart) : (s.setHart slot h).stage = s.stage := rfl
@[simp] theorem State.setHart_mhdmBase (s : State) (slot : Nat) (h : Hart) : (s.setHart slot h).mhdmBase = s.mhdmBase := rfl
@[simp] theorem State.setHart_mhdmGib (s : State) (slot : Nat) (h : Hart) : (s.setHart slot h).mhdmGib = s.mhdmGib := rfl
@[simp] theorem State.setHart_lnode (s : State) (slot : Nat) (h : Hart) : (s.setHart slot h).lnode = s.lnode := rfl
@[simp] theorem State.setHart_portDown (s : State) (slot : Nat) (h : Hart) : (s.setHart slot h).portDown = s.portDown := rfl
@[simp] theorem State.setHart_replays (s : State) (slot : Nat) (h : Hart) : (s.setHart slot h).replays = s.replays := rfl
@[simp] theorem State.setHart_sent (s : State) (slot : Nat) (h : Hart) : (s.setHart slot h).sent = s.sent := rfl
@[simp] theorem State.setHart_tierLost (s : State) (slot : Nat) (h : Hart) : (s.setHart slot h).tierLost = s.tierLost := rfl
@[simp] theorem State.setHart_msix (s : State) (slot : Nat) (h : Hart) : (s.setHart slot h).msix = s.msix := rfl
@[simp] theorem State.setHart_sideband (s : State) (slot : Nat) (h : Hart) : (s.setHart slot h).sideband = s.sideband := rfl
@[simp] theorem State.setHart_doe (s : State) (slot : Nat) (h : Hart) : (s.setHart slot h).doe = s.doe := rfl
@[simp] theorem State.setHart_doeWait (s : State) (slot : Nat) (h : Hart) : (s.setHart slot h).doeWait = s.doeWait := rfl
@[simp] theorem State.setHart_hostReply (s : State) (slot : Nat) (h : Hart) : (s.setHart slot h).hostReply = s.hostReply := rfl
@[simp] theorem State.setHart_launches (s : State) (slot : Nat) (h : Hart) : (s.setHart slot h).launches = s.launches := rfl
@[simp] theorem State.setHart_time (s : State) (slot : Nat) (h : Hart) : (s.setHart slot h).time = s.time := rfl
@[simp] theorem State.setHart_wall (s : State) (slot : Nat) (h : Hart) : (s.setHart slot h).wall = s.wall := rfl
@[simp] theorem State.setHart_recent (s : State) (slot : Nat) (h : Hart) : (s.setHart slot h).recent = s.recent := rfl
@[simp] theorem State.setHart_steps (s : State) (slot : Nat) (h : Hart) : (s.setHart slot h).steps = s.steps := rfl
@[simp] theorem State.setHart_rr (s : State) (slot : Nat) (h : Hart) : (s.setHart slot h).rr = s.rr := rfl
@[simp] theorem State.setHart_agenda (s : State) (slot : Nat) (h : Hart) : (s.setHart slot h).agenda = s.agenda := rfl
@[simp] theorem State.setHart_cur (s : State) (slot : Nat) (h : Hart) : (s.setHart slot h).cur = s.cur := rfl

/-! ### State.setCluster -/

@[simp] theorem State.setCluster_mem (s : State) (c : Nat) (x : Cluster) : (s.setCluster c x).mem = s.mem := rfl
@[simp] theorem State.setCluster_harts (s : State) (c : Nat) (x : Cluster) : (s.setCluster c x).harts = s.harts := rfl
@[simp] theorem State.setCluster_clusters (s : State) (c : Nat) (x : Cluster) : (s.setCluster c x).clusters = tblPut c x s.clusters := rfl
@[simp] theorem State.setCluster_dies (s : State) (c : Nat) (x : Cluster) : (s.setCluster c x).dies = s.dies := rfl
@[simp] theorem State.setCluster_ctxs (s : State) (c : Nat) (x : Cluster) : (s.setCluster c x).ctxs = s.ctxs := rfl
@[simp] theorem State.setCluster_kernels (s : State) (c : Nat) (x : Cluster) : (s.setCluster c x).kernels = s.kernels := rfl
@[simp] theorem State.setCluster_regions (s : State) (c : Nat) (x : Cluster) : (s.setCluster c x).regions = s.regions := rfl
@[simp] theorem State.setCluster_experts (s : State) (c : Nat) (x : Cluster) : (s.setCluster c x).experts = s.experts := rfl
@[simp] theorem State.setCluster_slots (s : State) (c : Nat) (x : Cluster) : (s.setCluster c x).slots = s.slots := rfl
@[simp] theorem State.setCluster_vest (s : State) (c : Nat) (x : Cluster) : (s.setCluster c x).vest = s.vest := rfl
@[simp] theorem State.setCluster_pageWaits (s : State) (c : Nat) (x : Cluster) : (s.setCluster c x).pageWaits = s.pageWaits := rfl
@[simp] theorem State.setCluster_tlb (s : State) (c : Nat) (x : Cluster) : (s.setCluster c x).tlb = s.tlb := rfl
@[simp] theorem State.setCluster_stackDown (s : State) (c : Nat) (x : Cluster) : (s.setCluster c x).stackDown = s.stackDown := rfl
@[simp] theorem State.setCluster_owners (s : State) (c : Nat) (x : Cluster) : (s.setCluster c x).owners = s.owners := rfl
@[simp] theorem State.setCluster_bad (s : State) (c : Nat) (x : Cluster) : (s.setCluster c x).bad = s.bad := rfl
@[simp] theorem State.setCluster_clkCur (s : State) (c : Nat) (x : Cluster) : (s.setCluster c x).clkCur = s.clkCur := rfl
@[simp] theorem State.setCluster_clkReq (s : State) (c : Nat) (x : Cluster) : (s.setCluster c x).clkReq = s.clkReq := rfl
@[simp] theorem State.setCluster_clkMHz (s : State) (c : Nat) (x : Cluster) : (s.setCluster c x).clkMHz = s.clkMHz := rfl
@[simp] theorem State.setCluster_slt (s : State) (c : Nat) (x : Cluster) : (s.setCluster c x).slt = s.slt := rfl
@[simp] theorem State.setCluster_sltWaits (s : State) (c : Nat) (x : Cluster) : (s.setCluster c x).sltWaits = s.sltWaits := rfl
@[simp] theorem State.setCluster_base (s : State) (c : Nat) (x : Cluster) : (s.setCluster c x).base = s.base := rfl
@[simp] theorem State.setCluster_dbg (s : State) (c : Nat) (x : Cluster) : (s.setCluster c x).dbg = s.dbg := rfl
@[simp] theorem State.setCluster_errValid (s : State) (c : Nat) (x : Cluster) : (s.setCluster c x).errValid = s.errValid := rfl
@[simp] theorem State.setCluster_errPa (s : State) (c : Nat) (x : Cluster) : (s.setCluster c x).errPa = s.errPa := rfl
@[simp] theorem State.setCluster_msvcPa (s : State) (c : Nat) (x : Cluster) : (s.setCluster c x).msvcPa = s.msvcPa := rfl
@[simp] theorem State.setCluster_msvcEn (s : State) (c : Nat) (x : Cluster) : (s.setCluster c x).msvcEn = s.msvcEn := rfl
@[simp] theorem State.setCluster_rung (s : State) (c : Nat) (x : Cluster) : (s.setCluster c x).rung = s.rung := rfl
@[simp] theorem State.setCluster_monIrq (s : State) (c : Nat) (x : Cluster) : (s.setCluster c x).monIrq = s.monIrq := rfl
@[simp] theorem State.setCluster_mbox (s : State) (c : Nat) (x : Cluster) : (s.setCluster c x).mbox = s.mbox := rfl
@[simp] theorem State.setCluster_sctrap (s : State) (c : Nat) (x : Cluster) : (s.setCluster c x).sctrap = s.sctrap := rfl
@[simp] theorem State.setCluster_lbrk (s : State) (c : Nat) (x : Cluster) : (s.setCluster c x).lbrk = s.lbrk := rfl
@[simp] theorem State.setCluster_fail (s : State) (c : Nat) (x : Cluster) : (s.setCluster c x).fail = s.fail := rfl
@[simp] theorem State.setCluster_tmode (s : State) (c : Nat) (x : Cluster) : (s.setCluster c x).tmode = s.tmode := rfl
@[simp] theorem State.setCluster_stage (s : State) (c : Nat) (x : Cluster) : (s.setCluster c x).stage = s.stage := rfl
@[simp] theorem State.setCluster_mhdmBase (s : State) (c : Nat) (x : Cluster) : (s.setCluster c x).mhdmBase = s.mhdmBase := rfl
@[simp] theorem State.setCluster_mhdmGib (s : State) (c : Nat) (x : Cluster) : (s.setCluster c x).mhdmGib = s.mhdmGib := rfl
@[simp] theorem State.setCluster_lnode (s : State) (c : Nat) (x : Cluster) : (s.setCluster c x).lnode = s.lnode := rfl
@[simp] theorem State.setCluster_portDown (s : State) (c : Nat) (x : Cluster) : (s.setCluster c x).portDown = s.portDown := rfl
@[simp] theorem State.setCluster_replays (s : State) (c : Nat) (x : Cluster) : (s.setCluster c x).replays = s.replays := rfl
@[simp] theorem State.setCluster_sent (s : State) (c : Nat) (x : Cluster) : (s.setCluster c x).sent = s.sent := rfl
@[simp] theorem State.setCluster_tierLost (s : State) (c : Nat) (x : Cluster) : (s.setCluster c x).tierLost = s.tierLost := rfl
@[simp] theorem State.setCluster_msix (s : State) (c : Nat) (x : Cluster) : (s.setCluster c x).msix = s.msix := rfl
@[simp] theorem State.setCluster_sideband (s : State) (c : Nat) (x : Cluster) : (s.setCluster c x).sideband = s.sideband := rfl
@[simp] theorem State.setCluster_doe (s : State) (c : Nat) (x : Cluster) : (s.setCluster c x).doe = s.doe := rfl
@[simp] theorem State.setCluster_doeWait (s : State) (c : Nat) (x : Cluster) : (s.setCluster c x).doeWait = s.doeWait := rfl
@[simp] theorem State.setCluster_hostReply (s : State) (c : Nat) (x : Cluster) : (s.setCluster c x).hostReply = s.hostReply := rfl
@[simp] theorem State.setCluster_launches (s : State) (c : Nat) (x : Cluster) : (s.setCluster c x).launches = s.launches := rfl
@[simp] theorem State.setCluster_time (s : State) (c : Nat) (x : Cluster) : (s.setCluster c x).time = s.time := rfl
@[simp] theorem State.setCluster_wall (s : State) (c : Nat) (x : Cluster) : (s.setCluster c x).wall = s.wall := rfl
@[simp] theorem State.setCluster_recent (s : State) (c : Nat) (x : Cluster) : (s.setCluster c x).recent = s.recent := rfl
@[simp] theorem State.setCluster_steps (s : State) (c : Nat) (x : Cluster) : (s.setCluster c x).steps = s.steps := rfl
@[simp] theorem State.setCluster_rr (s : State) (c : Nat) (x : Cluster) : (s.setCluster c x).rr = s.rr := rfl
@[simp] theorem State.setCluster_agenda (s : State) (c : Nat) (x : Cluster) : (s.setCluster c x).agenda = s.agenda := rfl
@[simp] theorem State.setCluster_cur (s : State) (c : Nat) (x : Cluster) : (s.setCluster c x).cur = s.cur := rfl

/-! ### State.setContext -/

@[simp] theorem State.setContext_mem (s : State) (c : Nat) (x : Context) : (s.setContext c x).mem = s.mem := rfl
@[simp] theorem State.setContext_harts (s : State) (c : Nat) (x : Context) : (s.setContext c x).harts = s.harts := rfl
@[simp] theorem State.setContext_clusters (s : State) (c : Nat) (x : Context) : (s.setContext c x).clusters = s.clusters := rfl
@[simp] theorem State.setContext_dies (s : State) (c : Nat) (x : Context) : (s.setContext c x).dies = s.dies := rfl
@[simp] theorem State.setContext_ctxs (s : State) (c : Nat) (x : Context) : (s.setContext c x).ctxs = tblPut c x s.ctxs := rfl
@[simp] theorem State.setContext_kernels (s : State) (c : Nat) (x : Context) : (s.setContext c x).kernels = s.kernels := rfl
@[simp] theorem State.setContext_regions (s : State) (c : Nat) (x : Context) : (s.setContext c x).regions = s.regions := rfl
@[simp] theorem State.setContext_experts (s : State) (c : Nat) (x : Context) : (s.setContext c x).experts = s.experts := rfl
@[simp] theorem State.setContext_slots (s : State) (c : Nat) (x : Context) : (s.setContext c x).slots = s.slots := rfl
@[simp] theorem State.setContext_vest (s : State) (c : Nat) (x : Context) : (s.setContext c x).vest = s.vest := rfl
@[simp] theorem State.setContext_pageWaits (s : State) (c : Nat) (x : Context) : (s.setContext c x).pageWaits = s.pageWaits := rfl
@[simp] theorem State.setContext_tlb (s : State) (c : Nat) (x : Context) : (s.setContext c x).tlb = s.tlb := rfl
@[simp] theorem State.setContext_stackDown (s : State) (c : Nat) (x : Context) : (s.setContext c x).stackDown = s.stackDown := rfl
@[simp] theorem State.setContext_owners (s : State) (c : Nat) (x : Context) : (s.setContext c x).owners = s.owners := rfl
@[simp] theorem State.setContext_bad (s : State) (c : Nat) (x : Context) : (s.setContext c x).bad = s.bad := rfl
@[simp] theorem State.setContext_clkCur (s : State) (c : Nat) (x : Context) : (s.setContext c x).clkCur = s.clkCur := rfl
@[simp] theorem State.setContext_clkReq (s : State) (c : Nat) (x : Context) : (s.setContext c x).clkReq = s.clkReq := rfl
@[simp] theorem State.setContext_clkMHz (s : State) (c : Nat) (x : Context) : (s.setContext c x).clkMHz = s.clkMHz := rfl
@[simp] theorem State.setContext_slt (s : State) (c : Nat) (x : Context) : (s.setContext c x).slt = s.slt := rfl
@[simp] theorem State.setContext_sltWaits (s : State) (c : Nat) (x : Context) : (s.setContext c x).sltWaits = s.sltWaits := rfl
@[simp] theorem State.setContext_base (s : State) (c : Nat) (x : Context) : (s.setContext c x).base = s.base := rfl
@[simp] theorem State.setContext_dbg (s : State) (c : Nat) (x : Context) : (s.setContext c x).dbg = s.dbg := rfl
@[simp] theorem State.setContext_errValid (s : State) (c : Nat) (x : Context) : (s.setContext c x).errValid = s.errValid := rfl
@[simp] theorem State.setContext_errPa (s : State) (c : Nat) (x : Context) : (s.setContext c x).errPa = s.errPa := rfl
@[simp] theorem State.setContext_msvcPa (s : State) (c : Nat) (x : Context) : (s.setContext c x).msvcPa = s.msvcPa := rfl
@[simp] theorem State.setContext_msvcEn (s : State) (c : Nat) (x : Context) : (s.setContext c x).msvcEn = s.msvcEn := rfl
@[simp] theorem State.setContext_rung (s : State) (c : Nat) (x : Context) : (s.setContext c x).rung = s.rung := rfl
@[simp] theorem State.setContext_monIrq (s : State) (c : Nat) (x : Context) : (s.setContext c x).monIrq = s.monIrq := rfl
@[simp] theorem State.setContext_mbox (s : State) (c : Nat) (x : Context) : (s.setContext c x).mbox = s.mbox := rfl
@[simp] theorem State.setContext_sctrap (s : State) (c : Nat) (x : Context) : (s.setContext c x).sctrap = s.sctrap := rfl
@[simp] theorem State.setContext_lbrk (s : State) (c : Nat) (x : Context) : (s.setContext c x).lbrk = s.lbrk := rfl
@[simp] theorem State.setContext_fail (s : State) (c : Nat) (x : Context) : (s.setContext c x).fail = s.fail := rfl
@[simp] theorem State.setContext_tmode (s : State) (c : Nat) (x : Context) : (s.setContext c x).tmode = s.tmode := rfl
@[simp] theorem State.setContext_stage (s : State) (c : Nat) (x : Context) : (s.setContext c x).stage = s.stage := rfl
@[simp] theorem State.setContext_mhdmBase (s : State) (c : Nat) (x : Context) : (s.setContext c x).mhdmBase = s.mhdmBase := rfl
@[simp] theorem State.setContext_mhdmGib (s : State) (c : Nat) (x : Context) : (s.setContext c x).mhdmGib = s.mhdmGib := rfl
@[simp] theorem State.setContext_lnode (s : State) (c : Nat) (x : Context) : (s.setContext c x).lnode = s.lnode := rfl
@[simp] theorem State.setContext_portDown (s : State) (c : Nat) (x : Context) : (s.setContext c x).portDown = s.portDown := rfl
@[simp] theorem State.setContext_replays (s : State) (c : Nat) (x : Context) : (s.setContext c x).replays = s.replays := rfl
@[simp] theorem State.setContext_sent (s : State) (c : Nat) (x : Context) : (s.setContext c x).sent = s.sent := rfl
@[simp] theorem State.setContext_tierLost (s : State) (c : Nat) (x : Context) : (s.setContext c x).tierLost = s.tierLost := rfl
@[simp] theorem State.setContext_msix (s : State) (c : Nat) (x : Context) : (s.setContext c x).msix = s.msix := rfl
@[simp] theorem State.setContext_sideband (s : State) (c : Nat) (x : Context) : (s.setContext c x).sideband = s.sideband := rfl
@[simp] theorem State.setContext_doe (s : State) (c : Nat) (x : Context) : (s.setContext c x).doe = s.doe := rfl
@[simp] theorem State.setContext_doeWait (s : State) (c : Nat) (x : Context) : (s.setContext c x).doeWait = s.doeWait := rfl
@[simp] theorem State.setContext_hostReply (s : State) (c : Nat) (x : Context) : (s.setContext c x).hostReply = s.hostReply := rfl
@[simp] theorem State.setContext_launches (s : State) (c : Nat) (x : Context) : (s.setContext c x).launches = s.launches := rfl
@[simp] theorem State.setContext_time (s : State) (c : Nat) (x : Context) : (s.setContext c x).time = s.time := rfl
@[simp] theorem State.setContext_wall (s : State) (c : Nat) (x : Context) : (s.setContext c x).wall = s.wall := rfl
@[simp] theorem State.setContext_recent (s : State) (c : Nat) (x : Context) : (s.setContext c x).recent = s.recent := rfl
@[simp] theorem State.setContext_steps (s : State) (c : Nat) (x : Context) : (s.setContext c x).steps = s.steps := rfl
@[simp] theorem State.setContext_rr (s : State) (c : Nat) (x : Context) : (s.setContext c x).rr = s.rr := rfl
@[simp] theorem State.setContext_agenda (s : State) (c : Nat) (x : Context) : (s.setContext c x).agenda = s.agenda := rfl
@[simp] theorem State.setContext_cur (s : State) (c : Nat) (x : Context) : (s.setContext c x).cur = s.cur := rfl

/-! ### State.setDie -/

@[simp] theorem State.setDie_mem (s : State) (d : Nat) (x : Die) : (s.setDie d x).mem = s.mem := rfl
@[simp] theorem State.setDie_harts (s : State) (d : Nat) (x : Die) : (s.setDie d x).harts = s.harts := rfl
@[simp] theorem State.setDie_clusters (s : State) (d : Nat) (x : Die) : (s.setDie d x).clusters = s.clusters := rfl
@[simp] theorem State.setDie_dies (s : State) (d : Nat) (x : Die) : (s.setDie d x).dies = s.dies.setIfInBounds d x := rfl
@[simp] theorem State.setDie_ctxs (s : State) (d : Nat) (x : Die) : (s.setDie d x).ctxs = s.ctxs := rfl
@[simp] theorem State.setDie_kernels (s : State) (d : Nat) (x : Die) : (s.setDie d x).kernels = s.kernels := rfl
@[simp] theorem State.setDie_regions (s : State) (d : Nat) (x : Die) : (s.setDie d x).regions = s.regions := rfl
@[simp] theorem State.setDie_experts (s : State) (d : Nat) (x : Die) : (s.setDie d x).experts = s.experts := rfl
@[simp] theorem State.setDie_slots (s : State) (d : Nat) (x : Die) : (s.setDie d x).slots = s.slots := rfl
@[simp] theorem State.setDie_vest (s : State) (d : Nat) (x : Die) : (s.setDie d x).vest = s.vest := rfl
@[simp] theorem State.setDie_pageWaits (s : State) (d : Nat) (x : Die) : (s.setDie d x).pageWaits = s.pageWaits := rfl
@[simp] theorem State.setDie_tlb (s : State) (d : Nat) (x : Die) : (s.setDie d x).tlb = s.tlb := rfl
@[simp] theorem State.setDie_stackDown (s : State) (d : Nat) (x : Die) : (s.setDie d x).stackDown = s.stackDown := rfl
@[simp] theorem State.setDie_owners (s : State) (d : Nat) (x : Die) : (s.setDie d x).owners = s.owners := rfl
@[simp] theorem State.setDie_bad (s : State) (d : Nat) (x : Die) : (s.setDie d x).bad = s.bad := rfl
@[simp] theorem State.setDie_clkCur (s : State) (d : Nat) (x : Die) : (s.setDie d x).clkCur = s.clkCur := rfl
@[simp] theorem State.setDie_clkReq (s : State) (d : Nat) (x : Die) : (s.setDie d x).clkReq = s.clkReq := rfl
@[simp] theorem State.setDie_clkMHz (s : State) (d : Nat) (x : Die) : (s.setDie d x).clkMHz = s.clkMHz := rfl
@[simp] theorem State.setDie_slt (s : State) (d : Nat) (x : Die) : (s.setDie d x).slt = s.slt := rfl
@[simp] theorem State.setDie_sltWaits (s : State) (d : Nat) (x : Die) : (s.setDie d x).sltWaits = s.sltWaits := rfl
@[simp] theorem State.setDie_base (s : State) (d : Nat) (x : Die) : (s.setDie d x).base = s.base := rfl
@[simp] theorem State.setDie_dbg (s : State) (d : Nat) (x : Die) : (s.setDie d x).dbg = s.dbg := rfl
@[simp] theorem State.setDie_errValid (s : State) (d : Nat) (x : Die) : (s.setDie d x).errValid = s.errValid := rfl
@[simp] theorem State.setDie_errPa (s : State) (d : Nat) (x : Die) : (s.setDie d x).errPa = s.errPa := rfl
@[simp] theorem State.setDie_msvcPa (s : State) (d : Nat) (x : Die) : (s.setDie d x).msvcPa = s.msvcPa := rfl
@[simp] theorem State.setDie_msvcEn (s : State) (d : Nat) (x : Die) : (s.setDie d x).msvcEn = s.msvcEn := rfl
@[simp] theorem State.setDie_rung (s : State) (d : Nat) (x : Die) : (s.setDie d x).rung = s.rung := rfl
@[simp] theorem State.setDie_monIrq (s : State) (d : Nat) (x : Die) : (s.setDie d x).monIrq = s.monIrq := rfl
@[simp] theorem State.setDie_mbox (s : State) (d : Nat) (x : Die) : (s.setDie d x).mbox = s.mbox := rfl
@[simp] theorem State.setDie_sctrap (s : State) (d : Nat) (x : Die) : (s.setDie d x).sctrap = s.sctrap := rfl
@[simp] theorem State.setDie_lbrk (s : State) (d : Nat) (x : Die) : (s.setDie d x).lbrk = s.lbrk := rfl
@[simp] theorem State.setDie_fail (s : State) (d : Nat) (x : Die) : (s.setDie d x).fail = s.fail := rfl
@[simp] theorem State.setDie_tmode (s : State) (d : Nat) (x : Die) : (s.setDie d x).tmode = s.tmode := rfl
@[simp] theorem State.setDie_stage (s : State) (d : Nat) (x : Die) : (s.setDie d x).stage = s.stage := rfl
@[simp] theorem State.setDie_mhdmBase (s : State) (d : Nat) (x : Die) : (s.setDie d x).mhdmBase = s.mhdmBase := rfl
@[simp] theorem State.setDie_mhdmGib (s : State) (d : Nat) (x : Die) : (s.setDie d x).mhdmGib = s.mhdmGib := rfl
@[simp] theorem State.setDie_lnode (s : State) (d : Nat) (x : Die) : (s.setDie d x).lnode = s.lnode := rfl
@[simp] theorem State.setDie_portDown (s : State) (d : Nat) (x : Die) : (s.setDie d x).portDown = s.portDown := rfl
@[simp] theorem State.setDie_replays (s : State) (d : Nat) (x : Die) : (s.setDie d x).replays = s.replays := rfl
@[simp] theorem State.setDie_sent (s : State) (d : Nat) (x : Die) : (s.setDie d x).sent = s.sent := rfl
@[simp] theorem State.setDie_tierLost (s : State) (d : Nat) (x : Die) : (s.setDie d x).tierLost = s.tierLost := rfl
@[simp] theorem State.setDie_msix (s : State) (d : Nat) (x : Die) : (s.setDie d x).msix = s.msix := rfl
@[simp] theorem State.setDie_sideband (s : State) (d : Nat) (x : Die) : (s.setDie d x).sideband = s.sideband := rfl
@[simp] theorem State.setDie_doe (s : State) (d : Nat) (x : Die) : (s.setDie d x).doe = s.doe := rfl
@[simp] theorem State.setDie_doeWait (s : State) (d : Nat) (x : Die) : (s.setDie d x).doeWait = s.doeWait := rfl
@[simp] theorem State.setDie_hostReply (s : State) (d : Nat) (x : Die) : (s.setDie d x).hostReply = s.hostReply := rfl
@[simp] theorem State.setDie_launches (s : State) (d : Nat) (x : Die) : (s.setDie d x).launches = s.launches := rfl
@[simp] theorem State.setDie_time (s : State) (d : Nat) (x : Die) : (s.setDie d x).time = s.time := rfl
@[simp] theorem State.setDie_wall (s : State) (d : Nat) (x : Die) : (s.setDie d x).wall = s.wall := rfl
@[simp] theorem State.setDie_recent (s : State) (d : Nat) (x : Die) : (s.setDie d x).recent = s.recent := rfl
@[simp] theorem State.setDie_steps (s : State) (d : Nat) (x : Die) : (s.setDie d x).steps = s.steps := rfl
@[simp] theorem State.setDie_rr (s : State) (d : Nat) (x : Die) : (s.setDie d x).rr = s.rr := rfl
@[simp] theorem State.setDie_agenda (s : State) (d : Nat) (x : Die) : (s.setDie d x).agenda = s.agenda := rfl
@[simp] theorem State.setDie_cur (s : State) (d : Nat) (x : Die) : (s.setDie d x).cur = s.cur := rfl

/-! ### State.setExpert -/

@[simp] theorem State.setExpert_mem (s : State) (n : Nat) (x : Expert) : (s.setExpert n x).mem = s.mem := rfl
@[simp] theorem State.setExpert_harts (s : State) (n : Nat) (x : Expert) : (s.setExpert n x).harts = s.harts := rfl
@[simp] theorem State.setExpert_clusters (s : State) (n : Nat) (x : Expert) : (s.setExpert n x).clusters = s.clusters := rfl
@[simp] theorem State.setExpert_dies (s : State) (n : Nat) (x : Expert) : (s.setExpert n x).dies = s.dies := rfl
@[simp] theorem State.setExpert_ctxs (s : State) (n : Nat) (x : Expert) : (s.setExpert n x).ctxs = s.ctxs := rfl
@[simp] theorem State.setExpert_kernels (s : State) (n : Nat) (x : Expert) : (s.setExpert n x).kernels = s.kernels := rfl
@[simp] theorem State.setExpert_regions (s : State) (n : Nat) (x : Expert) : (s.setExpert n x).regions = s.regions := rfl
@[simp] theorem State.setExpert_experts (s : State) (n : Nat) (x : Expert) : (s.setExpert n x).experts = tblPut n x s.experts := rfl
@[simp] theorem State.setExpert_slots (s : State) (n : Nat) (x : Expert) : (s.setExpert n x).slots = s.slots := rfl
@[simp] theorem State.setExpert_vest (s : State) (n : Nat) (x : Expert) : (s.setExpert n x).vest = s.vest := rfl
@[simp] theorem State.setExpert_pageWaits (s : State) (n : Nat) (x : Expert) : (s.setExpert n x).pageWaits = s.pageWaits := rfl
@[simp] theorem State.setExpert_tlb (s : State) (n : Nat) (x : Expert) : (s.setExpert n x).tlb = s.tlb := rfl
@[simp] theorem State.setExpert_stackDown (s : State) (n : Nat) (x : Expert) : (s.setExpert n x).stackDown = s.stackDown := rfl
@[simp] theorem State.setExpert_owners (s : State) (n : Nat) (x : Expert) : (s.setExpert n x).owners = s.owners := rfl
@[simp] theorem State.setExpert_bad (s : State) (n : Nat) (x : Expert) : (s.setExpert n x).bad = s.bad := rfl
@[simp] theorem State.setExpert_clkCur (s : State) (n : Nat) (x : Expert) : (s.setExpert n x).clkCur = s.clkCur := rfl
@[simp] theorem State.setExpert_clkReq (s : State) (n : Nat) (x : Expert) : (s.setExpert n x).clkReq = s.clkReq := rfl
@[simp] theorem State.setExpert_clkMHz (s : State) (n : Nat) (x : Expert) : (s.setExpert n x).clkMHz = s.clkMHz := rfl
@[simp] theorem State.setExpert_slt (s : State) (n : Nat) (x : Expert) : (s.setExpert n x).slt = s.slt := rfl
@[simp] theorem State.setExpert_sltWaits (s : State) (n : Nat) (x : Expert) : (s.setExpert n x).sltWaits = s.sltWaits := rfl
@[simp] theorem State.setExpert_base (s : State) (n : Nat) (x : Expert) : (s.setExpert n x).base = s.base := rfl
@[simp] theorem State.setExpert_dbg (s : State) (n : Nat) (x : Expert) : (s.setExpert n x).dbg = s.dbg := rfl
@[simp] theorem State.setExpert_errValid (s : State) (n : Nat) (x : Expert) : (s.setExpert n x).errValid = s.errValid := rfl
@[simp] theorem State.setExpert_errPa (s : State) (n : Nat) (x : Expert) : (s.setExpert n x).errPa = s.errPa := rfl
@[simp] theorem State.setExpert_msvcPa (s : State) (n : Nat) (x : Expert) : (s.setExpert n x).msvcPa = s.msvcPa := rfl
@[simp] theorem State.setExpert_msvcEn (s : State) (n : Nat) (x : Expert) : (s.setExpert n x).msvcEn = s.msvcEn := rfl
@[simp] theorem State.setExpert_rung (s : State) (n : Nat) (x : Expert) : (s.setExpert n x).rung = s.rung := rfl
@[simp] theorem State.setExpert_monIrq (s : State) (n : Nat) (x : Expert) : (s.setExpert n x).monIrq = s.monIrq := rfl
@[simp] theorem State.setExpert_mbox (s : State) (n : Nat) (x : Expert) : (s.setExpert n x).mbox = s.mbox := rfl
@[simp] theorem State.setExpert_sctrap (s : State) (n : Nat) (x : Expert) : (s.setExpert n x).sctrap = s.sctrap := rfl
@[simp] theorem State.setExpert_lbrk (s : State) (n : Nat) (x : Expert) : (s.setExpert n x).lbrk = s.lbrk := rfl
@[simp] theorem State.setExpert_fail (s : State) (n : Nat) (x : Expert) : (s.setExpert n x).fail = s.fail := rfl
@[simp] theorem State.setExpert_tmode (s : State) (n : Nat) (x : Expert) : (s.setExpert n x).tmode = s.tmode := rfl
@[simp] theorem State.setExpert_stage (s : State) (n : Nat) (x : Expert) : (s.setExpert n x).stage = s.stage := rfl
@[simp] theorem State.setExpert_mhdmBase (s : State) (n : Nat) (x : Expert) : (s.setExpert n x).mhdmBase = s.mhdmBase := rfl
@[simp] theorem State.setExpert_mhdmGib (s : State) (n : Nat) (x : Expert) : (s.setExpert n x).mhdmGib = s.mhdmGib := rfl
@[simp] theorem State.setExpert_lnode (s : State) (n : Nat) (x : Expert) : (s.setExpert n x).lnode = s.lnode := rfl
@[simp] theorem State.setExpert_portDown (s : State) (n : Nat) (x : Expert) : (s.setExpert n x).portDown = s.portDown := rfl
@[simp] theorem State.setExpert_replays (s : State) (n : Nat) (x : Expert) : (s.setExpert n x).replays = s.replays := rfl
@[simp] theorem State.setExpert_sent (s : State) (n : Nat) (x : Expert) : (s.setExpert n x).sent = s.sent := rfl
@[simp] theorem State.setExpert_tierLost (s : State) (n : Nat) (x : Expert) : (s.setExpert n x).tierLost = s.tierLost := rfl
@[simp] theorem State.setExpert_msix (s : State) (n : Nat) (x : Expert) : (s.setExpert n x).msix = s.msix := rfl
@[simp] theorem State.setExpert_sideband (s : State) (n : Nat) (x : Expert) : (s.setExpert n x).sideband = s.sideband := rfl
@[simp] theorem State.setExpert_doe (s : State) (n : Nat) (x : Expert) : (s.setExpert n x).doe = s.doe := rfl
@[simp] theorem State.setExpert_doeWait (s : State) (n : Nat) (x : Expert) : (s.setExpert n x).doeWait = s.doeWait := rfl
@[simp] theorem State.setExpert_hostReply (s : State) (n : Nat) (x : Expert) : (s.setExpert n x).hostReply = s.hostReply := rfl
@[simp] theorem State.setExpert_launches (s : State) (n : Nat) (x : Expert) : (s.setExpert n x).launches = s.launches := rfl
@[simp] theorem State.setExpert_time (s : State) (n : Nat) (x : Expert) : (s.setExpert n x).time = s.time := rfl
@[simp] theorem State.setExpert_wall (s : State) (n : Nat) (x : Expert) : (s.setExpert n x).wall = s.wall := rfl
@[simp] theorem State.setExpert_recent (s : State) (n : Nat) (x : Expert) : (s.setExpert n x).recent = s.recent := rfl
@[simp] theorem State.setExpert_steps (s : State) (n : Nat) (x : Expert) : (s.setExpert n x).steps = s.steps := rfl
@[simp] theorem State.setExpert_rr (s : State) (n : Nat) (x : Expert) : (s.setExpert n x).rr = s.rr := rfl
@[simp] theorem State.setExpert_agenda (s : State) (n : Nat) (x : Expert) : (s.setExpert n x).agenda = s.agenda := rfl
@[simp] theorem State.setExpert_cur (s : State) (n : Nat) (x : Expert) : (s.setExpert n x).cur = s.cur := rfl

/-! ### State.setBaseDie -/

@[simp] theorem State.setBaseDie_mem (s : State) (n : Nat) (x : BaseDie) : (s.setBaseDie n x).mem = s.mem := rfl
@[simp] theorem State.setBaseDie_harts (s : State) (n : Nat) (x : BaseDie) : (s.setBaseDie n x).harts = s.harts := rfl
@[simp] theorem State.setBaseDie_clusters (s : State) (n : Nat) (x : BaseDie) : (s.setBaseDie n x).clusters = s.clusters := rfl
@[simp] theorem State.setBaseDie_dies (s : State) (n : Nat) (x : BaseDie) : (s.setBaseDie n x).dies = s.dies := rfl
@[simp] theorem State.setBaseDie_ctxs (s : State) (n : Nat) (x : BaseDie) : (s.setBaseDie n x).ctxs = s.ctxs := rfl
@[simp] theorem State.setBaseDie_kernels (s : State) (n : Nat) (x : BaseDie) : (s.setBaseDie n x).kernels = s.kernels := rfl
@[simp] theorem State.setBaseDie_regions (s : State) (n : Nat) (x : BaseDie) : (s.setBaseDie n x).regions = s.regions := rfl
@[simp] theorem State.setBaseDie_experts (s : State) (n : Nat) (x : BaseDie) : (s.setBaseDie n x).experts = s.experts := rfl
@[simp] theorem State.setBaseDie_slots (s : State) (n : Nat) (x : BaseDie) : (s.setBaseDie n x).slots = s.slots := rfl
@[simp] theorem State.setBaseDie_vest (s : State) (n : Nat) (x : BaseDie) : (s.setBaseDie n x).vest = s.vest := rfl
@[simp] theorem State.setBaseDie_pageWaits (s : State) (n : Nat) (x : BaseDie) : (s.setBaseDie n x).pageWaits = s.pageWaits := rfl
@[simp] theorem State.setBaseDie_tlb (s : State) (n : Nat) (x : BaseDie) : (s.setBaseDie n x).tlb = s.tlb := rfl
@[simp] theorem State.setBaseDie_stackDown (s : State) (n : Nat) (x : BaseDie) : (s.setBaseDie n x).stackDown = s.stackDown := rfl
@[simp] theorem State.setBaseDie_owners (s : State) (n : Nat) (x : BaseDie) : (s.setBaseDie n x).owners = s.owners := rfl
@[simp] theorem State.setBaseDie_bad (s : State) (n : Nat) (x : BaseDie) : (s.setBaseDie n x).bad = s.bad := rfl
@[simp] theorem State.setBaseDie_clkCur (s : State) (n : Nat) (x : BaseDie) : (s.setBaseDie n x).clkCur = s.clkCur := rfl
@[simp] theorem State.setBaseDie_clkReq (s : State) (n : Nat) (x : BaseDie) : (s.setBaseDie n x).clkReq = s.clkReq := rfl
@[simp] theorem State.setBaseDie_clkMHz (s : State) (n : Nat) (x : BaseDie) : (s.setBaseDie n x).clkMHz = s.clkMHz := rfl
@[simp] theorem State.setBaseDie_slt (s : State) (n : Nat) (x : BaseDie) : (s.setBaseDie n x).slt = s.slt := rfl
@[simp] theorem State.setBaseDie_sltWaits (s : State) (n : Nat) (x : BaseDie) : (s.setBaseDie n x).sltWaits = s.sltWaits := rfl
@[simp] theorem State.setBaseDie_base (s : State) (n : Nat) (x : BaseDie) : (s.setBaseDie n x).base = tblPut n x s.base := rfl
@[simp] theorem State.setBaseDie_dbg (s : State) (n : Nat) (x : BaseDie) : (s.setBaseDie n x).dbg = s.dbg := rfl
@[simp] theorem State.setBaseDie_errValid (s : State) (n : Nat) (x : BaseDie) : (s.setBaseDie n x).errValid = s.errValid := rfl
@[simp] theorem State.setBaseDie_errPa (s : State) (n : Nat) (x : BaseDie) : (s.setBaseDie n x).errPa = s.errPa := rfl
@[simp] theorem State.setBaseDie_msvcPa (s : State) (n : Nat) (x : BaseDie) : (s.setBaseDie n x).msvcPa = s.msvcPa := rfl
@[simp] theorem State.setBaseDie_msvcEn (s : State) (n : Nat) (x : BaseDie) : (s.setBaseDie n x).msvcEn = s.msvcEn := rfl
@[simp] theorem State.setBaseDie_rung (s : State) (n : Nat) (x : BaseDie) : (s.setBaseDie n x).rung = s.rung := rfl
@[simp] theorem State.setBaseDie_monIrq (s : State) (n : Nat) (x : BaseDie) : (s.setBaseDie n x).monIrq = s.monIrq := rfl
@[simp] theorem State.setBaseDie_mbox (s : State) (n : Nat) (x : BaseDie) : (s.setBaseDie n x).mbox = s.mbox := rfl
@[simp] theorem State.setBaseDie_sctrap (s : State) (n : Nat) (x : BaseDie) : (s.setBaseDie n x).sctrap = s.sctrap := rfl
@[simp] theorem State.setBaseDie_lbrk (s : State) (n : Nat) (x : BaseDie) : (s.setBaseDie n x).lbrk = s.lbrk := rfl
@[simp] theorem State.setBaseDie_fail (s : State) (n : Nat) (x : BaseDie) : (s.setBaseDie n x).fail = s.fail := rfl
@[simp] theorem State.setBaseDie_tmode (s : State) (n : Nat) (x : BaseDie) : (s.setBaseDie n x).tmode = s.tmode := rfl
@[simp] theorem State.setBaseDie_stage (s : State) (n : Nat) (x : BaseDie) : (s.setBaseDie n x).stage = s.stage := rfl
@[simp] theorem State.setBaseDie_mhdmBase (s : State) (n : Nat) (x : BaseDie) : (s.setBaseDie n x).mhdmBase = s.mhdmBase := rfl
@[simp] theorem State.setBaseDie_mhdmGib (s : State) (n : Nat) (x : BaseDie) : (s.setBaseDie n x).mhdmGib = s.mhdmGib := rfl
@[simp] theorem State.setBaseDie_lnode (s : State) (n : Nat) (x : BaseDie) : (s.setBaseDie n x).lnode = s.lnode := rfl
@[simp] theorem State.setBaseDie_portDown (s : State) (n : Nat) (x : BaseDie) : (s.setBaseDie n x).portDown = s.portDown := rfl
@[simp] theorem State.setBaseDie_replays (s : State) (n : Nat) (x : BaseDie) : (s.setBaseDie n x).replays = s.replays := rfl
@[simp] theorem State.setBaseDie_sent (s : State) (n : Nat) (x : BaseDie) : (s.setBaseDie n x).sent = s.sent := rfl
@[simp] theorem State.setBaseDie_tierLost (s : State) (n : Nat) (x : BaseDie) : (s.setBaseDie n x).tierLost = s.tierLost := rfl
@[simp] theorem State.setBaseDie_msix (s : State) (n : Nat) (x : BaseDie) : (s.setBaseDie n x).msix = s.msix := rfl
@[simp] theorem State.setBaseDie_sideband (s : State) (n : Nat) (x : BaseDie) : (s.setBaseDie n x).sideband = s.sideband := rfl
@[simp] theorem State.setBaseDie_doe (s : State) (n : Nat) (x : BaseDie) : (s.setBaseDie n x).doe = s.doe := rfl
@[simp] theorem State.setBaseDie_doeWait (s : State) (n : Nat) (x : BaseDie) : (s.setBaseDie n x).doeWait = s.doeWait := rfl
@[simp] theorem State.setBaseDie_hostReply (s : State) (n : Nat) (x : BaseDie) : (s.setBaseDie n x).hostReply = s.hostReply := rfl
@[simp] theorem State.setBaseDie_launches (s : State) (n : Nat) (x : BaseDie) : (s.setBaseDie n x).launches = s.launches := rfl
@[simp] theorem State.setBaseDie_time (s : State) (n : Nat) (x : BaseDie) : (s.setBaseDie n x).time = s.time := rfl
@[simp] theorem State.setBaseDie_wall (s : State) (n : Nat) (x : BaseDie) : (s.setBaseDie n x).wall = s.wall := rfl
@[simp] theorem State.setBaseDie_recent (s : State) (n : Nat) (x : BaseDie) : (s.setBaseDie n x).recent = s.recent := rfl
@[simp] theorem State.setBaseDie_steps (s : State) (n : Nat) (x : BaseDie) : (s.setBaseDie n x).steps = s.steps := rfl
@[simp] theorem State.setBaseDie_rr (s : State) (n : Nat) (x : BaseDie) : (s.setBaseDie n x).rr = s.rr := rfl
@[simp] theorem State.setBaseDie_agenda (s : State) (n : Nat) (x : BaseDie) : (s.setBaseDie n x).agenda = s.agenda := rfl
@[simp] theorem State.setBaseDie_cur (s : State) (n : Nat) (x : BaseDie) : (s.setBaseDie n x).cur = s.cur := rfl

/-! ### The scalar side -/

@[simp] theorem Scalar.set_pc (c : Scalar) (r : Reg) (v : Word) : (c.set r v).pc = c.pc := by
  unfold Scalar.set; split <;> rfl
@[simp] theorem Scalar.set_fround (c : Scalar) (r : Reg) (v : Word) : (c.set r v).fround = c.fround := by
  unfold Scalar.set; split <;> rfl
@[simp] theorem Scalar.set_vround (c : Scalar) (r : Reg) (v : Word) : (c.set r v).vround = c.vround := by
  unfold Scalar.set; split <;> rfl
@[simp] theorem Scalar.set_fflags (c : Scalar) (r : Reg) (v : Word) : (c.set r v).fflags = c.fflags := by
  unfold Scalar.set; split <;> rfl
@[simp] theorem Scalar.set_g64 (c : Scalar) (r : Reg) (v : Word) : (c.set r v).g64 = c.g64 := by
  unfold Scalar.set; split <;> rfl
@[simp] theorem Scalar.advance_x (c : Scalar) : c.advance.x = c.x := rfl
@[simp] theorem Scalar.advance_fround (c : Scalar) : c.advance.fround = c.fround := rfl
@[simp] theorem Scalar.advance_vround (c : Scalar) : c.advance.vround = c.vround := rfl
@[simp] theorem Scalar.advance_fflags (c : Scalar) : c.advance.fflags = c.fflags := rfl
@[simp] theorem Scalar.advance_g64 (c : Scalar) : c.advance.g64 = c.g64 := rfl
@[simp] theorem Scalar.advance_pc (c : Scalar) : c.advance.pc = c.pc + 4 := rfl
@[simp] theorem Scalar.advance_get (c : Scalar) (r : Reg) : c.advance.get r = c.get r := rfl
@[simp] theorem Scalar.get_zero (c : Scalar) : c.get 0 = 0 := by simp [Scalar.get]
@[simp] theorem Scalar.set_zero (c : Scalar) (v : Word) : c.set 0 v = c := by simp [Scalar.set]

/-- A register that is not s0 reads what was written to it. -/
theorem Scalar.get_set_same (c : Scalar) (r : Reg) (v : Word) (h : r ≠ 0) : (c.set r v).get r = v := by
  unfold Scalar.get Scalar.set
  rw [if_neg h, if_neg h]
  exact Vector.getElem_set_self _

/-- A write leaves every other register. -/
theorem Scalar.get_set_other (c : Scalar) (r q : Reg) (v : Word) (h : q ≠ r) : (c.set r v).get q = c.get q := by
  unfold Scalar.get Scalar.set
  split
  · rfl
  · split
    · rfl
    · exact Vector.getElem_set_ne r.isLt q.isLt (fun e => h (BitVec.eq_of_toNat_eq e.symm))

end Sys2Proof.Machine
end

