-- ==== Sys2Proof/Laws/Memory.lean ====
section
/-! SUPPORT. Memory: every write keeps the canonical form, and what a read finds after a write. -/
namespace Sys2Proof.Machine

/-! ### The canonical form -/

/-- A lower bound weakens. -/
theorem Memory.wfFrom_mono {lo lo' : Nat} (m : List Host.Cell) (h : lo' ≤ lo) (w : Memory.wfFrom lo m = true) :
    Memory.wfFrom lo' m = true := by
  cases m with
  | nil => rfl
  | cons c t =>
    obtain ⟨a, v⟩ := c
    simp only [Memory.wfFrom, Bool.and_eq_true, decide_eq_true_eq] at w ⊢
    exact ⟨⟨by omega, w.1.2⟩, w.2⟩

/-- A write keeps the canonical form above a bound that its key does not pass. -/
theorem Memory.wfFrom_write (k : Nat) (v : Byte) (m : List Host.Cell) :
    ∀ lo, lo ≤ k → Memory.wfFrom lo m = true → Memory.wfFrom lo (Memory.write k v m) = true := by
  induction m with
  | nil =>
    intro lo hk _
    unfold Memory.write
    split
    · rfl
    · rename_i hv; simp [Memory.wfFrom, hk, hv]
  | cons c t ih =>
    obtain ⟨a, w⟩ := c
    intro lo hk h
    have h' := h
    simp only [Memory.wfFrom, Bool.and_eq_true, decide_eq_true_eq] at h
    obtain ⟨⟨h1, h2⟩, h3⟩ := h
    unfold Memory.write
    split
    · rename_i hlt
      split
      · exact h'
      · rename_i hv
        simp [Memory.wfFrom, hk, hv]
        exact ⟨⟨by omega, by simpa using h2⟩, h3⟩
    · split
      · rename_i heq
        subst heq
        split
        · exact Memory.wfFrom_mono t (by omega) h3
        · rename_i hv; simp [Memory.wfFrom, hk, hv, h3]
      · rename_i hlt hne
        simp only [Memory.wfFrom, Bool.and_eq_true, decide_eq_true_eq]
        exact ⟨⟨h1, h2⟩, ih (a + 1) (by omega) h3⟩

/-- A write keeps the canonical form. -/
theorem Memory.wf_write (k : Nat) (v : Byte) (m : List Host.Cell) (h : Memory.wf m = true) :
    Memory.wf (Memory.write k v m) = true := Memory.wfFrom_write k v m 0 (Nat.zero_le k) h

/-- Writes keep the canonical form. -/
theorem Memory.wf_writes (bs : List Byte) : ∀ (k : Nat) (m : List Host.Cell), Memory.wf m = true →
    Memory.wf (Memory.writes m k bs) = true := by
  induction bs with
  | nil => intro k m h; exact h
  | cons b t ih => intro k m h; exact ih (k + 1) _ (Memory.wf_write k b m h)

/-- A part of memory in its canonical form is in it. -/
theorem Memory.wfFrom_filter (p : Host.Cell → Bool) (m : List Host.Cell) :
    ∀ lo, Memory.wfFrom lo m = true → Memory.wfFrom lo (m.filter p) = true := by
  induction m with
  | nil => intro lo _; rfl
  | cons c t ih =>
    obtain ⟨a, v⟩ := c
    intro lo h
    simp only [Memory.wfFrom, Bool.and_eq_true, decide_eq_true_eq] at h
    obtain ⟨⟨h1, h2⟩, h3⟩ := h
    rw [List.filter_cons]
    split
    · simp only [Memory.wfFrom, Bool.and_eq_true, decide_eq_true_eq]
      exact ⟨⟨h1, h2⟩, ih _ h3⟩
    · exact Memory.wfFrom_mono _ (by omega) (ih _ h3)

theorem Memory.wf_filter (p : Host.Cell → Bool) (m : List Host.Cell) (h : Memory.wf m = true) :
    Memory.wf (m.filter p) = true := Memory.wfFrom_filter p m 0 h

/-! ### Reading after writing -/

/-- Below the first listed key nothing is listed. -/
theorem Memory.read_below {lo k : Nat} (m : List Host.Cell) (h : Memory.wfFrom lo m = true) (hk : k < lo) :
    Memory.read k m = unlistedByte := by
  cases m with
  | nil => rfl
  | cons c t =>
    obtain ⟨a, v⟩ := c
    simp only [Memory.wfFrom, Bool.and_eq_true, decide_eq_true_eq] at h
    have h1 := h.1.1
    unfold Memory.read
    rw [if_neg (by omega), if_pos (by omega)]

/-- The byte written reads back. -/
theorem Memory.read_write_same (k : Nat) (v : Byte) (m : List Host.Cell) :
    ∀ lo, Memory.wfFrom lo m = true → Memory.read k (Memory.write k v m) = v := by
  induction m with
  | nil =>
    intro lo _
    unfold Memory.write
    split
    · rename_i hv; rw [hv]; rfl
    · simp [Memory.read]
  | cons c t ih =>
    obtain ⟨a, w⟩ := c
    intro lo h
    simp only [Memory.wfFrom, Bool.and_eq_true, decide_eq_true_eq] at h
    obtain ⟨⟨h1, h2⟩, h3⟩ := h
    unfold Memory.write
    split
    · rename_i hlt
      split
      · rename_i hv
        unfold Memory.read
        rw [if_neg (by omega), if_pos hlt, hv]
      · simp [Memory.read]
    · split
      · rename_i hlt heq
        subst heq
        split
        · rename_i hv; rw [Memory.read_below t h3 (by omega), hv]
        · simp [Memory.read]
      · rename_i hlt hne
        unfold Memory.read
        rw [if_neg (by omega), if_neg (by omega)]
        exact ih (a + 1) h3

/-- A write leaves every other byte. -/
theorem Memory.read_write_other (k j : Nat) (v : Byte) (hj : j ≠ k) (m : List Host.Cell) :
    ∀ lo, Memory.wfFrom lo m = true → Memory.read j (Memory.write k v m) = Memory.read j m := by
  induction m with
  | nil =>
    intro lo _
    unfold Memory.write
    split
    · rfl
    · simp [Memory.read]; intro e; exact absurd e.symm hj
  | cons c t ih =>
    obtain ⟨a, w⟩ := c
    intro lo h
    simp only [Memory.wfFrom, Bool.and_eq_true, decide_eq_true_eq] at h
    obtain ⟨⟨h1, h2⟩, h3⟩ := h
    unfold Memory.write
    split
    · rename_i hlt
      split
      · rfl
      · show Memory.read j ((k, v) :: (a, w) :: t) = _
        rw [Memory.read, if_neg (fun e => hj e.symm)]
        split
        · rename_i hjk
          rw [Memory.read, if_neg (by omega), if_pos (by omega)]
        · rfl
    · split
      · rename_i hlt heq
        subst heq
        split
        · rw [Memory.read, if_neg (fun e => hj e.symm)]
          split
          · rename_i hjk; exact Memory.read_below t h3 (by omega)
          · rfl
        · have hkj : ¬k = j := fun e => hj e.symm
          simp only [Memory.read, if_neg hkj]
      · rename_i hlt hne
        rw [Memory.read, Memory.read]
        split
        · rfl
        · split
          · rfl
          · exact ih (a + 1) h3

/-- Bytes written leave every byte outside them. -/
theorem Memory.read_writes_other (bs : List Byte) : ∀ (k j : Nat) (m : List Host.Cell), Memory.wf m = true →
    (j < k ∨ k + bs.length ≤ j) → Memory.read j (Memory.writes m k bs) = Memory.read j m := by
  induction bs with
  | nil => intro k j m _ _; rfl
  | cons b t ih =>
    intro k j m h hj
    simp only [List.length_cons] at hj
    show Memory.read j (Memory.writes (Memory.write k b m) (k + 1) t) = _
    rw [ih (k + 1) j _ (Memory.wf_write k b m h) (by omega)]
    exact Memory.read_write_other k j b (by omega) m 0 h

/-- Bytes written read back. -/
theorem Memory.reads_writes (bs : List Byte) : ∀ (k : Nat) (m : List Host.Cell), Memory.wf m = true →
    Memory.reads (Memory.writes m k bs) k bs.length = bs := by
  induction bs with
  | nil => intro k m _; rfl
  | cons b t ih =>
    intro k m h
    have h1 := Memory.wf_write k b m h
    have h2 := ih (k + 1) _ h1
    show Memory.read k (Memory.writes (Memory.write k b m) (k + 1) t) ::
      Memory.reads (Memory.writes (Memory.write k b m) (k + 1) t) (k + 1) t.length = b :: t
    rw [h2, Memory.read_writes_other t (k + 1) k _ h1 (by omega), Memory.read_write_same k b m 0 h]

/-! ### The state's writes -/

/-- A write at a key: memory is Memory.writes of it, whatever the key; only the dirty marks of a scratchpad may change beside. -/
@[simp] theorem State.poke_mem (s : State) (k : Nat) (bs : List Byte) : (s.poke k bs).mem = Memory.writes s.mem k bs := by
  unfold State.poke
  cases keyScratch k with
  | none => rfl
  | some p => obtain ⟨c, o⟩ := p; simp only; split <;> rfl

@[simp] theorem State.pokeNat_mem (s : State) (k n v : Nat) : (s.pokeNat k n v).mem = Memory.writes s.mem k (leBytes n v) :=
  State.poke_mem s k _

theorem State.poke_wf (s : State) (k : Nat) (bs : List Byte) (h : Memory.wf s.mem = true) : Memory.wf (s.poke k bs).mem = true := by
  rw [State.poke_mem]; exact Memory.wf_writes bs k s.mem h

theorem State.pokeNat_wf (s : State) (k n v : Nat) (h : Memory.wf s.mem = true) : Memory.wf (s.pokeNat k n v).mem = true :=
  State.poke_wf s k _ h

/-- A context's claim of a block changes no byte. -/
@[simp] theorem State.own_mem (s : State) (ctx k : Nat) : (s.own ctx k).mem = s.mem := by
  unfold State.own; split <;> rfl

/-- A context's write is the write, whatever it owns. -/
@[simp] theorem State.pokeBy_mem (s : State) (ctx k : Nat) (bs : List Byte) :
    (s.pokeBy ctx k bs).mem = Memory.writes s.mem k bs := by
  unfold State.pokeBy; rw [State.poke_mem, State.own_mem]

theorem State.pokeBy_wf (s : State) (ctx k : Nat) (bs : List Byte) (h : Memory.wf s.mem = true) :
    Memory.wf (s.pokeBy ctx k bs).mem = true := by
  rw [State.pokeBy_mem]; exact Memory.wf_writes bs k s.mem h

theorem State.zeroRange_wf (s : State) (k n : Nat) (h : Memory.wf s.mem = true) : Memory.wf (s.zeroRange k n).mem = true :=
  Memory.wf_filter _ s.mem h

/-- A store at a place goes to memory or to the step in progress of a region. -/
theorem State.storeAt_wf (s : State) (w : Who) (k : Nat) (bs : List Byte) (h : Memory.wf s.mem = true) :
    Memory.wf (s.storeAt w k bs).mem = true := by
  unfold State.storeAt
  split
  · exact h
  · exact State.pokeBy_wf s w.ctx k bs h

/-- The translation cache is all that a translation may change. -/
@[simp] theorem State.touch_mem (s : State) (ctx va : Nat) : (s.touch ctx va).mem = s.mem := by
  unfold State.touch; split
  · rfl
  · split <;> rfl

@[simp] theorem State.touchAll_mem (ctx : Nat) (ps : List (Nat × Nat)) : ∀ s : State, (s.touchAll ctx ps).mem = s.mem := by
  induction ps with
  | nil => intro s; rfl
  | cons p t ih => intro s; exact (ih (s.touch ctx p.1)).trans (State.touch_mem s ctx p.1)

@[simp] theorem State.logError_mem (s : State) (k : Nat) : (s.logError k).mem = s.mem := by
  unfold State.logError; split <;> rfl

/-- Memory at reset is in its canonical form. -/
theorem State.reset_wf : Memory.wf State.reset.mem = true := rfl

end Sys2Proof.Machine
end

