-- ==== Sys2Proof/Laws/Ops.lean ====
section
/-! SUPPORT. What the shared operations can do: a scalar word on the party on turn, its registers' readiness, its stops. -/
namespace Sys2Proof.Machine

/-! ### Scalar words -/

/-- A word whose registers are ready does not wait. -/
theorem Ctx.need_ok (k : Ctx) (ds srcs : List Reg) (h : ∀ r ∈ ds, k.regBusy r = false) (g : ∀ r ∈ srcs, k.readBusy r = false) :
    k.need ds srcs = .ok () := by
  unfold Ctx.need
  rw [if_neg]
  simp only [Bool.or_eq_true, List.any_eq_true, not_or, not_exists, not_and, Bool.not_eq_true]
  exact ⟨h, g⟩

/-- A word whose body performs it ends in the state after it. -/
theorem State.scalarWord_ok {s : State} {c : Scalar} {u : Unit83} {body : Ctx → Res Ctx} {k : Ctx} (hs : s.scalar s.cur = some c)
    (hu : unitCause s.cur u = none) (hb : body ⟨s, s.cur, c⟩ = .ok k) : s.scalarWord u body = .next (k.finish c.pc s) := by
  unfold State.scalarWord; rw [hs]; simp only; rw [hu]; simp only; rw [hb]

/-- A word whose body traps ends in the trap, taken in the state that the body left. -/
theorem State.scalarWord_trap {s t : State} {c : Scalar} {u : Unit83} {body : Ctx → Res Ctx} {x : Trap} (hs : s.scalar s.cur = some c)
    (hu : unitCause s.cur u = none) (hb : body ⟨s, s.cur, c⟩ = .error (t, .trap x)) :
    s.scalarWord u body = t.takeTrap s.cur x c.pc c.pc := by
  unfold State.scalarWord; rw [hs]; simp only; rw [hu]; simp only; rw [hb]; rfl

/-- A word whose body waits leaves the state that the body left, marked as waiting. -/
theorem State.scalarWord_wait {s t : State} {c : Scalar} {u : Unit83} {body : Ctx → Res Ctx} (hs : s.scalar s.cur = some c)
    (hu : unitCause s.cur u = none) (hb : body ⟨s, s.cur, c⟩ = .error (t, .wait)) :
    s.scalarWord u body = .next (t.markWaiting s.cur) := by
  unfold State.scalarWord; rw [hs]; simp only; rw [hu]; simp only; rw [hb]; rfl

/-- A word that the party's kind does not execute traps with R83's cause and does nothing else. -/
theorem State.scalarWord_kind {s : State} {c : Scalar} {u : Unit83} {body : Ctx → Res Ctx} {n : Nat} (hs : s.scalar s.cur = some c)
    (hu : unitCause s.cur u = some n) : s.scalarWord u body = s.takeTrap s.cur { cause := n } c.pc c.pc := by
  unfold State.scalarWord; rw [hs]; simp only; rw [hu]

/-- Everything a scalar word can come to. -/
theorem State.scalarWord_cases (s : State) (u : Unit83) (body : Ctx → Res Ctx) :
    (s.scalar s.cur = none ∧ s.scalarWord u body = .fault .noParty) ∨
    ∃ c, s.scalar s.cur = some c ∧
      ((∃ n, unitCause s.cur u = some n ∧ s.scalarWord u body = s.takeTrap s.cur { cause := n } c.pc c.pc) ∨
       (unitCause s.cur u = none ∧
        ((∃ k, body ⟨s, s.cur, c⟩ = .ok k ∧ s.scalarWord u body = .next (k.finish c.pc s)) ∨
         (∃ t w, body ⟨s, s.cur, c⟩ = .error (t, w) ∧ s.scalarWord u body = t.stopped s.cur c.pc w)))) := by
  cases hs : s.scalar s.cur with
  | none => left; exact ⟨rfl, by unfold State.scalarWord; rw [hs]⟩
  | some c =>
    right
    refine ⟨c, rfl, ?_⟩
    cases hu : unitCause s.cur u with
    | some n => left; exact ⟨n, rfl, State.scalarWord_kind hs hu⟩
    | none =>
      right
      refine ⟨rfl, ?_⟩
      cases hb : body ⟨s, s.cur, c⟩ with
      | ok k => left; exact ⟨k, rfl, State.scalarWord_ok hs hu hb⟩
      | error e =>
        right
        obtain ⟨t, w⟩ := e
        exact ⟨t, w, rfl, by unfold State.scalarWord; rw [hs]; simp only; rw [hu]; simp only; rw [hb]⟩

/-! ### Shapes of scalar words -/

theorem alu3_next {s : State} {c : Scalar} {d a b : Reg} (f : Word → Word → Word) (h : s.Issues c .common [d] [a, b]) :
    alu3 f d a b s = .next (s.performed c (c.wrote d (f (c.get a) (c.get b)))) := by
  unfold alu3 State.performed Scalar.wrote
  apply State.scalarWord_ok h.side h.kind
  rw [Ctx.need_ok _ _ _ h.writes h.reads]; rfl

theorem alu2_next {s : State} {c : Scalar} {d a : Reg} (f : Word → Word) (h : s.Issues c .common [d] [a]) :
    alu2 f d a s = .next (s.performed c (c.wrote d (f (c.get a)))) := by
  unfold alu2 State.performed Scalar.wrote
  apply State.scalarWord_ok h.side h.kind
  rw [Ctx.need_ok _ _ _ h.writes h.reads]; rfl

/-! ### The state after a word -/

@[simp] theorem State.setScalar_mem (s : State) (p : Party) (c : Scalar) : (s.setScalar p c).mem = s.mem := by
  unfold State.setScalar
  cases p with
  | vec n => simp only; split <;> rfl
  | mcc n => simp only; split <;> rfl
  | seq n => simp only; split <;> rfl
  | scc n => rfl

@[simp] theorem State.retire_mem (s : State) (p : Party) (pc : Word) (t : State) : (s.retire p pc t).mem = s.mem := by
  unfold State.retire
  cases p with
  | vec n => simp only; split <;> rfl
  | mcc n => rfl
  | seq n => rfl
  | scc n => simp only; split <;> rfl

@[simp] theorem Ctx.finish_mem (k : Ctx) (pc : Word) (t : State) : (k.finish pc t).mem = k.st.mem := by simp [Ctx.finish]

@[simp] theorem State.performed_mem (s : State) (c c' : Scalar) : (s.performed c c').mem = s.mem := by simp [State.performed]

@[simp] theorem State.countFor_mem (s : State) (p : Party) (n : Nat × Nat) : (s.countFor p n).mem = s.mem := by
  unfold State.countFor
  split
  · split <;> rfl
  · split <;> rfl

@[simp] theorem State.markWaiting_mem (s : State) (p : Party) : (s.markWaiting p).mem = s.mem := by
  unfold State.markWaiting
  split
  · split <;> rfl
  · rfl
  · rfl

end Sys2Proof.Machine
end

