-- ==== Sys2Proof/Laws/Keeps.lean ====
section
/-! SUPPORT. The shared operations keep memory's canonical form: one lemma an operation, cited by what is proved of a step. -/
namespace Sys2Proof.Machine

/-- A fold keeps what each of its steps keeps. -/
theorem foldl_keeps {α β : Type} (P : β → Prop) (f : β → α → β) (hf : ∀ t a, P t → P (f t a)) :
    ∀ (l : List α) (t : β), P t → P (l.foldl f t) := by
  intro l
  induction l with
  | nil => intro t h; exact h
  | cons a l ih => intro t h; exact ih (f t a) (hf t a h)

/-- Memory in canonical form, said of a state. -/
abbrev State.Canonical (s : State) : Prop := Memory.wf s.mem = true

/-! ### Accesses -/

/-- A load changes no byte of memory, whatever it answers. -/
theorem State.load_mem (s : State) (w : Who) (kind cls va n : Nat) : (s.load w kind cls va n).1.mem = s.mem := by
  unfold State.load
  split
  · rfl
  · simp only
    split
    · rfl
    · split
      · rfl
      · split
        · split <;> simp
        · simp

/-- A store keeps the canonical form, whether it is performed or traps. -/
theorem State.store_wf (s : State) (w : Who) (kind cls va n v : Nat) (f : StoreForm) (h : s.Canonical) :
    (s.store w kind cls va n v f).1.Canonical := by
  unfold State.store
  split
  · exact h
  · simp only
    split
    · exact h
    · have h1 : (s.touchAll w.ctx (pieces va n)).Canonical := by simpa [State.Canonical] using h
      split
      · exact h
      · split
        · exact h1
        · split
          · exact h1
          · exact foldl_keeps (fun (acc : State × List Byte) => acc.1.Canonical) _ (fun t a ht => State.storeAt_wf t.1 w _ _ ht) _ (_, _) h1

/-- A copied range keeps the canonical form. -/
theorem State.copyRange_wf (s : State) (src dst n : Nat) (h : s.Canonical) : (s.copyRange src dst n).Canonical := by
  unfold State.copyRange
  exact foldl_keeps State.Canonical _ (fun t a ht => Memory.wf_write _ _ _ ht) _ _ (State.zeroRange_wf s dst n h)

/-! ### Queues and records -/

theorem State.physPut_wf (s : State) (k : Nat) (bs : List Byte) (h : s.Canonical) : (s.physPut k bs).Canonical := by
  unfold State.physPut; split
  · exact State.poke_wf _ _ _ h
  · exact h

/-- Of two states, the one chosen keeps the form when both do. -/
theorem State.ite_wf {α : Type} {c : Prop} [Decidable c] {x y : State × α} (hx : x.1.Canonical) (hy : y.1.Canonical) :
    (if c then x else y).1.Canonical := by
  split
  · exact hx
  · exact hy

theorem State.queuePut_wf (s : State) (pa lg n : Nat) (rec : List Byte) (h : s.Canonical) : (s.queuePut pa lg n rec).1.Canonical :=
  State.ite_wf (State.physPut_wf _ _ _ (State.physPut_wf _ _ _ h)) (State.physPut_wf _ _ _ h)

theorem State.faultPut_wf (s : State) (ctx : Nat) (rec : List Byte) (h : s.Canonical) : (s.faultPut ctx rec).Canonical := by
  unfold State.faultPut
  simp only
  split
  · exact State.queuePut_wf _ _ _ _ _ h
  · exact h

theorem State.faultPutTrap_wf (s : State) (src : Source) (t : Trap) (flags : Nat) (h : s.Canonical) : (s.faultPutTrap src t flags).Canonical := by
  have h1 := State.faultPut_wf s src.ctx (faultRecord src t flags) h
  unfold State.faultPutTrap
  simp only
  split
  · exact h1
  · split
    · exact h1
    · exact foldl_keeps State.Canonical _ (fun t x ht => State.physPut_wf _ _ _ ht) _ _ h1

/-! ### Blocks, regions and groups -/

theorem State.freshBlock_wf (s : State) (b : Nat) (h : s.Canonical) : (s.freshBlock b).Canonical := by
  have h1 := State.zeroRange_wf s (4096 * b) 4096 h
  unfold State.freshBlock
  cases keyScratch (4096 * b) with
  | none => exact h1
  | some p => exact h1

theorem State.freshRange_wf (s : State) (k n : Nat) (h : s.Canonical) : (s.freshRange k n).Canonical :=
  foldl_keeps State.Canonical _ (fun t b ht => State.freshBlock_wf t b ht) _ s h

theorem State.freeBlocks_wf (s : State) (ctx : Nat) (p : Nat → Bool) (h : s.Canonical) : (s.freeBlocks ctx p).Canonical := by
  unfold State.freeBlocks
  refine foldl_keeps State.Canonical _ (fun t b ht => ?_) _ s h
  split
  · exact ht
  · exact State.freshBlock_wf t b ht

theorem State.leaveCluster_wf (s : State) (ctx c : Nat) (h : s.Canonical) : (s.leaveCluster ctx c).Canonical := by
  unfold State.leaveCluster; split
  · exact h
  · exact State.freeBlocks_wf s ctx _ h

theorem State.serveBlocks_wf (s : State) (ctx b n : Nat) (h : s.Canonical) : (s.serveBlocks ctx b n).Canonical := by
  unfold State.serveBlocks
  refine foldl_keeps State.Canonical _ (fun t b ht => ?_) _ s h
  split
  · split
    · exact ht
    · exact State.freshBlock_wf t b ht
  · exact ht

theorem State.releaseRegion_wf (s : State) (r : Region) (zero : Bool) (h : s.Canonical) : (s.releaseRegion r zero).Canonical := by
  have h1 : State.Canonical { s with regions := s.regions.filter fun x => x != r } := h
  have z (t : State) (ht : t.Canonical) : (if zero = true then t.zeroRange r.key r.size else t).Canonical := by
    split
    · exact State.zeroRange_wf _ _ _ ht
    · exact ht
  unfold State.releaseRegion
  cases r.scratch with
  | false => simpa using z _ h1
  | true =>
    have h2 := State.zeroRange_wf _ (r.key + r.size) r.size h1
    cases zero with
    | false => exact h2
    | true => exact State.leaveCluster_wf _ _ _ (State.zeroRange_wf _ r.key r.size h2)

theorem State.writeStatus_wf (s : State) (r : Region) (new : Nat) (h : s.Canonical) : (s.writeStatus r new).Canonical :=
  State.pokeNat_wf _ _ _ _ (by exact h)

theorem State.dropEnded_wf (s : State) (c : Nat) (h : s.Canonical) : (s.dropEnded c).Canonical := by
  unfold State.dropEnded
  simp only
  split
  · exact h
  · exact foldl_keeps State.Canonical _ (fun t a ht => State.freshRange_wf t _ _ ht) _ s h

theorem State.releaseDying_wf (s : State) (ctx group kid : Nat) (h : s.Canonical) : (s.releaseDying ctx group kid).Canonical := by
  unfold State.releaseDying
  refine foldl_keeps State.Canonical _ (fun t r ht => ?_) _ s h
  have h1 := State.releaseRegion_wf t r (!r.scratch) ht
  simp only
  split
  · exact State.dropEnded_wf _ _ h1
  · exact h1

@[simp] theorem State.leaveStep_mem (s : State) (slot : Nat) : (s.leaveStep slot).mem = s.mem := by
  unfold State.leaveStep; split
  · exact State.retire_mem _ _ _ _
  · rfl

theorem State.abandonStep_wf (s : State) (ctx group kid : Nat) (h : s.Canonical) : (s.abandonStep ctx group kid).Canonical := by
  unfold State.abandonStep
  refine foldl_keeps State.Canonical _ (fun t e ht => by simpa [State.Canonical] using ht) _ _ ?_
  exact foldl_keeps State.Canonical _ (fun t r ht => State.writeStatus_wf t r 2 ht) _ _ (State.releaseDying_wf s ctx group kid h)

theorem State.retireRegion_wf (s : State) (r : Region) (zero : Bool) (h : s.Canonical) : (s.retireRegion r zero).Canonical := by
  unfold State.retireRegion; split
  · exact h
  · exact State.releaseRegion_wf s r zero h

@[simp] theorem State.breakBarriers_mem (s : State) (ctx kid : Nat) : (s.breakBarriers ctx kid).mem = s.mem := by
  unfold State.breakBarriers
  simp only
  refine foldl_keeps (fun t : State => t.mem = s.mem) _ ?_ _ _ rfl
  intro t b ht
  exact ht

@[simp] theorem State.endGbar_mem (s : State) (ctx group kid : Nat) : (s.endGbar ctx group kid).mem = s.mem := by
  unfold State.endGbar; split <;> rfl

@[simp] theorem State.releaseClaims_mem (s : State) (slot : Nat) : (s.releaseClaims slot).mem = s.mem := by
  unfold State.releaseClaims; split <;> rfl

/-! ### Accesses between their pieces -/

theorem State.settleHalf_wf (s : State) (slot : Nat) (h : s.Canonical) : (s.settleHalf slot).Canonical := by
  unfold State.settleHalf
  split
  · exact h
  · split
    · exact h
    · simp only
      split
      · exact h
      · simp only [State.Canonical, State.retire_mem, State.setScalar_mem, State.countFor_mem]
        exact State.storeAt_wf _ _ _ _ h

/-! ### The end of a kernel -/

/-- The decision to kill a kernel keeps the canonical form. -/
theorem State.killKernel_wf (s : State) (ctx kid final cause : Nat) (h : s.Canonical) : (s.killKernel ctx kid final cause).Canonical := by
  unfold State.killKernel
  split
  · exact h
  · split
    · exact h
    · refine foldl_keeps State.Canonical _ (fun t g ht => by simpa [State.Canonical] using ht) _ _ ?_
      refine foldl_keeps State.Canonical _ (fun t g ht => State.abandonStep_wf t ctx g kid ht) _ _ ?_
      refine foldl_keeps State.Canonical _ (fun t r ht => State.retireRegion_wf t r _ ht) _ _ ?_
      refine foldl_keeps State.Canonical _ (fun t i ht => by simpa [State.Canonical] using ht) _ _ ?_
      show State.Canonical (List.foldl _ _ _)
      refine foldl_keeps State.Canonical _ (fun t i ht => State.settleHalf_wf t i ht) _ _ ?_
      simpa [State.Canonical] using h

theorem State.doom_mem (s : State) (ctx kid cause : Nat) : (s.doom ctx kid cause).mem = s.mem := by
  unfold State.doom; split
  · split <;> rfl
  · rfl

theorem State.killDoomed_wf (s : State) (h : s.Canonical) : s.killDoomed.Canonical := by
  unfold State.killDoomed
  refine foldl_keeps State.Canonical _ (fun t k ht => ?_) _ s h
  split
  · exact State.killKernel_wf _ _ _ _ _ ht
  · exact ht

/-! ### Traps -/

theorem State.halved_wf (s : State) (slot : Nat) (g : Hart) (h : s.Canonical) : (s.halved slot g).1.Canonical := by
  unfold State.halved; split
  · exact h
  · exact State.settleHalf_wf _ _ h

theorem State.trapHart_wf {s t : State} {slot : Nat} {g : Hart} {x : Trap} {pc : Word} (h : s.Canonical)
    (e : s.trapHart slot g x pc = .next t) : t.Canonical := by
  have h0 := State.halved_wf s slot g h
  unfold State.trapHart at e
  simp only [Host.Outcome.next.injEq] at e
  subst e
  have h1 : (((s.halved slot g).1.releaseClaims slot).stopServed slot).Canonical := by
    show State.Canonical (State.releaseClaims _ _)
    simpa [State.Canonical] using h0
  split
  · exact State.faultPutTrap_wf _ _ _ _ h1
  · have := State.doom_mem
    unfold State.Canonical
    rw [this]
    exact State.faultPutTrap_wf _ _ _ _ h1

/-- The second piece of an access keeps the canonical form, whether it is performed or traps. -/
theorem State.finishHalf_wf {s t : State} {slot : Nat} (h : s.Canonical) (e : s.finishHalf slot = .next t) : t.Canonical := by
  unfold State.finishHalf at e
  split at e
  · cases e; exact h
  · split at e
    · cases e; exact h
    · simp only at e
      split at e
      · cases e; exact State.settleHalf_wf s slot h
      · split at e
        · refine State.trapHart_wf ?_ e
          split <;> simpa [State.Canonical] using h
        · cases e; simpa [State.Canonical] using h

theorem State.trapEngine_wf {s t : State} {p : Party} {x : Trap} {pc : Word} (h : s.Canonical)
    (e : s.trapEngine p x pc = .next t) : t.Canonical := by
  unfold State.trapEngine at e
  simp only [Host.Outcome.next.injEq] at e
  subst e
  exact State.killKernel_wf _ _ _ _ _ (State.faultPutTrap_wf _ _ _ _ h)

/-- Taking a trap keeps the canonical form, on every kind of party. -/
theorem State.takeTrap_wf {s t : State} {p : Party} {x : Trap} {a b : Word} (h : s.Canonical)
    (e : s.takeTrap p x a b = .next t) : t.Canonical := by
  unfold State.takeTrap at e
  cases p with
  | vec slot =>
    simp only at e
    split at e
    · cases e
    · exact State.trapHart_wf h e
  | scc d => cases e; exact h
  | mcc k => exact State.trapEngine_wf h e
  | seq k => exact State.trapEngine_wf h e

/-! ### Performing a word -/

theorem State.stopped_wf {s t : State} {p : Party} {pc : Word} {w : Stop} (h : s.Canonical) (e : s.stopped p pc w = .next t) : t.Canonical := by
  unfold State.stopped at e
  cases w with
  | wait => cases e; simpa [State.Canonical] using h
  | fault f => cases e
  | trap x => exact State.takeTrap_wf h e

/-- A scalar word keeps the canonical form when its body does, in its effect and in its stops. -/
theorem State.scalarWord_wf {s t : State} {u : Unit83} {body : Ctx → Res Ctx} (h : s.Canonical)
    (hok : ∀ c k, body ⟨s, s.cur, c⟩ = .ok k → k.st.Canonical) (hst : ∀ c r, body ⟨s, s.cur, c⟩ = .error r → r.1.Canonical)
    (e : s.scalarWord u body = .next t) : t.Canonical := by
  unfold State.scalarWord at e
  split at e
  · cases e
  · rename_i c _
    split at e
    · exact State.takeTrap_wf h e
    · split at e
      · rename_i k q
        cases e; simpa [State.Canonical] using hok c k q
      · rename_i r w q
        exact State.stopped_wf (hst c (r, w) q) e

end Sys2Proof.Machine
end

