-- ==== Sys2Proof/Laws/PerInstr.lean ====
section
/-! SUPPORT. One lemma a constructor of Instr: a word of the scalar size is no word of the vector size (R76, R84). -/
namespace Sys2Proof.Laws.OneWordSize

/-- An instruction is encoded in at most one of the two sizes: no instruction of a scalar program counter is one of a vector stream. -/
def Statement (i : Instr) : Prop := encodeScalar i = none ∨ encodeVector i = none

theorem add : ∀ x0 x1 x2, Statement (.add x0 x1 x2) := fun _ _ _ => .inr rfl
theorem sub : ∀ x0 x1 x2, Statement (.sub x0 x1 x2) := fun _ _ _ => .inr rfl
theorem mul : ∀ x0 x1 x2, Statement (.mul x0 x1 x2) := fun _ _ _ => .inr rfl
theorem mulh : ∀ x0 x1 x2, Statement (.mulh x0 x1 x2) := fun _ _ _ => .inr rfl
theorem mulhn : ∀ x0 x1 x2, Statement (.mulhn x0 x1 x2) := fun _ _ _ => .inr rfl
theorem div : ∀ x0 x1 x2, Statement (.div x0 x1 x2) := fun _ _ _ => .inr rfl
theorem divn : ∀ x0 x1 x2, Statement (.divn x0 x1 x2) := fun _ _ _ => .inr rfl
theorem rem : ∀ x0 x1 x2, Statement (.rem x0 x1 x2) := fun _ _ _ => .inr rfl
theorem remn : ∀ x0 x1 x2, Statement (.remn x0 x1 x2) := fun _ _ _ => .inr rfl
theorem and : ∀ x0 x1 x2, Statement (.and x0 x1 x2) := fun _ _ _ => .inr rfl
theorem or : ∀ x0 x1 x2, Statement (.or x0 x1 x2) := fun _ _ _ => .inr rfl
theorem xor : ∀ x0 x1 x2, Statement (.xor x0 x1 x2) := fun _ _ _ => .inr rfl
theorem andn : ∀ x0 x1 x2, Statement (.andn x0 x1 x2) := fun _ _ _ => .inr rfl
theorem shl : ∀ x0 x1 x2, Statement (.shl x0 x1 x2) := fun _ _ _ => .inr rfl
theorem shr : ∀ x0 x1 x2, Statement (.shr x0 x1 x2) := fun _ _ _ => .inr rfl
theorem sra : ∀ x0 x1 x2, Statement (.sra x0 x1 x2) := fun _ _ _ => .inr rfl
theorem rotr : ∀ x0 x1 x2, Statement (.rotr x0 x1 x2) := fun _ _ _ => .inr rfl
theorem min : ∀ x0 x1 x2, Statement (.min x0 x1 x2) := fun _ _ _ => .inr rfl
theorem max : ∀ x0 x1 x2, Statement (.max x0 x1 x2) := fun _ _ _ => .inr rfl
theorem minn : ∀ x0 x1 x2, Statement (.minn x0 x1 x2) := fun _ _ _ => .inr rfl
theorem maxn : ∀ x0 x1 x2, Statement (.maxn x0 x1 x2) := fun _ _ _ => .inr rfl
theorem slt : ∀ x0 x1 x2, Statement (.slt x0 x1 x2) := fun _ _ _ => .inr rfl
theorem sltn : ∀ x0 x1 x2, Statement (.sltn x0 x1 x2) := fun _ _ _ => .inr rfl
theorem seq : ∀ x0 x1 x2, Statement (.seq x0 x1 x2) := fun _ _ _ => .inr rfl
theorem csel : ∀ x0 x1 x2, Statement (.csel x0 x1 x2) := fun _ _ _ => .inr rfl
theorem clz : ∀ x0 x1, Statement (.clz x0 x1) := fun _ _ => .inr rfl
theorem ctz : ∀ x0 x1, Statement (.ctz x0 x1) := fun _ _ => .inr rfl
theorem popc : ∀ x0 x1, Statement (.popc x0 x1) := fun _ _ => .inr rfl
theorem sextB : ∀ x0 x1, Statement (.sextB x0 x1) := fun _ _ => .inr rfl
theorem sextH : ∀ x0 x1, Statement (.sextH x0 x1) := fun _ _ => .inr rfl
theorem sextW : ∀ x0 x1, Statement (.sextW x0 x1) := fun _ _ => .inr rfl
theorem zextB : ∀ x0 x1, Statement (.zextB x0 x1) := fun _ _ => .inr rfl
theorem zextH : ∀ x0 x1, Statement (.zextH x0 x1) := fun _ _ => .inr rfl
theorem zextW : ∀ x0 x1, Statement (.zextW x0 x1) := fun _ _ => .inr rfl
theorem fadd : ∀ x0 x1 x2, Statement (.fadd x0 x1 x2) := fun _ _ _ => .inr rfl
theorem fsub : ∀ x0 x1 x2, Statement (.fsub x0 x1 x2) := fun _ _ _ => .inr rfl
theorem fmul : ∀ x0 x1 x2, Statement (.fmul x0 x1 x2) := fun _ _ _ => .inr rfl
theorem ffma : ∀ x0 x1 x2, Statement (.ffma x0 x1 x2) := fun _ _ _ => .inr rfl
theorem fmin : ∀ x0 x1 x2, Statement (.fmin x0 x1 x2) := fun _ _ _ => .inr rfl
theorem fmax : ∀ x0 x1 x2, Statement (.fmax x0 x1 x2) := fun _ _ _ => .inr rfl
theorem fcmpEq : ∀ x0 x1 x2, Statement (.fcmpEq x0 x1 x2) := fun _ _ _ => .inr rfl
theorem fcmpLt : ∀ x0 x1 x2, Statement (.fcmpLt x0 x1 x2) := fun _ _ _ => .inr rfl
theorem fcmpLe : ∀ x0 x1 x2, Statement (.fcmpLe x0 x1 x2) := fun _ _ _ => .inr rfl
theorem fcvtF32I64 : ∀ x0 x1, Statement (.fcvtF32I64 x0 x1) := fun _ _ => .inr rfl
theorem fcvtI64F32 : ∀ x0 x1, Statement (.fcvtI64F32 x0 x1) := fun _ _ => .inr rfl
theorem addi : ∀ x0 x1 x2, Statement (.addi x0 x1 x2) := fun _ _ _ => .inr rfl
theorem andi : ∀ x0 x1 x2, Statement (.andi x0 x1 x2) := fun _ _ _ => .inr rfl
theorem ori : ∀ x0 x1 x2, Statement (.ori x0 x1 x2) := fun _ _ _ => .inr rfl
theorem xori : ∀ x0 x1 x2, Statement (.xori x0 x1 x2) := fun _ _ _ => .inr rfl
theorem slti : ∀ x0 x1 x2, Statement (.slti x0 x1 x2) := fun _ _ _ => .inr rfl
theorem sltni : ∀ x0 x1 x2, Statement (.sltni x0 x1 x2) := fun _ _ _ => .inr rfl
theorem shli : ∀ x0 x1 x2, Statement (.shli x0 x1 x2) := fun _ _ _ => .inr rfl
theorem shri : ∀ x0 x1 x2, Statement (.shri x0 x1 x2) := fun _ _ _ => .inr rfl
theorem srai : ∀ x0 x1 x2, Statement (.srai x0 x1 x2) := fun _ _ _ => .inr rfl
theorem rotri : ∀ x0 x1 x2, Statement (.rotri x0 x1 x2) := fun _ _ _ => .inr rfl
theorem lih : ∀ x0 x1 x2, Statement (.lih x0 x1 x2) := fun _ _ _ => .inr rfl
theorem pcadd : ∀ x0 x1, Statement (.pcadd x0 x1) := fun _ _ => .inr rfl
theorem bEq : ∀ x0 x1 x2, Statement (.bEq x0 x1 x2) := fun _ _ _ => .inr rfl
theorem bNe : ∀ x0 x1 x2, Statement (.bNe x0 x1 x2) := fun _ _ _ => .inr rfl
theorem bLt : ∀ x0 x1 x2, Statement (.bLt x0 x1 x2) := fun _ _ _ => .inr rfl
theorem bGe : ∀ x0 x1 x2, Statement (.bGe x0 x1 x2) := fun _ _ _ => .inr rfl
theorem bLtn : ∀ x0 x1 x2, Statement (.bLtn x0 x1 x2) := fun _ _ _ => .inr rfl
theorem bGen : ∀ x0 x1 x2, Statement (.bGen x0 x1 x2) := fun _ _ _ => .inr rfl
theorem jal : ∀ x0, Statement (.jal x0) := fun _ => .inr rfl
theorem jmp : ∀ x0, Statement (.jmp x0) := fun _ => .inr rfl
theorem jalr : ∀ x0 x1 x2, Statement (.jalr x0 x1 x2) := fun _ _ _ => .inr rfl
theorem ldB : ∀ x0 x1 x2 x3, Statement (.ldB x0 x1 x2 x3) := fun _ _ _ _ => .inr rfl
theorem ldH : ∀ x0 x1 x2 x3, Statement (.ldH x0 x1 x2 x3) := fun _ _ _ _ => .inr rfl
theorem ldW : ∀ x0 x1 x2 x3, Statement (.ldW x0 x1 x2 x3) := fun _ _ _ _ => .inr rfl
theorem ldBn : ∀ x0 x1 x2 x3, Statement (.ldBn x0 x1 x2 x3) := fun _ _ _ _ => .inr rfl
theorem ldHn : ∀ x0 x1 x2 x3, Statement (.ldHn x0 x1 x2 x3) := fun _ _ _ _ => .inr rfl
theorem ldWn : ∀ x0 x1 x2 x3, Statement (.ldWn x0 x1 x2 x3) := fun _ _ _ _ => .inr rfl
theorem ldD : ∀ x0 x1 x2 x3, Statement (.ldD x0 x1 x2 x3) := fun _ _ _ _ => .inr rfl
theorem stB : ∀ x0 x1 x2 x3, Statement (.stB x0 x1 x2 x3) := fun _ _ _ _ => .inr rfl
theorem stH : ∀ x0 x1 x2 x3, Statement (.stH x0 x1 x2 x3) := fun _ _ _ _ => .inr rfl
theorem stW : ∀ x0 x1 x2 x3, Statement (.stW x0 x1 x2 x3) := fun _ _ _ _ => .inr rfl
theorem stD : ∀ x0 x1 x2 x3, Statement (.stD x0 x1 x2 x3) := fun _ _ _ _ => .inr rfl
theorem crd : ∀ x0 x1, Statement (.crd x0 x1) := fun _ _ => .inr rfl
theorem cwr : ∀ x0 x1, Statement (.cwr x0 x1) := fun _ _ => .inr rfl
theorem crs : ∀ x0 x1 x2, Statement (.crs x0 x1 x2) := fun _ _ _ => .inr rfl
theorem crc : ∀ x0 x1 x2, Statement (.crc x0 x1 x2) := fun _ _ _ => .inr rfl
theorem vsetvl : ∀ x0 x1 x2, Statement (.vsetvl x0 x1 x2) := fun _ _ _ => .inr rfl
theorem vcfg : ∀ x0 x1, Statement (.vcfg x0 x1) := fun _ _ => .inr rfl
theorem amoAdd : ∀ x0 x1 x2 x3, Statement (.amoAdd x0 x1 x2 x3) := fun _ _ _ _ => .inr rfl
theorem amoAnd : ∀ x0 x1 x2 x3, Statement (.amoAnd x0 x1 x2 x3) := fun _ _ _ _ => .inr rfl
theorem amoOr : ∀ x0 x1 x2 x3, Statement (.amoOr x0 x1 x2 x3) := fun _ _ _ _ => .inr rfl
theorem amoXor : ∀ x0 x1 x2 x3, Statement (.amoXor x0 x1 x2 x3) := fun _ _ _ _ => .inr rfl
theorem amoMin : ∀ x0 x1 x2 x3, Statement (.amoMin x0 x1 x2 x3) := fun _ _ _ _ => .inr rfl
theorem amoMax : ∀ x0 x1 x2 x3, Statement (.amoMax x0 x1 x2 x3) := fun _ _ _ _ => .inr rfl
theorem amoMinn : ∀ x0 x1 x2 x3, Statement (.amoMinn x0 x1 x2 x3) := fun _ _ _ _ => .inr rfl
theorem amoMaxn : ∀ x0 x1 x2 x3, Statement (.amoMaxn x0 x1 x2 x3) := fun _ _ _ _ => .inr rfl
theorem amoSwap : ∀ x0 x1 x2 x3, Statement (.amoSwap x0 x1 x2 x3) := fun _ _ _ _ => .inr rfl
theorem amoCas : ∀ x0 x1 x2 x3, Statement (.amoCas x0 x1 x2 x3) := fun _ _ _ _ => .inr rfl
theorem join : ∀ x0, Statement (.join x0) := fun _ => .inr rfl
theorem leave : ∀ x0, Statement (.leave x0) := fun _ => .inr rfl
theorem grank : ∀ x0 x1, Statement (.grank x0 x1) := fun _ _ => .inr rfl
theorem step : ∀ x0, Statement (.step x0) := fun _ => .inr rfl
theorem pbind : ∀ x0 x1, Statement (.pbind x0 x1) := fun _ _ => .inr rfl
theorem punbind : ∀ x0, Statement (.punbind x0) := fun _ => .inr rfl
theorem bar : ∀ x0 x1, Statement (.bar x0 x1) := fun _ _ => .inr rfl
theorem bara : ∀ x0 x1, Statement (.bara x0 x1) := fun _ _ => .inr rfl
theorem barw : ∀ x0, Statement (.barw x0) := fun _ => .inr rfl
theorem gbar : ∀ x0, Statement (.gbar x0) := fun _ => .inr rfl
theorem fenceC : ∀ x0 x1, Statement (.fenceC x0 x1) := fun _ _ => .inr rfl
theorem forkM : ∀ x0 x1, Statement (.forkM x0 x1) := fun _ _ => .inr rfl
theorem forkC : ∀ x0 x1, Statement (.forkC x0 x1) := fun _ _ => .inr rfl
theorem forkH : ∀ x0 x1 x2, Statement (.forkH x0 x1 x2) := fun _ _ _ => .inr rfl
theorem sbind : ∀ x0 x1 x2, Statement (.sbind x0 x1 x2) := fun _ _ _ => .inr rfl
theorem scpy : ∀ x0 x1 x2, Statement (.scpy x0 x1 x2) := fun _ _ _ => .inr rfl
theorem swait : ∀ x0, Statement (.swait x0) := fun _ => .inr rfl
theorem scancel : ∀ x0, Statement (.scancel x0) := fun _ => .inr rfl
theorem squery : ∀ x0 x1, Statement (.squery x0 x1) := fun _ _ => .inr rfl
theorem scpySeg : ∀ x0 x1 x2, Statement (.scpySeg x0 x1 x2) := fun _ _ _ => .inr rfl
theorem qdesc : ∀ x0 x1 x2, Statement (.qdesc x0 x1 x2) := fun _ _ _ => .inr rfl
theorem creloc : ∀ x0 x1, Statement (.creloc x0 x1) := fun _ _ => .inr rfl
theorem xlook : ∀ x0 x1, Statement (.xlook x0 x1) := fun _ _ => .inr rfl
theorem xpark : ∀ x0 x1 x2, Statement (.xpark x0 x1 x2) := fun _ _ _ => .inr rfl
theorem xwake : ∀ x0 x1, Statement (.xwake x0 x1) := fun _ _ => .inr rfl
theorem xlayer : ∀ x0, Statement (.xlayer x0) := fun _ => .inr rfl
theorem xrepl : ∀ x0 x1, Statement (.xrepl x0 x1) := fun _ _ => .inr rfl
theorem xhint : ∀ x0 x1, Statement (.xhint x0 x1) := fun _ _ => .inr rfl
theorem mldW : ∀ x0 x1, Statement (.mldW x0 x1) := fun _ _ => .inr rfl
theorem mldA : ∀ x0 x1, Statement (.mldA x0 x1) := fun _ _ => .inr rfl
theorem mma : ∀ x0 x1 x2, Statement (.mma x0 x1 x2) := fun _ _ _ => .inr rfl
theorem mzero : ∀ x0, Statement (.mzero x0) := fun _ => .inr rfl
theorem mst : ∀ x0 x1, Statement (.mst x0 x1) := fun _ _ => .inr rfl
theorem mcfg : ∀ x0, Statement (.mcfg x0) := fun _ => .inr rfl
theorem mscale : ∀ x0 x1, Statement (.mscale x0 x1) := fun _ _ => .inr rfl
theorem trap : ∀ x0, Statement (.trap x0) := fun _ => .inr rfl
theorem tlbinv : ∀ x0, Statement (.tlbinv x0) := fun _ => .inr rfl
theorem ctxsave : ∀ x0, Statement (.ctxsave x0) := fun _ => .inr rfl
theorem ctxload : ∀ x0, Statement (.ctxload x0) := fun _ => .inr rfl
theorem logmark : ∀ x0, Statement (.logmark x0) := fun _ => .inr rfl
theorem klaunch : ∀ x0 x1, Statement (.klaunch x0 x1) := fun _ _ => .inr rfl
theorem kwait : ∀ x0, Statement (.kwait x0) := fun _ => .inr rfl
theorem kkill : ∀ x0, Statement (.kkill x0) := fun _ => .inr rfl
theorem kprio : ∀ x0 x1, Statement (.kprio x0 x1) := fun _ _ => .inr rfl
theorem waitm : ∀ x0 x1 x2 x3, Statement (.waitm x0 x1 x2 x3) := fun _ _ _ _ => .inr rfl
theorem vf : ∀ x0, Statement (.vf x0) := fun _ => .inr rfl
theorem vaddFp : ∀ x0 x1, Statement (.vaddFp x0 x1) := fun _ _ => .inl rfl
theorem vsubFp : ∀ x0 x1, Statement (.vsubFp x0 x1) := fun _ _ => .inl rfl
theorem vmulFp : ∀ x0 x1, Statement (.vmulFp x0 x1) := fun _ _ => .inl rfl
theorem vfma : ∀ x0 x1, Statement (.vfma x0 x1) := fun _ _ => .inl rfl
theorem vfms : ∀ x0 x1, Statement (.vfms x0 x1) := fun _ _ => .inl rfl
theorem vfnma : ∀ x0 x1, Statement (.vfnma x0 x1) := fun _ _ => .inl rfl
theorem vdiv : ∀ x0 x1, Statement (.vdiv x0 x1) := fun _ _ => .inl rfl
theorem vsqrt : ∀ x0 x1, Statement (.vsqrt x0 x1) := fun _ _ => .inl rfl
theorem vminFp : ∀ x0 x1, Statement (.vminFp x0 x1) := fun _ _ => .inl rfl
theorem vmaxFp : ∀ x0 x1, Statement (.vmaxFp x0 x1) := fun _ _ => .inl rfl
theorem vabs : ∀ x0 x1, Statement (.vabs x0 x1) := fun _ _ => .inl rfl
theorem vneg : ∀ x0 x1, Statement (.vneg x0 x1) := fun _ _ => .inl rfl
theorem vcopysign : ∀ x0 x1, Statement (.vcopysign x0 x1) := fun _ _ => .inl rfl
theorem vexp2 : ∀ x0, Statement (.vexp2 x0) := fun _ => .inl rfl
theorem vlog2 : ∀ x0, Statement (.vlog2 x0) := fun _ => .inl rfl
theorem vrcp : ∀ x0, Statement (.vrcp x0) := fun _ => .inl rfl
theorem vrsqrt : ∀ x0, Statement (.vrsqrt x0) := fun _ => .inl rfl
theorem vtanh : ∀ x0, Statement (.vtanh x0) := fun _ => .inl rfl
theorem vcvtBf16F32 : ∀ x0, Statement (.vcvtBf16F32 x0) := fun _ => .inl rfl
theorem vcvtF32I32 : ∀ x0, Statement (.vcvtF32I32 x0) := fun _ => .inl rfl
theorem vcvtI32F32 : ∀ x0, Statement (.vcvtI32F32 x0) := fun _ => .inl rfl
theorem vcvtF32N32 : ∀ x0, Statement (.vcvtF32N32 x0) := fun _ => .inl rfl
theorem vcvtN32F32 : ∀ x0, Statement (.vcvtN32F32 x0) := fun _ => .inl rfl
theorem vround : ∀ x0, Statement (.vround x0) := fun _ => .inl rfl
theorem vclass : ∀ x0, Statement (.vclass x0) := fun _ => .inl rfl
theorem vaddI32 : ∀ x0, Statement (.vaddI32 x0) := fun _ => .inl rfl
theorem vsubI32 : ∀ x0, Statement (.vsubI32 x0) := fun _ => .inl rfl
theorem vmulI32 : ∀ x0, Statement (.vmulI32 x0) := fun _ => .inl rfl
theorem vmulh : ∀ x0, Statement (.vmulh x0) := fun _ => .inl rfl
theorem vmulhn : ∀ x0, Statement (.vmulhn x0) := fun _ => .inl rfl
theorem vand : ∀ x0, Statement (.vand x0) := fun _ => .inl rfl
theorem vor : ∀ x0, Statement (.vor x0) := fun _ => .inl rfl
theorem vxor : ∀ x0, Statement (.vxor x0) := fun _ => .inl rfl
theorem vshl : ∀ x0, Statement (.vshl x0) := fun _ => .inl rfl
theorem vshr : ∀ x0, Statement (.vshr x0) := fun _ => .inl rfl
theorem vsra : ∀ x0, Statement (.vsra x0) := fun _ => .inl rfl
theorem vminI32 : ∀ x0, Statement (.vminI32 x0) := fun _ => .inl rfl
theorem vmaxI32 : ∀ x0, Statement (.vmaxI32 x0) := fun _ => .inl rfl
theorem vminn : ∀ x0, Statement (.vminn x0) := fun _ => .inl rfl
theorem vmaxn : ∀ x0, Statement (.vmaxn x0) := fun _ => .inl rfl
theorem vaddi : ∀ x0, Statement (.vaddi x0) := fun _ => .inl rfl
theorem vandi : ∀ x0, Statement (.vandi x0) := fun _ => .inl rfl
theorem vori : ∀ x0, Statement (.vori x0) := fun _ => .inl rfl
theorem vxori : ∀ x0, Statement (.vxori x0) := fun _ => .inl rfl
theorem vshli : ∀ x0, Statement (.vshli x0) := fun _ => .inl rfl
theorem vshri : ∀ x0, Statement (.vshri x0) := fun _ => .inl rfl
theorem vsrai : ∀ x0, Statement (.vsrai x0) := fun _ => .inl rfl
theorem vcmp : ∀ x0 x1 x2, Statement (.vcmp x0 x1 x2) := fun _ _ _ => .inl rfl
theorem mand : ∀ x0, Statement (.mand x0) := fun _ => .inl rfl
theorem mor : ∀ x0, Statement (.mor x0) := fun _ => .inl rfl
theorem mxor : ∀ x0, Statement (.mxor x0) := fun _ => .inl rfl
theorem mandn : ∀ x0, Statement (.mandn x0) := fun _ => .inl rfl
theorem mnot : ∀ x0, Statement (.mnot x0) := fun _ => .inl rfl
theorem mset : ∀ x0, Statement (.mset x0) := fun _ => .inl rfl
theorem mclr : ∀ x0, Statement (.mclr x0) := fun _ => .inl rfl
theorem mpop : ∀ x0, Statement (.mpop x0) := fun _ => .inl rfl
theorem mfirst : ∀ x0, Statement (.mfirst x0) := fun _ => .inl rfl
theorem mlist : ∀ x0, Statement (.mlist x0) := fun _ => .inl rfl
theorem mfromv : ∀ x0, Statement (.mfromv x0) := fun _ => .inl rfl
theorem mtov : ∀ x0, Statement (.mtov x0) := fun _ => .inl rfl
theorem vcompress : ∀ x0, Statement (.vcompress x0) := fun _ => .inl rfl
theorem vexpand : ∀ x0, Statement (.vexpand x0) := fun _ => .inl rfl
theorem vperm : ∀ x0, Statement (.vperm x0) := fun _ => .inl rfl
theorem vslideup : ∀ x0, Statement (.vslideup x0) := fun _ => .inl rfl
theorem vslidedn : ∀ x0, Statement (.vslidedn x0) := fun _ => .inl rfl
theorem vbcast : ∀ x0, Statement (.vbcast x0) := fun _ => .inl rfl
theorem vid : ∀ x0, Statement (.vid x0) := fun _ => .inl rfl
theorem vmv : ∀ x0, Statement (.vmv x0) := fun _ => .inl rfl
theorem vsel : ∀ x0, Statement (.vsel x0) := fun _ => .inl rfl
theorem vredsumF32 : ∀ x0, Statement (.vredsumF32 x0) := fun _ => .inl rfl
theorem vredsumBf16 : ∀ x0, Statement (.vredsumBf16 x0) := fun _ => .inl rfl
theorem vredmax : ∀ x0, Statement (.vredmax x0) := fun _ => .inl rfl
theorem vredmin : ∀ x0, Statement (.vredmin x0) := fun _ => .inl rfl
theorem vredsumI32 : ∀ x0, Statement (.vredsumI32 x0) := fun _ => .inl rfl
theorem vredsumb : ∀ x0, Statement (.vredsumb x0) := fun _ => .inl rfl
theorem vscanF32 : ∀ x0, Statement (.vscanF32 x0) := fun _ => .inl rfl
theorem vredmaxi : ∀ x0, Statement (.vredmaxi x0) := fun _ => .inl rfl
theorem vmergek : ∀ x0, Statement (.vmergek x0) := fun _ => .inl rfl
theorem vtopk : ∀ x0, Statement (.vtopk x0) := fun _ => .inl rfl
theorem xcount : ∀ x0, Statement (.xcount x0) := fun _ => .inl rfl
theorem xcsel : ∀ x0, Statement (.xcsel x0) := fun _ => .inl rfl
theorem vld : ∀ x0, Statement (.vld x0) := fun _ => .inl rfl
theorem vst : ∀ x0, Statement (.vst x0) := fun _ => .inl rfl
theorem vlds : ∀ x0, Statement (.vlds x0) := fun _ => .inl rfl
theorem vsts : ∀ x0, Statement (.vsts x0) := fun _ => .inl rfl
theorem vldx : ∀ x0, Statement (.vldx x0) := fun _ => .inl rfl
theorem vstx : ∀ x0, Statement (.vstx x0) := fun _ => .inl rfl
theorem vldff : ∀ x0, Statement (.vldff x0) := fun _ => .inl rfl
theorem vldseg : ∀ x0, Statement (.vldseg x0) := fun _ => .inl rfl
theorem vappend : ∀ x0, Statement (.vappend x0) := fun _ => .inl rfl
theorem mdrain : ∀ x0, Statement (.mdrain x0) := fun _ => .inl rfl
theorem mfill : ∀ x0, Statement (.mfill x0) := fun _ => .inl rfl
theorem vamoAdd : ∀ x0 x1, Statement (.vamoAdd x0 x1) := fun _ _ => .inl rfl
theorem vamoAnd : ∀ x0 x1, Statement (.vamoAnd x0 x1) := fun _ _ => .inl rfl
theorem vamoOr : ∀ x0 x1, Statement (.vamoOr x0 x1) := fun _ _ => .inl rfl
theorem vamoXor : ∀ x0 x1, Statement (.vamoXor x0 x1) := fun _ _ => .inl rfl
theorem vamoMin : ∀ x0 x1, Statement (.vamoMin x0 x1) := fun _ _ => .inl rfl
theorem vamoMax : ∀ x0 x1, Statement (.vamoMax x0 x1) := fun _ _ => .inl rfl
theorem vamoMinn : ∀ x0 x1, Statement (.vamoMinn x0 x1) := fun _ _ => .inl rfl
theorem vamoMaxn : ∀ x0 x1, Statement (.vamoMaxn x0 x1) := fun _ _ => .inl rfl
theorem vamoSwap : ∀ x0 x1, Statement (.vamoSwap x0 x1) := fun _ _ => .inl rfl
theorem cadd : ∀ x0, Statement (.cadd x0) := fun _ => .inl rfl
theorem vpref : ∀ x0, Statement (.vpref x0) := fun _ => .inl rfl
theorem qdot : ∀ x0, Statement (.qdot x0) := fun _ => .inl rfl
theorem qwsum : ∀ x0, Statement (.qwsum x0) := fun _ => .inl rfl
theorem qfsum : ∀ x0, Statement (.qfsum x0) := fun _ => .inl rfl
theorem qmaxi : ∀ x0, Statement (.qmaxi x0) := fun _ => .inl rfl
theorem qtopk : ∀ x0, Statement (.qtopk x0) := fun _ => .inl rfl
theorem qhist : ∀ x0, Statement (.qhist x0) := fun _ => .inl rfl
theorem vsync : Statement .vsync := .inr rfl
theorem rdvM : Statement .rdvM := .inr rfl
theorem rdvC : Statement .rdvC := .inr rfl
theorem rdvMc : Statement .rdvMc := .inr rfl
theorem halt : Statement .halt := .inr rfl
theorem mwait : Statement .mwait := .inr rfl
theorem eret : Statement .eret := .inr rfl
theorem brk : Statement .brk := .inr rfl
theorem vstop : Statement .vstop := .inl rfl
theorem convoyIssue : ∀ x0, Statement (.convoyIssue x0) := fun _ => .inl rfl
theorem queryReply : ∀ x0, Statement (.queryReply x0) := fun _ => .inl rfl
theorem waitmWake : ∀ x0, Statement (.waitmWake x0) := fun _ => .inl rfl
theorem regrant : ∀ x0, Statement (.regrant x0) := fun _ => .inl rfl
theorem priorityAging : Statement .priorityAging := .inl rfl
theorem budgetExceeded : ∀ x0 x1, Statement (.budgetExceeded x0 x1) := fun _ _ => .inl rfl
theorem intervalDigest : ∀ x0, Statement (.intervalDigest x0) := fun _ => .inl rfl
theorem dbgSample : ∀ x0, Statement (.dbgSample x0) := fun _ => .inl rfl
theorem retentionEntry : ∀ x0 x1, Statement (.retentionEntry x0 x1) := fun _ _ => .inl rfl
theorem hartPlacement : Statement .hartPlacement := .inl rfl
theorem scoreboardAdmit : ∀ x0, Statement (.scoreboardAdmit x0) := fun _ => .inl rfl
theorem inputTransferComplete : ∀ x0 x1 x2, Statement (.inputTransferComplete x0 x1 x2) := fun _ _ _ => .inl rfl
theorem kernelReady : ∀ x0 x1, Statement (.kernelReady x0 x1) := fun _ _ => .inl rfl
theorem clockModeChange : Statement .clockModeChange := .inl rfl
theorem matrixProgramStart : ∀ x0, Statement (.matrixProgramStart x0) := fun _ => .inl rfl
theorem copyProgramStart : ∀ x0, Statement (.copyProgramStart x0) := fun _ => .inl rfl
theorem matrixOperationStart : ∀ x0 x1, Statement (.matrixOperationStart x0 x1) := fun _ _ => .inl rfl
theorem rowFinal : ∀ x0, Statement (.rowFinal x0) := fun _ => .inl rfl
theorem matrixOperationComplete : ∀ x0 x1, Statement (.matrixOperationComplete x0 x1) := fun _ _ => .inl rfl
theorem copyStart : ∀ x0 x1, Statement (.copyStart x0 x1) := fun _ _ => .inl rfl
theorem copyComplete : ∀ x0 x1, Statement (.copyComplete x0 x1) := fun _ _ => .inl rfl
theorem copyFail : ∀ x0 x1, Statement (.copyFail x0 x1) := fun _ _ => .inl rfl
theorem readStreamFetch : ∀ x0 x1, Statement (.readStreamFetch x0 x1) := fun _ _ => .inl rfl
theorem writeStreamPerform : ∀ x0 x1, Statement (.writeStreamPerform x0 x1) := fun _ _ => .inl rfl
theorem expertFetchStart : ∀ x0 x1, Statement (.expertFetchStart x0 x1) := fun _ _ => .inl rfl
theorem expertFetchComplete : ∀ x0 x1, Statement (.expertFetchComplete x0 x1) := fun _ _ => .inl rfl
theorem replicaFill : ∀ x0 x1 x2, Statement (.replicaFill x0 x1 x2) := fun _ _ _ => .inl rfl
theorem tierPageIn : ∀ x0 x1, Statement (.tierPageIn x0 x1) := fun _ _ => .inl rfl
theorem tierPageOut : ∀ x0 x1, Statement (.tierPageOut x0 x1) := fun _ _ => .inl rfl
theorem cellarMove : ∀ x0 x1, Statement (.cellarMove x0 x1) := fun _ _ => .inl rfl
theorem zeroFrame : ∀ x0 x1, Statement (.zeroFrame x0 x1) := fun _ _ => .inl rfl
theorem tierCommandDone : ∀ x0 x1, Statement (.tierCommandDone x0 x1) := fun _ _ => .inl rfl
theorem contextFault : ∀ x0 x1 x2 x3, Statement (.contextFault x0 x1 x2 x3) := fun _ _ _ _ => .inl rfl
theorem discardComplete : ∀ x0, Statement (.discardComplete x0) := fun _ => .inl rfl
theorem registerWrite : ∀ x0 x1, Statement (.registerWrite x0 x1) := fun _ _ => .inl rfl
theorem srseedWrite : ∀ x0, Statement (.srseedWrite x0) := fun _ => .inl rfl
theorem fflagsWrite : ∀ x0, Statement (.fflagsWrite x0) := fun _ => .inl rfl
theorem ctxcmdOpen : ∀ x0, Statement (.ctxcmdOpen x0) := fun _ => .inl rfl
theorem ctxcmdClose : ∀ x0, Statement (.ctxcmdClose x0) := fun _ => .inl rfl
theorem ctxcmdReopen : ∀ x0, Statement (.ctxcmdReopen x0) := fun _ => .inl rfl
theorem lpbaseWrite : ∀ x0, Statement (.lpbaseWrite x0) := fun _ => .inl rfl
theorem lplimitWrite : ∀ x0 x1, Statement (.lplimitWrite x0 x1) := fun _ _ => .inl rfl
theorem kcinv : ∀ x0, Statement (.kcinv x0) := fun _ => .inl rfl
theorem clkmodeWrite : ∀ x0, Statement (.clkmodeWrite x0) := fun _ => .inl rfl
theorem pgwake : ∀ x0, Statement (.pgwake x0) := fun _ => .inl rfl
theorem xe0Pin : ∀ x0 x1, Statement (.xe0Pin x0 x1) := fun _ _ => .inl rfl
theorem xe0Unpin : ∀ x0 x1, Statement (.xe0Unpin x0 x1) := fun _ _ => .inl rfl
theorem xe0Evict : ∀ x0 x1, Statement (.xe0Evict x0 x1) := fun _ _ => .inl rfl
theorem xe3Stage : ∀ x0, Statement (.xe3Stage x0) := fun _ => .inl rfl
theorem sltWrite : ∀ x0 x1, Statement (.sltWrite x0 x1) := fun _ _ => .inl rfl
theorem sltTurnApply : ∀ x0 x1, Statement (.sltTurnApply x0 x1) := fun _ _ => .inl rfl
theorem bdctlRestart : ∀ x0, Statement (.bdctlRestart x0) := fun _ => .inl rfl
theorem errlogClear : ∀ x0, Statement (.errlogClear x0) := fun _ => .inl rfl
theorem dbghalt : ∀ x0, Statement (.dbghalt x0) := fun _ => .inl rfl
theorem mboxNop : ∀ x0, Statement (.mboxNop x0) := fun _ => .inl rfl
theorem mboxReadDebug : ∀ x0, Statement (.mboxReadDebug x0) := fun _ => .inl rfl
theorem mboxWriteDebug : ∀ x0, Statement (.mboxWriteDebug x0) := fun _ => .inl rfl
theorem mboxReadMonitor : ∀ x0, Statement (.mboxReadMonitor x0) := fun _ => .inl rfl
theorem mboxWriteMonitor : ∀ x0, Statement (.mboxWriteMonitor x0) := fun _ => .inl rfl
theorem mboxReadStage : ∀ x0, Statement (.mboxReadStage x0) := fun _ => .inl rfl
theorem heartbeat : ∀ x0 x1, Statement (.heartbeat x0 x1) := fun _ _ => .inl rfl
theorem refresh : ∀ x0, Statement (.refresh x0) := fun _ => .inl rfl
theorem fallbackTakeover : ∀ x0, Statement (.fallbackTakeover x0) := fun _ => .inl rfl
theorem refreshHandback : ∀ x0, Statement (.refreshHandback x0) := fun _ => .inl rfl
theorem subarrayClose : ∀ x0 x1 x2, Statement (.subarrayClose x0 x1 x2) := fun _ _ _ => .inl rfl
theorem activationAlert : ∀ x0 x1 x2 x3, Statement (.activationAlert x0 x1 x2 x3) := fun _ _ _ _ => .inl rfl
theorem throttleEnd : ∀ x0 x1, Statement (.throttleEnd x0 x1) := fun _ _ => .inl rfl
theorem scrub : ∀ x0 x1, Statement (.scrub x0 x1) := fun _ _ => .inl rfl
theorem clockLower : Statement .clockLower := .inl rfl
theorem clockRaise : Statement .clockRaise := .inl rfl
theorem heatBreak : Statement .heatBreak := .inl rfl
theorem thermalTrip : Statement .thermalTrip := .inl rfl
theorem boot : Statement .boot := .inl rfl
theorem flitReceive : ∀ x0 x1, Statement (.flitReceive x0 x1) := fun _ _ => .inl rfl
theorem linkDown : ∀ x0, Statement (.linkDown x0) := fun _ => .inl rfl
theorem tierLinkLoss : ∀ x0, Statement (.tierLinkLoss x0) := fun _ => .inl rfl
theorem hostMemAccess : ∀ x0 x1, Statement (.hostMemAccess x0 x1) := fun _ _ => .inl rfl
theorem getVersion : ∀ x0, Statement (.getVersion x0) := fun _ => .inl rfl
theorem getCapabilities : ∀ x0, Statement (.getCapabilities x0) := fun _ => .inl rfl
theorem negotiateAlgorithms : ∀ x0, Statement (.negotiateAlgorithms x0) := fun _ => .inl rfl
theorem getDigests : ∀ x0, Statement (.getDigests x0) := fun _ => .inl rfl
theorem getCertificate : ∀ x0, Statement (.getCertificate x0) := fun _ => .inl rfl
theorem challenge : ∀ x0, Statement (.challenge x0) := fun _ => .inl rfl
theorem getMeasurements : ∀ x0, Statement (.getMeasurements x0) := fun _ => .inl rfl
theorem illegalInstruction : Statement .illegalInstruction := .inl rfl
theorem instructionFetchFault : ∀ x0 x1, Statement (.instructionFetchFault x0 x1) := fun _ _ => .inl rfl
theorem kernelKillComplete : ∀ x0 x1, Statement (.kernelKillComplete x0 x1) := fun _ _ => .inl rfl
theorem fqctlWrite : ∀ x0 x1, Statement (.fqctlWrite x0 x1) := fun _ _ => .inl rfl

end Sys2Proof.Laws.OneWordSize
end

