-- ==== Sys2Proof/Laws/Vector.lean ====
section
/-! SUPPORT. What a vector word that is a convoy of its own can do: its issue, its elements, its completion; and all that an element-wise
word leaves. -/
namespace Sys2Proof.Machine

/-- A convoy of one word reads nothing early. -/
theorem VC.fetchAhead_single (k : VC) (m : Sem × VW) (i : Nat) : k.fetchAhead [m] i = k := by
  have : Convoy.accesses [m] < 2 := by
    unfold Convoy.accesses
    have := List.length_filter_le (fun m : Sem × VW => m.1.use.readsMem || m.1.use.writesMem) [m]
    simp only [List.length_singleton] at this; omega
  unfold VC.fetchAhead; rw [if_pos this]

/-- A word at the front of the hart on turn whose checks pass issues and runs its elements as one convoy. -/
theorem State.vectorWord_run {s : State} {slot : Nat} {h : Hart} {b : Block} {rest : List Block} {m : Sem} {n : Nat}
    (at' : s.AtWord slot h b rest) (hc : (s.convoyAt slot h b).check [] m b.place = .ok n) (hq : m.use.query = false ∨ n ≠ 0) :
    s.vectorWord m =
      ((s.convoyAt slot h b).begun m ((s.convoyAt slot h b).accepted m b.place n)).runConvoy
        (b.issue (s.convoyAt slot h b) [(m, (s.convoyAt slot h b).accepted m b.place n)])
        [(m, (s.convoyAt slot h b).accepted m b.place n)] (b.pc + 8) none := by
  obtain ⟨h1, h2, h3, ⟨h4, -⟩, h6, h7, -, -, -⟩ := at'
  have hc' : (VC.check ⟨s, slot, h, [], b.sent, [], h⟩ [] m ⟨0, b.seq, b.pc, b.env, b.env.vl, b.elem, false, false, [], [], []⟩) = .ok n := hc
  have hn : (m.use.query && decide (n = 0)) = false := by rcases hq with e | e <;> simp [e]
  simp only [State.vectorWord, h1, h2, h3, State.convoy, State.convoyUpTo, h6, h4, VC.issueAll, needsEarlier, List.any_nil, List.length_nil,
    Bool.false_eq_true, ↓reduceIte, hc', List.nil_append, VC.begin, VC.emptyQuery, hn, State.traceConvoy, h7, Bool.false_and, List.getLast?_singleton,
    Option.map_some, Option.getD_some, State.convoyAt, Block.place, namedLater, List.flatMap_nil, List.flatMap_cons, List.append_nil, VC.accepted,
    VC.begun, VC.begunAll, State.keptPins]

/-- The elements of a convoy of one word, by an invariant of the elements. -/
theorem Convoy.run_single {m : Sem} {w : VW} {P : Nat → VC → Prop} {k : VC} (hP : P w.start k)
    (step : ∀ i k, w.start ≤ i → i < w.vl → P i k → ∃ k', k.element (m, w) i = .ok k' ∧ P (i + 1) k') :
    ∃ k', P (max w.start w.vl) k' ∧ Convoy.run [(m, w)] w.start k = .done (if 0 < w.vl then m.finish k' w else k') := by
  have go : ∀ n i base at' k, w.start ≤ i → i + n = max w.start w.vl → P i k →
      ∃ k', P (max w.start w.vl) k' ∧ fronts [(m, w)] n i base at' k = .done (if 0 < w.vl then m.finish k' w else k') := by
    intro n
    induction n with
    | zero =>
      intro i base at' k h1 h2 h3
      exact ⟨k, by simpa [← h2] using h3, by simp [fronts]⟩
    | succ n ih =>
      intro i base at' k h1 h2 h3
      have hi : i < w.vl := by omega
      obtain ⟨k', e, p⟩ := step i k h1 hi h3
      obtain ⟨k2, p2, r2⟩ := ih (i + 1) (if [(m, w)].all (fun m => m.1.piece k m.2 i) then k else base)
        (if [(m, w)].all (fun m => m.1.piece k m.2 i) then i else at') k' (by omega) (by omega) p
      refine ⟨k2, p2, ?_⟩
      rw [← r2]
      simp only [fronts, front, List.foldlM_cons, List.foldlM_nil, hi, h1, decide_true, Bool.and_self, if_true, e]
      rfl
  have top : Convoy.top [(m, w)] = w.vl := by simp [Convoy.top]
  unfold Convoy.run
  rw [top]
  exact go _ _ _ _ _ (Nat.le_refl _) (by omega) hP

/-- An element of a word whose registers are in no error is its own part's. -/
theorem VC.element_sound {k k' : VC} {m : Sem} {w : VW} {i : Nat} (h : ∀ r e, k.st.badIn (vregKey k.slot (elemKey r e)) 4 = none)
    (e : m.elem (k.spendElem w m.mask m.times i) w i = .ok k') :
    k.element (m, w) i = .ok k' := by
  have : k.badSource m.use i = none := by
    unfold VC.badSource
    split
    · rfl
    · rw [List.findSome?_eq_none_iff]
      intro r _
      cases r <;> simp [h]
  unfold VC.element; simp only [this, e]

/-- Flags reach no program where none waits behind the block. -/
theorem State.raiseForks_begun {s : State} {slot seq : Nat} (h : s.forksBegun slot seq) (fl : Flags) : s.raiseForks slot seq fl = s := by
  unfold State.raiseForks
  split
  · rfl
  · have e1 : (s.cluster (slotCluster slot)).mcc.map (fun m => if m.slot == slot && !m.begun && decide (seq < m.after)
        then { m with sc := { m.sc with fflags := orFlags m.sc.fflags fl } } else m) = (s.cluster (slotCluster slot)).mcc := by
      cases hm : (s.cluster (slotCluster slot)).mcc with
      | none => rfl
      | some m =>
        simp only [Option.map_some, Option.some.injEq]
        rw [if_neg]
        simp only [Bool.and_eq_true, beq_iff_eq, Bool.not_eq_true', decide_eq_true_eq, not_and]
        intro ⟨a, c⟩ d
        rcases h m hm a with e | e
        · rw [e] at c; exact absurd c (by simp)
        · omega
    simp only [e1, if_true]

/-! ### Full and empty registers -/

/-- The full/empty bits that a list of registers names. -/
def vBits : List RegId → BitVec 64
  | [] => 0
  | .v n :: t => ((1 : BitVec 64) <<< n) ||| vBits t
  | _ :: t => vBits t

def sBits : List RegId → BitVec 16
  | [] => 0
  | .s n :: t => ((1 : BitVec 16) <<< (n - 16)) ||| sBits t
  | _ :: t => sBits t

theorem and_not_or {w : Nat} (f a c : BitVec w) : f &&& ~~~a &&& ~~~c = f &&& ~~~(a ||| c) := by
  apply BitVec.eq_of_getLsbD_eq; intro i hi; simp [hi, Bool.and_assoc]

theorem and_not_zero {w : Nat} (f : BitVec w) : f &&& ~~~0 = f := by
  apply BitVec.eq_of_getLsbD_eq; intro i hi; simp [hi]

theorem Hart.markEmpty_eq (rs : List RegId) : ∀ h : Hart,
    h.markEmpty rs = { h with full := h.full &&& ~~~vBits rs, sfull := h.sfull &&& ~~~sBits rs } := by
  induction rs with
  | nil => intro h; simp only [Hart.markEmpty, List.foldl_nil, vBits, sBits, and_not_zero]
  | cons r t ih =>
    intro h
    rw [show h.markEmpty (r :: t) = (h.markEmpty [r]).markEmpty t from rfl, ih]
    cases r <;> simp only [Hart.markEmpty, List.foldl_cons, List.foldl_nil, vBits, sBits, and_not_or]

theorem Hart.markFull_eq (rs : List RegId) : ∀ h : Hart,
    h.markFull rs = { h with full := h.full ||| vBits rs, sfull := h.sfull ||| sBits rs } := by
  induction rs with
  | nil => intro h; simp [Hart.markFull, vBits, sBits]
  | cons r t ih =>
    intro h
    rw [show h.markFull (r :: t) = (h.markFull [r]).markFull t from rfl, ih]
    cases r <;> simp only [Hart.markFull, List.foldl_cons, List.foldl_nil, vBits, sBits, BitVec.or_assoc]

theorem or_bit {w : Nat} (f : BitVec w) (n : Nat) (h : f.getLsbD n = true) : f ||| ((1 : BitVec w) <<< n) = f := by
  have one : (1 : BitVec w) <<< n = BitVec.twoPow w n := by simp [BitVec.twoPow]
  rw [one]
  apply BitVec.eq_of_getLsbD_eq; intro i hi
  rw [BitVec.getLsbD_or, BitVec.getLsbD_twoPow]
  by_cases e : n = i
  · subst e; simp [h]
  · simp [e]

/-- Registers that are full have their bits. -/
theorem Hart.full_bits (rs : List RegId) : ∀ h : Hart, (∀ r ∈ rs, h.isEmpty r = false) →
    h.full ||| vBits rs = h.full ∧ h.sfull ||| sBits rs = h.sfull := by
  induction rs with
  | nil => intro h _; simp [vBits, sBits]
  | cons r t ih =>
    intro h hr
    obtain ⟨a, c⟩ := ih h fun x hx => hr x (List.mem_cons_of_mem _ hx)
    have hd := hr r List.mem_cons_self
    cases r <;> simp only [vBits, sBits, a, c, and_self, true_and, and_true]
    · rw [← BitVec.or_assoc, or_bit, a]; simpa [Hart.isEmpty] using hd
    · rw [← BitVec.or_assoc, or_bit, c]; simpa [Hart.isEmpty] using hd

theorem or_not {w : Nat} (f a : BitVec w) (h : f ||| a = f) : (f &&& ~~~a) ||| a = f := by
  rw [← h]
  apply BitVec.eq_of_getLsbD_eq; intro i hi
  simp only [BitVec.getLsbD_or, BitVec.getLsbD_and, BitVec.getLsbD_not, hi, decide_true, Bool.true_and]
  cases f.getLsbD i <;> cases a.getLsbD i <;> rfl

/-- The checks of a word whose own checks pass, on a hart that fits it. -/
theorem VC.check_fits {k : VC} {m : Sem} {w : VW} {b : Block} {n : Nat} (fits : k.h.Fits b m.use) (he : w.env = b.env)
    (ha : m.early k w = .ok ()) (hq : m.use.query = true → k.h.queries.length < 8) (hi : m.issue k w = .ok ())
    (hr : k.pinRoom 0 (k.pinsOf m w) = true) (hp : m.probe k w = .ok n) : k.check [] m w = .ok n := by
  obtain ⟨-, -, -, below, full, -, plain, tokens⟩ := fits
  have h1 : useCause01 [] m.use w.env.nregs = false := by
    simp only [useCause01, WordUse.beyond, WordUse.queueSource, List.any_nil, Bool.or_false, Bool.or_eq_false_iff]
    constructor
    · rw [List.any_eq_false]
      intro r hr
      cases r <;> simp
      rename_i n
      rw [he]; exact below n hr
    · rw [Bool.and_eq_false_iff]; right
      rw [List.any_eq_false]
      intro r hr
      cases r <;> simp
      · exact (plain _).1 (List.mem_append_left _ hr)
      · exact (plain _).2 hr
  have tk : ∀ j, j < 8 → m.use.tokens.getLsbD j = true → (nthD Token.idle k.h.tok.toList j).state = .idle := by
    intro j hj ht
    have := tokens ⟨j, hj⟩ ht
    have e : nthD Token.idle k.h.tok.toList j = k.h.tok[j] := by
      have : ∀ (l : List Token) (j : Nat) (h : j < l.length), nthD Token.idle l j = l[j] := by
        intro l
        induction l with
        | nil => intro j h; simp at h
        | cons x t ih => intro j h; cases j with
          | zero => rfl
          | succ j => simp only [nthD, List.getElem_cons_succ]; exact ih j (by simpa using h)
      rw [this _ _ (by simpa using hj)]
      simp
    rw [e]; exact this
  have mem8 : ∀ j, j ∈ upFrom 0 8 → j < 8 := by decide
  have h2 : ((upFrom 0 8).any fun j => m.use.tokens.getLsbD j && (nthD Token.idle k.h.tok.toList j).state == .busy) = false := by
    rw [List.any_eq_false]
    intro j hj hc
    simp only [Bool.and_eq_true, beq_iff_eq] at hc
    rw [tk j (mem8 j hj) hc.1] at hc
    exact absurd hc.2 (by decide)
  have h3 : tokenTrap k.h.tok.toList m.use.tokens = none := by
    unfold tokenTrap
    have : ((upFrom 0 8).find? fun j => m.use.tokens.getLsbD j && (nthD Token.idle k.h.tok.toList j).state == .error) = none := by
      rw [List.find?_eq_none]
      intro j hj hc
      simp only [Bool.and_eq_true, beq_iff_eq] at hc
      rw [tk j (mem8 j hj) hc.1] at hc
      exact absurd hc.2 (by decide)
    rw [this]
  have h4 : k.h.unboundDst m.use = none := by
    unfold Hart.unboundDst
    rw [List.findSome?_eq_none_iff]
    intro r hr
    cases r with
    | q j => exact absurd (List.mem_append_right _ hr) (plain j).1
    | _ => rfl
  have h5 : (m.use.waits.any fun r => k.h.isEmpty r) = false := by
    rw [List.any_eq_false]; intro r hr; rw [full r (List.mem_append_right _ hr)]; simp
  have h6 : ((m.use.reads ++ m.use.writes).any fun r => k.h.isEmpty r) = false := by
    rw [List.any_eq_false]; intro r hr; rw [full r (List.mem_append_left _ hr)]; simp
  have h7 : (m.use.query && decide (8 ≤ k.h.queries.length)) = false := by
    cases hh : m.use.query with
    | false => rfl
    | true => have := hq hh; simp; omega
  unfold VC.check
  simp only [h1, h2, h3, h4, List.any_nil, Bool.not_false, Bool.and_true, h5, h6, h7, ha, hi, hr, hp, Bool.false_eq_true, if_false, if_true]
  rfl

/-! ### Register elements and mask bits -/

theorem tblFind_put {α : Type} (k k' : Nat) (v : α) (t : Tbl α) : tblFind k' (tblPut k v t) = if k = k' then some v else tblFind k' t := by
  induction t with
  | nil => simp [tblPut, tblFind]
  | cons p t ih =>
    obtain ⟨a, w⟩ := p
    simp only [tblPut]
    split
    · simp [tblFind]
    · split
      · subst_vars; simp only [tblFind]; split <;> simp_all
      · simp only [tblFind]; split
        · subst_vars; simp [*]
        · exact ih

theorem Hart.elem_setElem (h : Hart) (r i r' i' : Nat) (x : Slot) (hi : i < 1024) (hi' : i' < 1024) :
    (h.setElem r i x).elem r' i' = if r = r' ∧ i = i' then x else h.elem r' i' := by
  unfold Hart.elem Hart.setElem
  simp only [tblFind_put]
  have : elemKey r i = elemKey r' i' ↔ r = r' ∧ i = i' := by unfold elemKey; omega
  by_cases h1 : r = r' ∧ i = i'
  · rw [if_pos (this.2 h1), if_pos h1]
  · rw [if_neg (fun h => h1 (this.1 h)), if_neg h1]

theorem bit_one (i e : Nat) (he : e < 1024) : (BitVec.ofNat 1024 (1 <<< i)).getLsbD e = decide (i = e) := by
  rw [BitVec.getLsbD_ofNat, Nat.one_shiftLeft, Nat.testBit_two_pow]
  simp [he]

theorem bit_shift (i e : Nat) (he : e < 1024) : ((1 : Mask) <<< i).getLsbD e = decide (i = e) := by
  rw [BitVec.getLsbD_shiftLeft, show (1 : Mask) = BitVec.ofNat 1024 (1 <<< 0) from rfl]
  by_cases h : i = e
  · subst h; simp only [he, Nat.sub_self, bit_one 0 0 (by omega)]; simp
  · by_cases h' : e < i
    · simp [h', h]
    · rw [bit_one 0 (e - i) (by omega)]
      simp [h]; omega

theorem vec_getD_set {α : Type} {n : Nat} (v : Vector α n) (j j' : Nat) (x d : α) :
    (v.setIfInBounds j x).getD j' d = if j = j' ∧ j < n then x else v.getD j' d := by
  have e : ∀ (w : Vector α n) (i : Nat), w.getD i d = (w[i]?).getD d := by
    intro w i
    by_cases h : i < n <;> simp [Vector.getD, h]
  rw [e, e, Vector.getElem?_setIfInBounds]
  by_cases h : j = j'
  · subst h
    by_cases h2 : j < n
    · simp [h2]
    · simp [h2]
  · simp [h]

theorem Hart.mask_set (h : Hart) (j i : Nat) (b : Bool) (j' e : Nat) (hj : j ≠ 0) (he : e < 1024) :
    ((h.setMaskBit j i b).mask j').getLsbD e = if j = j' ∧ j < 16 ∧ i = e then b else (h.mask j').getLsbD e := by
  unfold Hart.mask Hart.setMaskBit
  by_cases h0 : j' = 0
  · subst h0; simp [hj]
  · simp only [h0, if_false, vec_getD_set]
    by_cases h1 : j = j' ∧ j < 16
    · obtain ⟨h1, h2⟩ := h1
      subst h1
      simp only [h2, and_self, if_true, true_and]
      cases b
      · simp only [Bool.false_eq_true, if_false, BitVec.getLsbD_and, BitVec.getLsbD_not, bit_shift i e he, he, decide_true, Bool.true_and]
        by_cases h3 : i = e <;> simp [h3]
      · rw [if_pos rfl, BitVec.getLsbD_or, show ((1 <<< i : Nat) : Mask) = BitVec.ofNat 1024 (1 <<< i) from rfl, bit_one i e he]
        by_cases h3 : i = e <;> simp [h3]
    · rw [if_neg h1, if_neg (fun hh => h1 ⟨hh.1, hh.2.1⟩)]

theorem getLsbD_maskLow (m : Mask) (n e : Nat) (he : e < 1024) : (maskLow m n).getLsbD e = (m.getLsbD e && decide (e < n)) := by
  unfold maskLow
  split
  · simp [show e < n by omega]
  · rw [BitVec.getLsbD_and, BitVec.getLsbD_ushiftRight, BitVec.getLsbD_allOnes]
    congr 1; simp; omega

theorem Hart.mask_clear (h : Hart) (j n j' e : Nat) (hj : j ≠ 0) (he : e < 1024) :
    ((h.clearAbove j n).mask j').getLsbD e = if j = j' ∧ j < 16 then (h.mask j').getLsbD e && decide (e < n) else (h.mask j').getLsbD e := by
  unfold Hart.mask Hart.clearAbove
  by_cases h0 : j' = 0
  · subst h0; simp [hj]
  · simp only [h0, if_false, vec_getD_set]
    by_cases h1 : j = j' ∧ j < 16
    · obtain ⟨h1, h2⟩ := h1
      subst h1
      simp only [h2, and_self, if_true, getLsbD_maskLow _ _ _ he]
    · rw [if_neg h1, if_neg h1]

/-! ### Operands -/

theorem VC.operands_plain (i : Nat) (xs : List (BitVec 7)) (k : VC) (seen : List (BitVec 7 × Slot))
    (hx : ∀ x ∈ xs, ¬(64 ≤ x.toNat ∧ x.toNat < 76)) (hs : ∀ p ∈ seen, p.2 = k.elemOf p.1 i) :
    VC.operands i xs k seen = .ok (k, xs.map fun x => k.elemOf x i) := by
  induction xs generalizing seen with
  | nil => rfl
  | cons x xs ih =>
    have hx0 := hx x (List.mem_cons_self)
    have hxs : ∀ y ∈ xs, ¬(64 ≤ y.toNat ∧ y.toNat < 76) := fun y hy => hx y (List.mem_cons_of_mem _ hy)
    unfold VC.operands
    cases hf : seen.find? (·.1 == x) with
    | some p =>
      have hm := List.mem_of_find?_eq_some hf
      have he : p.1 = x := by simpa using List.find?_some hf
      simp only [ih seen hxs hs, List.map_cons]
      rw [hs p hm, he]
    | none =>
      have : k.operand x i = .ok (k, k.elemOf x i) := by
        unfold VC.operand
        have a1 : ¬(64 ≤ x.toNat ∧ x.toNat < 72) := by omega
        have a2 : ¬(72 ≤ x.toNat ∧ x.toNat < 76) := by omega
        simp [a1, a2]
      simp only [this]
      rw [ih ((x, k.elemOf x i) :: seen) hxs]
      · rfl
      · intro p hp
        rcases List.mem_cons.1 hp with rfl | hp
        · rfl
        · exact hs p hp


theorem VC.spendElem_eq (k : VC) (w : VW) (m : BitVec 5) (times i : Nat) :
    ∃ d, k.spendElem w m times i = { k with h := { k.h with due := d } } := by
  unfold VC.spendElem
  simp only
  split
  · split
    · exact ⟨_, rfl⟩
    · exact ⟨_, rfl⟩
  · exact ⟨_, rfl⟩

/-- The flags that the live elements below i raise. -/
def Hart.raisedTo (h : Hart) (b : Block) (m : BitVec 5) (fl : Nat → Flags) (i : Nat) : Flags :=
  (List.range i).foldl (fun a e => if h.live b m e then a ||| fl e else a) 0

theorem Hart.raisedTo_succ (h : Hart) (b : Block) (m : BitVec 5) (fl : Nat → Flags) (i : Nat) :
    h.raisedTo b m fl (i + 1) = if h.live b m i then h.raisedTo b m fl i ||| fl i else h.raisedTo b m fl i := by
  unfold Hart.raisedTo; rw [List.range_succ, List.foldl_append]; rfl

theorem srSteps_succ (n : Nat) (g : BitVec 32) : srSteps (n + 1) g = srStep (srSteps n g) := by
  induction n generalizing g with
  | zero => rfl
  | succ n ih => rw [srSteps, ih]; rfl

theorem flagTraps_or (f : BitVec 10) (a fl : Flags) : flagTraps (orFlags f a) fl = flagTraps f fl := by
  unfold flagTraps trapEnables orFlags
  congr 2
  apply BitVec.eq_of_getLsbD_eq
  intro i hi
  simp only [BitVec.getLsbD_extractLsb', BitVec.getLsbD_or, BitVec.getLsbD_setWidth, hi, decide_true, Bool.true_and]
  rw [BitVec.getLsbD_of_ge a (5 + i) (by omega)]
  simp

theorem orFlags_or (f : BitVec 10) (a c : Flags) : orFlags (orFlags f a) c = orFlags f (a ||| c) := by
  unfold orFlags
  rw [BitVec.setWidth_or, BitVec.or_assoc]

theorem orFlags_zero (f : BitVec 10) : orFlags f 0 = f := by
  unfold orFlags; simp

/-- Bit e of mask j where an element-wise word stands before element i. -/
def Hart.maskTo (h : Hart) (b : Block) (m : BitVec 5) (d x : Option Nat) (bit exc : Nat → Bool) (i j e : Nat) : Bool :=
  if e < b.elem ∨ i ≤ e then (h.mask j).getLsbD e else if x = some j then h.live b m e && exc e
  else if d = some j then h.live b m e && bit e else (h.mask j).getLsbD e

theorem Hart.maskTo_step {h g : Hart} {b : Block} {m : BitVec 5} {d x : Option Nat} {bit exc : Nat → Bool} {i : Nat} (hi : b.elem ≤ i)
    (i1024 : i < 1024) (hd : ∀ j, d = some j → j ≠ 0 ∧ j < 16) (hx : ∀ j, x = some j → j ≠ 0 ∧ j < 16)
    (P : ∀ j e, e < 1024 → (g.mask j).getLsbD e = h.maskTo b m d x bit exc i j e) (j e : Nat) (he : e < 1024) :
    ((match x with
      | some y => (match d with
        | some c => g.setMaskBit c i (h.live b m i && bit i)
        | none => g).setMaskBit y i (h.live b m i && exc i)
      | none => (match d with
        | some c => g.setMaskBit c i (h.live b m i && bit i)
        | none => g)).mask j).getLsbD e = h.maskTo b m d x bit exc (i + 1) j e := by
  have key : h.maskTo b m d x bit exc (i + 1) j e = if e = i then
      (if x = some j then h.live b m e && exc e else if d = some j then h.live b m e && bit e else (h.mask j).getLsbD e)
      else h.maskTo b m d x bit exc i j e := by
    unfold Hart.maskTo
    by_cases h1 : e = i
    · subst h1; simp; intro; omega
    · simp only [h1, if_false]
      congr 1
      simp only [eq_iff_iff]; omega
  have pe : (g.mask j).getLsbD i = (h.mask j).getLsbD i := by
    rw [P j i i1024]; unfold Hart.maskTo; simp
  rw [key]
  cases x with
  | none => cases d with
    | none =>
      simp only [P j e he]
      by_cases h1 : e = i
      · subst h1; simp [← P j e he, pe]
      · simp [h1]
    | some c =>
      obtain ⟨c0, c16⟩ := hd c rfl
      simp only [Hart.mask_set _ _ _ _ _ _ c0 he, c16, true_and, P j e he, Option.some.injEq, reduceCtorEq, if_false]
      by_cases h1 : e = i
      · subst h1; simp [← P j e he, pe]
      · simp [h1, Ne.symm h1]
  | some y =>
    obtain ⟨y0, y16⟩ := hx y rfl
    cases d with
    | none =>
      simp only [Hart.mask_set _ _ _ _ _ _ y0 he, y16, true_and, P j e he, Option.some.injEq, reduceCtorEq, if_false]
      by_cases h1 : e = i
      · subst h1; simp [← P j e he, pe]
      · simp [h1, Ne.symm h1]
    | some c =>
      obtain ⟨c0, c16⟩ := hd c rfl
      simp only [Hart.mask_set _ _ _ _ _ _ y0 he, Hart.mask_set _ _ _ _ _ _ c0 he, y16, c16, true_and, P j e he, Option.some.injEq]
      by_cases h1 : e = i
      · subst h1; simp [← P j e he, pe]
      · simp [h1, Ne.symm h1]

/-- The mask that a destination names. -/
def Dest.maskOf : Dest → Option Nat
  | .reg _ => none
  | .mask j => some j

/-- Where an element-wise word stands before element i: the elements below it committed. -/
structure ElementsTo (s : State) (slot : Nat) (h : Hart) (em : List RegId) (b : Block) (m : BitVec 5) (d : Dest) (x : Option Nat)
    (draws : Bool) (val : Nat → Slot × Flags) (i : Nat) (k : VC) : Prop where
  st : k.st = s
  slot : k.slot = slot
  elem : ∀ r e, e < 1024 → k.h.elem r e = match d with
    | .reg d => h.withElems d (fun e => h.live b m e && decide (e < i)) (fun e => (val e).1) r e
    | .mask _ => h.elem r e
  mask : ∀ j e, e < 1024 → (k.h.mask j).getLsbD e =
    h.maskTo b m d.maskOf x (fun e => (val e).1 != 0) (fun e => indicator (val e).2) i j e
  lists : k.h.l = h.l
  sc : k.h.sc = { h.sc with fflags := orFlags h.sc.fflags (h.raisedTo b m (fun e => (val e).2) i) }
  gen : ∀ j, j < 64 → k.h.gen.getD j 0 = if draws
    then srSteps (((List.range i).filter fun e => h.live b m e && e % 64 == j).length) (h.gen.getD j 0) else h.gen.getD j 0
  same : draws = false → k.h.gen = h.gen
  blocks : k.h.blocks = h.blocks
  grant : k.h.grant = h.grant
  full : k.h.full = (h.markEmpty em).full ∧ k.h.sfull = (h.markEmpty em).sfull
  frame : { k.h.beside h with v := h.v, m := h.m, l := h.l, sc := h.sc, gen := h.gen, full := h.full, sfull := h.sfull } = h

/-- One element of an element-wise word. -/
theorem elementwise_step {s : State} {slot : Nat} {h : Hart} {em : List RegId} {b : Block} {rest : List Block} {use : WordUse} {f : VR} {srcs : List (BitVec 7)} {rounds : Bool}
    {dst : Dest} {op : ElemOp} {val : Nat → Slot × Flags} {w : VW} {times : Nat} (hb : h.blocks = b :: rest)
    (forks : s.forksBegun slot b.seq) (we : w.env = b.env) (wv : w.vl = b.env.vl)
    (len : b.env.vl ≤ 1024)
    (hsrc : ∀ x ∈ srcs, ¬(64 ≤ x.toNat ∧ x.toNat < 76))
    (hd : match dst with
      | .reg d => ¬(64 ≤ d.toNat ∧ d.toNat < 72)
      | .mask j => j ≠ 0 ∧ j < 16)
    (hx : f.xm = true → f.xd ≠ 0)
    (htrap : ∀ e, h.live b f.mask e = true → flagTraps h.sc.fflags (val e).2 = false)
    (hop : ∀ k e, h.live b f.mask e = true → (∀ j, (k.h.mask j).getLsbD e = (h.mask j).getLsbD e) →
      op k e ⟨roundMode f.rnd b.env.vround, f.sat.toNat, if rounds && roundMode f.rnd b.env.vround == 5 then h.drawAt b f.mask e else 0⟩
        (srcs.map fun x => h.operandAt x e) = val e)
    (i : Nat) (k : VC) (hi : b.elem ≤ i) (hv : i < w.vl)
    (P : ElementsTo s slot h em b f.mask dst (excMaskOf f) (rounds && roundMode f.rnd b.env.vround == 5) val i k) :
    ∃ k', (elementwise use f srcs rounds dst op).elem (k.spendElem w f.mask times i) w i = .ok k' ∧
      ElementsTo s slot h em b f.mask dst (excMaskOf f) (rounds && roundMode f.rnd b.env.vround == 5) val (i + 1) k' := by
  obtain ⟨d, hk⟩ := k.spendElem_eq w f.mask times i
  rw [hk]
  generalize hk0 : ({ k with h := { k.h with due := d } } : VC) = k0
  have P0 : ElementsTo s slot h em b f.mask dst (excMaskOf f) (rounds && roundMode f.rnd b.env.vround == 5) val i k0 := by
    subst hk0
    obtain ⟨p1, p2, p3, p4, p5, p6, p7, p8, p9, p10, p12, p11⟩ := P
    exact ⟨p1, p2, p3, p4, p5, p6, p7, p8, p9, p10, p12, p11⟩
  clear hk hk0 P
  have i1024 : i < 1024 := by omega
  have old : ∀ j, (k0.h.mask j).getLsbD i = (h.mask j).getLsbD i := by
    intro j; rw [P0.mask j i i1024]; unfold Hart.maskTo; simp
  have sel : k0.h.selects f.mask i = h.selects f.mask i := by
    unfold Hart.selects; rw [P0.lists, old]
  have act : k0.active w f.mask i = h.live b f.mask i := by
    unfold VC.active Hart.live
    rw [sel, wv]; simp [hi]
  have ops : VC.operands i srcs k0 [] = .ok (k0, srcs.map fun x => h.operandAt x i) := by
    rw [VC.operands_plain i srcs k0 [] hsrc (by simp)]
    congr 2
    apply List.map_congr_left
    intro x _
    unfold VC.elemOf Hart.operandAt VC.broadcast
    rw [P0.elem _ _ i1024, P0.sc]
    split
    · cases dst <;> simp [Hart.withElems]
    · rfl
  have hdm : ∀ j, dst.maskOf = some j → j ≠ 0 ∧ j < 16 := by
    intro j hj
    cases dst with
    | reg d => exact absurd hj (by simp [Dest.maskOf])
    | mask j' => simp only [Dest.maskOf, Option.some.injEq] at hj; subst hj; exact hd
  have hxm : ∀ j, excMaskOf f = some j → j ≠ 0 ∧ j < 16 := by
    intro j hj
    unfold excMaskOf at hj
    split at hj
    · rename_i hm
      simp only [Option.some.injEq] at hj; subst hj
      exact ⟨fun h0 => hx hm (BitVec.eq_of_toNat_eq (by simpa using h0)), f.xd.isLt⟩
    · exact absurd hj (by simp)
  have P0m := P0.mask
  have mstep := Hart.maskTo_step (g := k0.h) hi i1024 hdm hxm P0.mask
  simp only [elementwise, act, ops]
  obtain ⟨p1, p2, p3, p4, p5, p6, p7, p8, p9, p10, p12, p11⟩ := P0
  cases hact : h.live b f.mask i with
  | false =>
    rw [hact] at mstep
    simp only [Bool.false_and] at mstep
    refine ⟨_, rfl, ?_⟩
    have hel : ∀ d r e, h.withElems d (fun e => h.live b f.mask e && decide (e < i + 1)) (fun e => (val e).1) r e =
        h.withElems d (fun e => h.live b f.mask e && decide (e < i)) (fun e => (val e).1) r e := by
      intro d r e
      unfold Hart.withElems
      by_cases h1 : e = i
      · subst h1; simp [hact]
      · have : e < i + 1 ↔ e < i := by omega
        simp [this]
    constructor
    · exact p1
    · exact p2
    · intro r e he
      cases dst with
      | reg d =>
        simp only [hel]
        cases hm : f.xm <;> exact p3 r e he
      | mask j => cases hm : f.xm <;> exact p3 r e he
    · intro j e he
      rw [← mstep j e he]
      cases dst <;> cases hm : f.xm <;> simp [excMaskOf, hm, Dest.maskOf]
    · cases dst <;> cases hm : f.xm <;> exact p5
    · rw [Hart.raisedTo_succ, hact]
      cases dst <;> cases hm : f.xm <;> exact p6
    · intro j hj
      rw [List.range_succ, List.filter_append]
      simp only [List.filter_cons, hact, Bool.false_and, Bool.false_eq_true, if_false, List.filter_nil, List.append_nil]
      cases dst <;> cases hm : f.xm <;> exact p7 j hj
    · intro hn; cases dst <;> cases hm : f.xm <;> exact p8 hn
    · cases dst <;> cases hm : f.xm <;> exact p9
    · cases dst <;> cases hm : f.xm <;> exact p10
    · cases dst <;> cases hm : f.xm <;> exact p12
    · cases dst <;> cases hm : f.xm <;> exact p11
  | true =>
    rw [hact] at mstep
    simp only [Bool.true_and] at mstep
    have hsr : rsr = 5 := rfl
    rw [we, hsr]
    generalize hdr : (rounds && roundMode f.rnd b.env.vround == 5) = draws at *
    obtain ⟨rnd, g, eg⟩ : ∃ rnd g, (if draws = true then k0.h.draw i else (0, k0.h)) = (rnd, g) := ⟨_, _, rfl⟩
    have hrnd : rnd = if draws = true then h.drawAt b f.mask i else 0 := by
      cases draws with
      | false => simp only [Bool.false_eq_true, if_false, Prod.mk.injEq] at eg ⊢; exact eg.1.symm
      | true =>
        simp only [if_true, Hart.draw, Prod.mk.injEq] at eg ⊢
        rw [← eg.1, p7 (i % 64) (Nat.mod_lt _ (by decide))]
        simp only [if_true]
        unfold Hart.drawAt
        simp only [srSteps_succ]
    have gg : g = { k0.h with gen := g.gen } := by
      cases draws with
      | false => simp only [Bool.false_eq_true, if_false, Prod.mk.injEq] at eg; rw [← eg.2]
      | true => simp only [if_true, Hart.draw, Prod.mk.injEq] at eg; rw [← eg.2]
    have ggen : ∀ j, j < 64 → g.gen.getD j 0 = if draws
        then srSteps (((List.range (i + 1)).filter fun e => h.live b f.mask e && e % 64 == j).length) (h.gen.getD j 0) else h.gen.getD j 0 := by
      intro j hj
      cases draws with
      | false =>
        simp only [Bool.false_eq_true, if_false, Prod.mk.injEq] at eg ⊢
        rw [← eg.2, p7 j hj]; simp
      | true =>
        simp only [if_true, Hart.draw, Prod.mk.injEq] at eg ⊢
        rw [← eg.2]
        simp only [vec_getD_set]
        rw [List.range_succ, List.filter_append, List.length_append]
        simp only [List.filter_cons, hact, Bool.true_and, List.filter_nil]
        by_cases h1 : i % 64 = j
        · subst h1
          simp only [Nat.mod_lt _ (show 0 < 64 by decide), and_self, if_true, beq_self_eq_true, List.length_singleton, srSteps_succ]
          rw [p7 _ (Nat.mod_lt _ (by decide))]; simp
        · simp only [h1, false_and, if_false, beq_iff_eq, List.length_nil, Nat.add_zero]
          rw [p7 j hj]; simp
    have gsame : draws = false → g.gen = h.gen := by
      intro hn; subst hn
      simp only [Bool.false_eq_true, if_false, Prod.mk.injEq] at eg
      rw [← eg.2]; exact p8 rfl
    have hv' : op k0 i ⟨roundMode f.rnd b.env.vround, f.sat.toNat, rnd⟩ (srcs.map fun x => h.operandAt x i) = val i := by
      rw [hrnd]; exact hop k0 i hact old
    have hraise : ({ k0 with h := g } : VC).raise (val i).2 =
        .ok { k0 with h := { g with sc := { g.sc with fflags := orFlags g.sc.fflags (val i).2 } } } := by
      unfold VC.raise
      have : flagTraps g.sc.fflags (val i).2 = false := by
        rw [gg]; simp only [p6, flagTraps_or]; exact htrap i hact
      have hf : ({ k0 with h := g } : VC).st.raiseForks k0.slot ((g.blocks.head?.map (·.seq)).getD 0) (val i).2 = k0.st := by
        rw [show ({ k0 with h := g } : VC).st = s from p1, p2, gg]
        simp only [p9, hb, List.head?_cons, Option.map_some, Option.getD_some]
        exact State.raiseForks_begun forks _
      simp only [this, Bool.false_eq_true, if_false, hf]
    have hel : ∀ d r e, e < 1024 → h.withElems d (fun e => h.live b f.mask e && decide (e < i + 1)) (fun e => (val e).1) r e =
        if d.toNat < 64 ∧ d.toNat = r ∧ i = e then (val i).1
        else h.withElems d (fun e => h.live b f.mask e && decide (e < i)) (fun e => (val e).1) r e := by
      intro d r e _
      unfold Hart.withElems
      by_cases h1 : i = e
      · subst h1
        by_cases h2 : d.toNat < 64 ∧ d.toNat = r
        · simp [hact, h2.2]
        · rw [if_neg (fun hh => h2 ⟨hh.1, hh.2.1.symm⟩), if_neg (fun hh => h2 ⟨hh.1, hh.2.1⟩)]; simp
      · have : e < i + 1 ↔ e < i := by omega
        simp [this, h1]
    simp only [bind, Except.bind, eg, hv', if_true, hraise]
    generalize hq : ({ g with sc := { g.sc with fflags := orFlags g.sc.fflags (val i).2 } } : Hart) = q
    have q1 : ∀ r e, q.elem r e = k0.h.elem r e := by intro r e; rw [← hq, gg]; rfl
    have q2 : ∀ j, q.mask j = k0.h.mask j := by intro j; rw [← hq, gg]; rfl
    have q3 : q.l = h.l := by rw [← hq, gg]; exact p5
    have q4 : q.sc = { h.sc with fflags := orFlags h.sc.fflags (h.raisedTo b f.mask (fun e => (val e).2) (i + 1)) } := by
      rw [← hq, gg]; simp only [p6, Hart.raisedTo_succ, hact, if_true, orFlags_or]
    have q5 : q.gen = g.gen := by rw [← hq]
    have q6 : q.blocks = h.blocks := by rw [← hq, gg]; exact p9
    have q7 : q.grant = h.grant := by rw [← hq, gg]; exact p10
    have q9 : q.full = (h.markEmpty em).full ∧ q.sfull = (h.markEmpty em).sfull := by rw [← hq, gg]; exact p12
    have q8 : { q.beside h with v := h.v, m := h.m, l := h.l, sc := h.sc, gen := h.gen, full := h.full, sfull := h.sfull } = h := by
      rw [← hq, gg]; exact p11
    have mstep' := Hart.maskTo_step (g := q) hi i1024 hdm hxm (by intro j e he; rw [q2]; exact P0m j e he)
    simp only [hact, Bool.true_and] at mstep'
    clear hq
    cases dst with
    | reg d =>
      have hw : ({ k0 with h := q } : VC).writeDst d i (val i).1 =
          .ok { k0 with h := if d.toNat < 64 then q.setElem d.toNat i (val i).1 else q } := by
        unfold VC.writeDst
        by_cases h1 : d.toNat < 64
        · simp [h1]
        · have h2 : ¬ d.toNat < 72 := by simp only at hd; omega
          simp [h1, h2]
      simp only [hw]
      refine ⟨_, rfl, ?_⟩
      constructor
      · cases f.xm <;> exact p1
      · cases f.xm <;> exact p2
      · intro r e he
        simp only [hel d r e he]
        have := p3 r e he
        simp only at this
        have e1 : (if d.toNat < 64 then q.setElem d.toNat i (val i).1 else q).elem r e =
            if d.toNat < 64 ∧ d.toNat = r ∧ i = e then (val i).1 else k0.h.elem r e := by
          by_cases h1 : d.toNat < 64
          · simp only [h1, if_true, true_and]; rw [Hart.elem_setElem _ _ _ _ _ _ i1024 he, q1]
          · simp [h1, q1]
        rw [← this, ← e1]
        cases f.xm <;> rfl
      · intro j e he
        rw [← mstep' j e he]
        simp only [excMaskOf, Dest.maskOf]
        cases f.xm <;> by_cases h1 : d.toNat < 64 <;> simp [h1] <;> rfl
      · cases f.xm <;> by_cases h1 : d.toNat < 64 <;> simp [h1] <;> exact q3
      · cases f.xm <;> by_cases h1 : d.toNat < 64 <;> simp [h1] <;> exact q4
      · intro j hj
        rw [← ggen j hj, ← q5]
        cases f.xm <;> by_cases h1 : d.toNat < 64 <;> simp [h1] <;> rfl
      · intro hn
        rw [← gsame hn, ← q5]
        cases f.xm <;> by_cases h1 : d.toNat < 64 <;> simp [h1] <;> rfl
      · cases f.xm <;> by_cases h1 : d.toNat < 64 <;> simp [h1] <;> exact q6
      · cases f.xm <;> by_cases h1 : d.toNat < 64 <;> simp [h1] <;> exact q7
      · cases f.xm <;> by_cases h1 : d.toNat < 64 <;> simp only [h1, if_true, if_false, Bool.false_eq_true] <;> exact q9
      · cases f.xm <;> by_cases h1 : d.toNat < 64 <;> simp only [h1, if_true, if_false, Bool.false_eq_true] <;> exact q8
    | mask c =>
      refine ⟨_, rfl, ?_⟩
      constructor
      · cases f.xm <;> exact p1
      · cases f.xm <;> exact p2
      · intro r e he
        have := p3 r e he
        simp only at this
        rw [← this, ← q1]
        cases f.xm <;> rfl
      · intro j e he
        rw [← mstep' j e he]
        simp only [excMaskOf, Dest.maskOf]
        cases f.xm <;> rfl
      · cases f.xm <;> exact q3
      · cases f.xm <;> exact q4
      · intro j hj
        rw [← ggen j hj, ← q5]
        cases f.xm <;> rfl
      · intro hn
        rw [← gsame hn, ← q5]
        cases f.xm <;> rfl
      · cases f.xm <;> exact q6
      · cases f.xm <;> exact q7
      · cases f.xm <;> exact q9
      · cases f.xm <;> exact q8

theorem Hart.selects_of {g h : Hart} {m : BitVec 5} {i : Nat} (hl : g.l = h.l) (hm : ∀ j, (g.mask j).getLsbD i = (h.mask j).getLsbD i) :
    g.selects m i = h.selects m i := by unfold Hart.selects; rw [hl, hm]

/-- Claims given up where a slot holds none. -/
theorem State.releaseClaims_none {s : State} {slot : Nat} (h : ∀ r ∈ s.regions, ∀ x ∈ r.held, x.1 ≠ slot) : s.releaseClaims slot = s := by
  unfold State.releaseClaims
  split
  · rfl
  · have : s.regions.map (fun (r : Region) => { r with held := r.held.filter fun x => x.1 != slot }) = s.regions := by
      rw [List.map_congr_left (g := id)]
      · simp
      · intro r hr
        have : r.held.filter (fun x => x.1 != slot) = r.held := by
          rw [List.filter_eq_self]; intro x hx; simpa using h r hr x hx
        simp only [this, id]
    rw [this]

/-- What completion leaves of a hart whose convoy was one word, where no reply is to come to what it marked empty and no claim is held. -/
theorem VC.runConvoy_done {k k0 k1 : VC} {b : Block} {rest : List Block} {m : Sem} {w : VW} {slot : Nat} (hb : k1.h.blocks = b :: rest) (hs : k1.slot = slot)
    (hcut : b.parts = []) (hff : m.use.ff = false) (hr : Convoy.run [(m, w)] b.elem k = .done k1)
    (due : ∀ r ∈ Convoy.empties [(m, w)], k1.h.awaits r = false) (held : ∀ r ∈ k1.st.regions, ∀ x ∈ r.held, x.1 ≠ slot) :
    k.runConvoy (b.issue k0 [(m, w)]) [(m, w)] (b.pc + 8) none =
      .next (k1.st.setHart slot { k1.h.markFull (Convoy.empties [(m, w)]) with
        vwait := false, lastIssue := k1.st.wall, aged := 0, blocks := k1.st.nextFront k1.who b rest }) := by
  have f : (Convoy.empties [(m, w)]).filter (fun r => !k1.h.awaits r) = Convoy.empties [(m, w)] := by
    rw [List.filter_eq_self]; intro r hr'; rw [due r hr']; rfl
  have hrel : k1.st.releaseClaims slot = k1.st := State.releaseClaims_none held
  have ie : (b.issue k0 [(m, w)]).elem = b.elem := rfl
  have ic : (b.issue k0 [(m, w)]).parts = [] := hcut
  have it : (b.issue k0 [(m, w)]).trapNext = none := by simp only [Block.trapNext, ic, List.head?_nil, Option.bind_none]
  have im : ∀ pc, (b.issue k0 [(m, w)]).moveOn pc = { b.unissued with pc := pc, elem := 0, origin := b.elem, cut := 0 } := by
    intro pc; simp only [Block.moveOn, Block.unissued, Block.issue, hcut]
  unfold VC.runConvoy
  simp only [VC.fetchAhead_single, ie, hr, it, List.any_cons, List.any_nil, Bool.or_false, hff]
  unfold VC.complete State.nextFront VC.state
  simp only [Bool.false_eq_true, if_false, Bool.true_and, Bool.or_false, hs, ic, im, List.isEmpty_nil, f, hrel]
  by_cases h1 : k1.st.atStop k1.who (b.pc + 8) = true
  · simp only [h1, if_true, Hart.markFull_eq, hb, List.drop_succ_cons, List.drop_zero]
  · simp only [h1, Bool.false_eq_true, if_false, Hart.setBlock, Hart.markFull_eq, hb, List.drop_succ_cons, List.drop_zero, Block.issue, Block.unissued]

/-- Where an element-wise word stands when it issues. -/
theorem ElementsTo.start (s : State) (slot : Nat) (h : Hart) (em : List RegId) (b : Block) (m : BitVec 5) (d : Dest) (x : Option Nat)
    (draws : Bool) (val : Nat → Slot × Flags) (now : Nat) (bs : List Nat) (due : List Spent) (t : Option (Nat × Nat × Nat)) (wall : Nat)
    (stash : List (Option Slot)) (sent : List (Nat × Nat)) (ahead : List Ahead) (src : Hart) :
    ElementsTo s slot h em b m d x draws val b.elem
      ⟨s, slot, { (h.touchBanks now bs).markEmpty em with due := due, timed := t, lastIssue := wall, aged := 0 }, stash, sent, ahead, src⟩ := by
  rw [Hart.markEmpty_eq]
  have nolive : ∀ e, e < b.elem → h.live b m e = false := by
    intro e he; unfold Hart.live; simp; intro h1; omega
  constructor
  · rfl
  · rfl
  · intro r e he
    cases d with
    | reg d =>
      simp only [Hart.withElems]
      rw [if_neg]; rfl
      intro hh
      have := hh.2.2
      simp only [Bool.and_eq_true, decide_eq_true_eq] at this
      rw [nolive e this.2] at this; exact absurd this.1 (by simp)
    | mask j => rfl
  · intro j e he
    unfold Hart.maskTo
    rw [if_pos (by omega)]; rfl
  · rfl
  · have : h.raisedTo b m (fun e => (val e).2) b.elem = 0 := by
      unfold Hart.raisedTo
      have : ∀ l : List Nat, (∀ e ∈ l, e < b.elem) → ∀ a : Flags, l.foldl (fun a e => if h.live b m e then a ||| (val e).2 else a) a = a := by
        intro l
        induction l with
        | nil => intro _ _; rfl
        | cons x t ih =>
          intro hl a
          simp only [List.foldl_cons, nolive x (hl x List.mem_cons_self), Bool.false_eq_true, if_false]
          exact ih (fun e he => hl e (List.mem_cons_of_mem _ he)) a
      exact this _ (by intro e he; exact List.mem_range.1 he) 0
    rw [this, orFlags_zero]; rfl
  · intro j hj
    have : (List.range b.elem).filter (fun e => h.live b m e && e % 64 == j) = [] := by
      rw [List.filter_eq_nil_iff]
      intro e he
      rw [nolive e (List.mem_range.1 he)]; simp
    rw [this]
    split <;> rfl
  · intro _; rfl
  · rfl
  · rfl
  · rw [Hart.markEmpty_eq]; exact ⟨rfl, rfl⟩
  · rfl

/-- An element-wise word touches no memory, so it pins no page. -/
theorem elementwise_pins {k : VC} {w : VW} {use : WordUse} {f : VR} {srcs : List (BitVec 7)} {rounds : Bool} {dst : Dest} {op : ElemOp} :
    k.pinsOf (elementwise use f srcs rounds dst op) w = [] := by
  have : (elementwise use f srcs rounds dst op).spans k w = [] := by
    unfold Sem.spans
    rw [List.flatMap_eq_nil_iff]
    intro i _; rfl
  unfold VC.pinsOf
  rw [this]; rfl

/-- All that an element-wise word leaves. -/
theorem elementwise_left {s : State} {slot : Nat} {h : Hart} {b : Block} {rest : List Block} {use : WordUse} {f : VR}
    {srcs : List (BitVec 7)} {rounds : Bool} {dst : Dest} {op : ElemOp} {val : Nat → Slot × Flags}
    (at' : s.AtWord slot h b rest) (fits : h.Fits b use) (hem' : ∀ r ∈ use.empties, r ∈ use.writes) (hquery : use.query = false) (hff : use.ff = false)
    (hsrc : ∀ x ∈ srcs, ¬(64 ≤ x.toNat ∧ x.toNat < 76))
    (hd : match dst with
      | .reg d => ¬(64 ≤ d.toNat ∧ d.toNat < 72)
      | .mask j => j ≠ 0 ∧ j < 16)
    (hx : f.xm = true → f.xd ≠ 0)
    (htrap : ∀ e, h.live b f.mask e = true → flagTraps h.sc.fflags (val e).2 = false)
    (hop : ∀ k e, h.live b f.mask e = true → (∀ j, (k.h.mask j).getLsbD e = (h.mask j).getLsbD e) →
      op k e ⟨roundMode f.rnd b.env.vround, f.sat.toNat, if rounds && roundMode f.rnd b.env.vround == 5 then h.drawAt b f.mask e else 0⟩
        (srcs.map fun x => h.operandAt x e) = val e) :
    s.WordLeft slot h b rest (s.vectorWord (elementwise use f srcs rounds dst op))
      (match dst with
        | .reg d => h.withElems d (h.live b f.mask) fun e => (val e).1
        | .mask _ => h.elem)
      (h.withMasks b f.mask dst.maskOf (excMaskOf f) (fun e => (val e).1 != 0) fun e => indicator (val e).2) h.l
      { h.sc with fflags := orFlags h.sc.fflags (h.raised b f.mask fun e => (val e).2) }
      (rounds && roundMode f.rnd b.env.vround == 5) := by
  have len : b.env.vl ≤ 1024 := by
    have h1 := fits.length
    have h2 := fits.count.1
    unfold mvlOf at h1
    have : 8192 / b.env.nregs ≤ 8192 / 8 := Nat.div_le_div_left h2 (by decide)
    omega
  have hck : (s.convoyAt slot h b).check [] (elementwise use f srcs rounds dst op) b.place = .ok b.env.vl :=
    VC.check_fits (b := b) fits rfl rfl (by intro hh; rw [show (elementwise use f srcs rounds dst op).use = use from rfl, hquery] at hh; exact absurd hh (by simp)) rfl
      (by rw [elementwise_pins]; rfl) rfl
  rw [State.vectorWord_run at' hck (.inl hquery)]
  obtain ⟨w, hw⟩ : ∃ w, w = (s.convoyAt slot h b).accepted (elementwise use f srcs rounds dst op) b.place b.env.vl := ⟨_, rfl⟩
  rw [← hw]
  have we : w.env = b.env := by rw [hw]; rfl
  have wv : w.vl = b.env.vl := by rw [hw]; rfl
  have ws : w.start = b.elem := by rw [hw]; rfl
  have wc : w.claims = [] := by rw [hw]; rfl
  have wp : w.pins = [] := by rw [hw]; exact elementwise_pins
  clear hw
  obtain ⟨em, hem⟩ : ∃ em, em = Convoy.empties [(elementwise use f srcs rounds dst op, w)] := ⟨_, rfl⟩
  have emw : ∀ r ∈ em, r ∈ use.writes := by
    intro r hr
    rw [hem] at hr
    unfold Convoy.empties at hr
    simp only [List.flatMap_cons, List.flatMap_nil, List.append_nil] at hr
    split at hr
    · exact absurd hr (by simp)
    · exact hem' r hr
  have P : ElementsTo s slot h em b f.mask dst (excMaskOf f) (rounds && roundMode f.rnd b.env.vround == 5) val w.start
      ((s.convoyAt slot h b).begun (elementwise use f srcs rounds dst op) w) := by
    rw [ws, hem]
    unfold VC.begun VC.begunAll State.holdClaims State.keptPins Hart.issueOn State.convoyAt
    simp only [List.flatMap_cons, List.flatMap_nil, List.append_nil, wc, wp, List.isEmpty_nil, if_true, List.foldl_nil]
    exact ElementsTo.start s slot h _ b f.mask dst (excMaskOf f) _ val s.time _ _ _ _ [] b.sent [] h
  obtain ⟨k1, P1, hrun⟩ := Convoy.run_single (m := elementwise use f srcs rounds dst op) (w := w) P
    (fun i k hi hv Pk => by
      obtain ⟨k', e, Pk'⟩ := elementwise_step (use := use) (times := 1) at'.block at'.begun we wv len hsrc hd hx htrap hop i k (ws ▸ hi) hv Pk
      exact ⟨k', VC.element_sound (by rw [Pk.st, Pk.slot]; exact at'.sound) e, Pk'⟩)
  have hmax : max b.elem b.env.vl = b.env.vl := by rcases fits.place with h1 | h1 <;> omega
  rw [ws, wv] at P1 hrun
  rw [hmax] at P1
  have hdm : ∀ j, dst.maskOf = some j → j ≠ 0 ∧ j < 16 := by
    intro j hj
    cases dst with
    | reg d => exact absurd hj (by simp [Dest.maskOf])
    | mask j' => simp only [Dest.maskOf, Option.some.injEq] at hj; subst hj; exact hd
  have hxm : ∀ j, excMaskOf f = some j → j ≠ 0 ∧ j < 16 := by
    intro j hj
    unfold excMaskOf at hj
    split at hj
    · rename_i hm
      simp only [Option.some.injEq] at hj; subst hj
      exact ⟨fun h0 => hx hm (BitVec.eq_of_toNat_eq (by simpa using h0)), f.xd.isLt⟩
    · exact absurd hj (by simp)
  -- the hart after completion
  obtain ⟨g, hg, gm, gk⟩ : ∃ g : Hart, (if 0 < b.env.vl then (elementwise use f srcs rounds dst op).finish k1 w else k1) =
      { k1 with h := g } ∧ (∀ j e, e < 1024 → (g.mask j).getLsbD e =
        h.withMasks b f.mask dst.maskOf (excMaskOf f) (fun e => (val e).1 != 0) (fun e => indicator (val e).2) j e) ∧
        g = { k1.h with m := g.m } := by
    have pm := P1.mask
    by_cases h0 : 0 < b.env.vl
    · simp only [h0, if_true, elementwise, wv]
      refine ⟨_, rfl, ?_, ?_⟩
      · intro j e he
        have base : h.withMasks b f.mask dst.maskOf (excMaskOf f) (fun e => (val e).1 != 0) (fun e => indicator (val e).2) j e =
            if excMaskOf f = some j ∨ dst.maskOf = some j then
              h.maskTo b f.mask dst.maskOf (excMaskOf f) (fun e => (val e).1 != 0) (fun e => indicator (val e).2) b.env.vl j e && decide (e < b.env.vl)
            else h.maskTo b f.mask dst.maskOf (excMaskOf f) (fun e => (val e).1 != 0) (fun e => indicator (val e).2) b.env.vl j e := by
          unfold Hart.withMasks Hart.maskTo
          have hne : ¬ b.env.vl = 0 := by omega
          simp only [hne, false_or]
          have lv : b.env.vl ≤ e → h.live b f.mask e = false := by
            intro h1; unfold Hart.live; simp; intro _ h2; omega
          have pl := fits.place
          by_cases h1 : e < b.elem
          · have : e < b.env.vl := by omega
            simp [h1, this]
          · by_cases h2 : b.env.vl ≤ e
            · have h3 : ¬ e < b.env.vl := by omega
              simp only [h1, h2, h3, lv h2, if_false, decide_false, Bool.and_false, or_true, if_true, Bool.false_and]
              by_cases h4 : excMaskOf f = some j
              · simp [h4]
              · by_cases h5 : dst.maskOf = some j <;> simp [h4, h5]
            · have h3 : e < b.env.vl := by omega
              simp only [h1, h2, h3, if_false, or_self, decide_true, Bool.and_true, ite_self]
        rw [base, ← pm j e he]
        cases hfx : f.xm with
        | false =>
          have ex : excMaskOf f = none := by simp [excMaskOf, hfx]
          rw [ex]
          cases dst with
          | reg d => simp [Dest.maskOf]
          | mask c =>
            simp only [Dest.maskOf, Bool.false_eq_true, if_false, Option.some.injEq, reduceCtorEq, false_or]
            rw [Hart.mask_clear _ _ _ _ _ hd.1 he]
            simp [hd.2]
        | true =>
          have ex : excMaskOf f = some f.xd.toNat := by simp [excMaskOf, hfx]
          have hx' := hxm _ ex
          rw [ex]
          cases dst with
          | reg d =>
            simp only [Dest.maskOf, if_true, Option.some.injEq, reduceCtorEq, or_false]
            rw [Hart.mask_clear _ _ _ _ _ hx'.1 he]
            simp [hx'.2]
          | mask c =>
            simp only [Dest.maskOf, if_true, Option.some.injEq]
            rw [Hart.mask_clear _ _ _ _ _ hx'.1 he, Hart.mask_clear _ _ _ _ _ hd.1 he]
            by_cases h1 : f.xd.toNat = j
            · by_cases h2 : c = j
              · simp only [h1, h2, true_and, if_true, true_or, Bool.and_assoc, Bool.and_self, show j < 16 from h2 ▸ hd.2]
              · simp only [h1, h2, true_and, false_and, if_true, if_false, true_or, show j < 16 from h1 ▸ hx'.2]
            · by_cases h2 : c = j
              · simp only [h1, h2, true_and, false_and, if_true, if_false, or_true, show j < 16 from h2 ▸ hd.2]
              · simp only [h1, h2, false_and, if_false, or_false]
      · cases f.xm <;> cases dst <;> rfl
    · simp only [h0, if_false]
      refine ⟨k1.h, rfl, ?_, rfl⟩
      intro j e he
      rw [pm j e he]
      unfold Hart.withMasks Hart.maskTo
      have : b.env.vl = 0 := by omega
      simp [this]
  rw [hg] at hrun
  have hblocks : g.blocks = b :: rest := by rw [gk]; exact P1.blocks.trans at'.block
  have hq : g.queries = h.queries := by
    have hf := P1.frame
    rw [gk, ← hf]; rfl
  have due : ∀ r ∈ Convoy.empties [(elementwise use f srcs rounds dst op, w)], ({ k1 with h := g } : VC).h.awaits r = false := by
    intro r hr
    rw [← hem] at hr
    have := fits.due r (emw r hr)
    unfold Hart.awaits at this ⊢
    simpa only [hq] using this
  have held : ∀ r ∈ ({ k1 with h := g } : VC).st.regions, ∀ x ∈ r.held, x.1 ≠ slot := by
    rw [show ({ k1 with h := g } : VC).st = s from P1.st]; exact at'.unheld
  have hdone := VC.runConvoy_done (b := b) (rest := rest) (slot := slot) (k0 := s.convoyAt slot h b) (k1 := { k1 with h := g }) hblocks P1.slot at'.fresh.2 hff hrun due held
  rw [← hem] at hdone
  have hwho : ({ k1 with h := g } : VC).who = h.who slot := by
    have hf := P1.frame
    show g.who k1.slot = h.who slot
    rw [P1.slot, gk, ← hf]; rfl
  have bits := Hart.full_bits em h (fun r hr => fits.full r (List.mem_append_left _ (List.mem_append_right _ (emw r hr))))
  have pf := P1.full
  rw [Hart.markEmpty_eq] at pf
  have full : g.full ||| vBits em = h.full ∧ g.sfull ||| sBits em = h.sfull := by
    rw [gk]
    exact ⟨by rw [show ({ k1.h with m := g.m } : Hart).full = k1.h.full from rfl, pf.1]; exact or_not _ _ bits.1,
      by rw [show ({ k1.h with m := g.m } : Hart).sfull = k1.h.sfull from rfl, pf.2]; exact or_not _ _ bits.2⟩
  rw [Hart.markFull_eq, full.1, full.2, hwho, show ({ k1 with h := g } : VC).st = s from P1.st] at hdone
  refine ⟨_, hdone, ?_, ?_, ?_, ?_, ?_, ?_, ?_⟩
  · intro r e he
    have := P1.elem r e he
    have e1 : g.elem r e = k1.h.elem r e := by rw [gk]; rfl
    show g.elem r e = _
    rw [e1, this]
    cases dst with
    | reg d =>
      simp only [Hart.withElems]
      have : ∀ e, (h.live b f.mask e && decide (e < b.env.vl)) = h.live b f.mask e := by
        intro e; unfold Hart.live; by_cases h1 : e < b.env.vl <;> simp [h1]
      simp [this]
    | mask c => rfl
  · intro j e _ _ he
    exact gm j e he
  · show g.l = h.l
    rw [gk]; exact P1.lists
  · show g.sc = _
    rw [gk]; exact P1.sc
  · rfl
  · intro hn
    show g.gen = h.gen
    rw [gk]; exact P1.same hn
  · have hf := P1.frame
    rw [gk]
    exact hf

end Sys2Proof.Machine
end

