-- ==== Sys2Proof/Tests/Slice0.lean ====
section
/-! SUPPORT. Tests: well-formedness refuses each ill-formed field, the words that the spec writes out decode to what they stand for, single
steps give the results that the spec's tables state, and the hypotheses of every statement are met by a concrete state. -/
namespace Sys2Proof.Tests

open Sys2Proof.Machine

/-! ### Ill-formed terms are refused: one for each check of WellFormed -/

/-- A VR word's fields with vd, va, vb and vc; nothing else set. -/
def vr (vd va vb vc : BitVec 7) : VR := ⟨vd, va, vb, vc, 0, false, 0, false, false, false, 0, 0⟩

/-- A VM word's fields with vd, base, idx and the format; nothing else set. -/
def vm (vd : BitVec 7) (base : BitVec 5) (idx : BitVec 7) (fmt : BitVec 6) : VM := ⟨vd, base, idx, 0, fmt, 0, 0, 0, 0, 0⟩

/-- A VQ word's fields. -/
def vq (vd co : BitVec 7) (mode : BitVec 6) (k : BitVec 10) : VQ := ⟨vd, co, 0, 0, false, 0, 0, mode, k⟩

theorem test_wf_good : ([.vaddFp false (vr 1 2 3 0), .vld (vm 1 4 0 0), .qdot (vq 1 2 0 0), .bar 95 4, .vcmp 2 5 (vr 127 1 2 15)] : List Instr).all (·.wf) = true := by
  decide
theorem test_wf_mask : (Instr.vaddFp false { vr 1 2 3 0 with mask := 20 }).wf = false := by decide
theorem test_wf_source_none : (Instr.vsqrt false (vr 1 2 3 0)).wf = false := by decide
theorem test_wf_source_any : (Instr.vaddFp false (vr 1 76 3 0)).wf = false := by decide
theorem test_wf_source_vreg : (Instr.mfromv (vr 1 64 0 0)).wf = false := by decide
theorem test_wf_source_sreg : (Instr.vslideup (vr 1 2 79 0)).wf = false := by decide
theorem test_wf_source_mask : (Instr.mnot (vr 1 16 0 0)).wf = false := by decide
theorem test_wf_source_dmask : (Instr.vcmp 0 0 (vr 127 2 3 0)).wf = false := by decide
theorem test_wf_wait : (Instr.vaddFp false { vr 1 80 3 0 with wa := true }).wf = false := by decide
theorem test_wf_destination_std : (Instr.vaddFp false (vr 72 2 3 0)).wf = false := by decide
theorem test_wf_destination_whole : (Instr.vcompress (vr 64 2 0 0)).wf = false := by decide
theorem test_wf_destination_single : (Instr.vredsumF32 (vr 64 2 0 0)).wf = false := by decide
theorem test_wf_destination_scalar : (Instr.mpop (vr 127 2 0 0)).wf = false := by decide
theorem test_wf_destination_vector : (Instr.mtov (vr 80 2 0 0)).wf = false := by decide
theorem test_wf_destination_pair : (Instr.vtopk (vr 63 2 3 80)).wf = false := by decide
theorem test_wf_destination_mask : (Instr.mset (vr 0 0 0 0)).wf = false := by decide
theorem test_wf_destination_list : (Instr.mlist (vr 4 1 0 0)).wf = false := by decide
theorem test_wf_destination_127 : (Instr.vcmp 0 0 (vr 1 2 3 1)).wf = false := by decide
theorem test_wf_rounding_reserved : (Instr.vaddFp false { vr 1 2 3 0 with rnd := 6 }).wf = false := by decide
theorem test_wf_rounding_zero : (Instr.vaddI32 { vr 1 2 3 0 with rnd := 1 }).wf = false := by decide
theorem test_wf_rounding_sum : (Instr.vredsumF32 { vr 1 2 0 0 with rnd := 5 }).wf = false := by decide
theorem test_wf_saturation_reserved : (Instr.vaddI32 { vr 1 2 3 0 with sat := 3 }).wf = false := by decide
theorem test_wf_saturation_absent : (Instr.vmulh { vr 1 2 3 0 with sat := 1 }).wf = false := by decide
theorem test_wf_exception_mask_zero : (Instr.vaddFp false { vr 1 2 3 0 with xm := true }).wf = false := by decide
theorem test_wf_exception_mask_absent : (Instr.vand { vr 1 2 3 0 with xm := true, xd := 1 }).wf = false := by decide
theorem test_wf_exception_mask_clear : (Instr.vaddFp false { vr 1 2 3 0 with xd := 1 }).wf = false := by decide
theorem test_wf_barrier : (Instr.bar 96 4).wf = false := by decide
theorem test_wf_xwake : (Instr.xwake 4 0).wf = false := by decide
theorem test_wf_shift_amount : (Instr.vshli ⟨1, 2, 0, false, 32⟩).wf = false := by decide
theorem test_wf_condition : (Instr.vcmp 2 6 (vr 127 1 2 1)).wf = false := by decide
theorem test_wf_format : (Instr.vld (vm 1 4 0 12)).wf = false := by decide
theorem test_wf_format_family : (Instr.vld (vm 1 4 0 40)).wf = false := by decide
theorem test_wf_scale_format : (Instr.vld { vm 1 4 0 0 with scale := 2 }).wf = false := by decide
theorem test_wf_scale_store : (Instr.vst { vm 1 4 0 3 with scale := 4 }).wf = false := by decide
theorem test_wf_scale_base : (Instr.vld { vm 1 15 0 3 with scale := 2 }).wf = false := by decide
theorem test_wf_scale_register : (Instr.vld { vm 63 4 0 3 with scale := 3 }).wf = false := by decide
theorem test_wf_load_destination : (Instr.vld (vm 64 4 0 0)).wf = false := by decide
theorem test_wf_load_index : (Instr.vld (vm 1 4 1 0)).wf = false := by decide
theorem test_wf_stride : (Instr.vlds (vm 1 4 32 0)).wf = false := by decide
theorem test_wf_index : (Instr.vldx (vm 1 4 64 0)).wf = false := by decide
theorem test_wf_index_unit : (Instr.cadd { vm 1 4 126 0 with scope := 3 }).wf = false := by decide
theorem test_wf_accumulator : (Instr.mdrain (vm 1 4 4 0)).wf = false := by decide
theorem test_wf_scope_load : (Instr.vld { vm 1 4 0 0 with scope := 1 }).wf = false := by decide
theorem test_wf_segments : (Instr.vldseg (vm 1 4 127 0)).wf = false := by decide
theorem test_wf_append_base : (Instr.vappend (vm 127 31 0 11)).wf = false := by decide
theorem test_wf_append_destination : (Instr.vappend (vm 1 4 0 11)).wf = false := by decide
theorem test_wf_vamo_format : (Instr.vamoAdd 0 (vm 1 4 2 0)).wf = false := by decide
theorem test_wf_vamo_swap : (Instr.vamoSwap 0 (vm 80 4 2 7)).wf = false := by decide
theorem test_wf_row_format : (Instr.mfill (vm 1 4 0 7)).wf = false := by decide
theorem test_wf_cadd_scope : (Instr.cadd { vm 1 4 127 0 with scope := 2 }).wf = false := by decide
theorem test_wf_prefetch : (Instr.vpref (vm 1 4 0 0)).wf = false := by decide
theorem test_wf_qdot_mode : (Instr.qdot (vq 1 2 2 0)).wf = false := by decide
theorem test_wf_qwsum_k : (Instr.qwsum (vq 1 2 0 1)).wf = false := by decide
theorem test_wf_qfsum_key : (Instr.qfsum (vq 1 2 0 0)).wf = false := by decide
theorem test_wf_qmaxi_mode : (Instr.qmaxi (vq 1 2 1 0)).wf = false := by decide
theorem test_wf_qtopk_pair : (Instr.qtopk (vq 63 2 0 1)).wf = false := by decide
theorem test_wf_qhist_bins : (Instr.qhist (vq 1 2 0 0)).wf = false := by decide

/-! ### The words that the spec writes out -/

theorem test_decode_add : decodeTableWord 32 0x04642800 = some (.add 3 4 5) := by decide
theorem test_decode_sub : decodeTableWord 32 0x05A52001 = some (.sub 13 5 4) := by decide
theorem test_decode_mulh : decodeTableWord 32 0x054B6003 = some (.mulh 10 11 12) := by decide
theorem test_decode_divn : decodeTableWord 32 0x04642806 = some (.divn 3 4 5) := by decide
theorem test_decode_seq : decodeTableWord 32 0x05CB0017 = some (.seq 14 11 0) := by decide
theorem test_decode_clz : decodeTableWord 32 0x04640019 = some (.clz 3 4) := by decide
theorem test_decode_ffma : decodeTableWord 32 0x08432003 = some (.ffma 2 3 4) := by decide
theorem test_decode_fcvt_i64_f32 : decodeTableWord 32 0x08A6000A = some (.fcvtI64F32 5 6) := by decide
theorem test_decode_addi : decodeTableWord 32 0x0CE7FFF8 = some (.addi 7 7 0xFFF8) := by decide
theorem test_decode_andi : decodeTableWord 32 0x13093FFF = some (.andi 24 9 0x3FFF) := by decide
theorem test_decode_ori : decodeTableWord 32 0x16B50004 = some (.ori 21 21 4) := by decide
theorem test_decode_sltni : decodeTableWord 32 0x20640064 = some (.sltni 3 4 0x64) := by decide
theorem test_decode_shli : decodeTableWord 32 0x252D000D = some (.shli 9 13 13) := by decide
theorem test_decode_shri : decodeTableWord 32 0x25694010 = some (.shri 11 9 16) := by decide
theorem test_decode_srai : decodeTableWord 32 0x24E78003 = some (.srai 7 7 3) := by decide
theorem test_decode_lih : decodeTableWord 32 0x2A013F00 = some (.lih 16 1 0x3F00) := by decide
theorem test_decode_pcadd : decodeTableWord 32 0x2CE027EC = some (.pcadd 7 0x27EC) := by decide
theorem test_decode_b_lt : decodeTableWord 32 0x30855FFD = some (.bLt 4 5 0x1FFD) := by decide
theorem test_decode_b_gen : decodeTableWord 32 0x3085A00A = some (.bGen 4 5 10) := by decide
theorem test_decode_b_ne : decodeTableWord 32 0x31203FEE = some (.bNe 9 0 0x1FEE) := by decide
theorem test_decode_jal : decodeTableWord 32 0x34000040 = some (.jal 64) := by decide
theorem test_decode_jmp : decodeTableWord 32 0x3BFFFFFB = some (.jmp 0x3FFFFFB) := by decide
theorem test_decode_jalr : decodeTableWord 32 0x3C010000 = some (.jalr 0 1 0) := by decide
theorem test_decode_ld_d : decodeTableWord 32 0x40C5C008 = some (.ldD 6 5 0 8) := by decide
theorem test_decode_ld_h : decodeTableWord 32 0x41246003 = some (.ldH 9 4 0 3) := by decide
theorem test_decode_ld_wn : decodeTableWord 32 0x41028600 = some (.ldWn 8 2 3 0) := by decide
theorem test_decode_st_w : decodeTableWord 32 0x44C581FE = some (.stW 6 5 0 0x1FE) := by decide
theorem test_decode_st_d : decodeTableWord 32 0x4569C001 = some (.stD 11 9 0 1) := by decide
theorem test_decode_crd : decodeTableWord 32 0x492000B0 = some (.crd 9 0x00B) := by decide
theorem test_decode_cwr : decodeTableWord 32 0x48030051 = some (.cwr 0x005 3) := by decide
theorem test_decode_crs : decodeTableWord 32 0x492A0062 = some (.crs 9 0x006 10) := by decide
theorem test_decode_vsetvl : decodeTableWord 32 0x4CE46000 = some (.vsetvl 7 4 12) := by decide
theorem test_decode_vcfg : decodeTableWord 32 0x4D2A0001 = some (.vcfg 9 10) := by decide
theorem test_decode_vsync : decodeTableWord 32 0x4C000002 = some .vsync := by decide
theorem test_decode_amo_add : decodeTableWord 32 0x5085305A = some (.amoAdd 4 5 6 ⟨true, 3, 2⟩) := by decide
theorem test_decode_amo_cas : decodeTableWord 32 0x50E94489 = some (.amoCas 7 9 8 ⟨false, 1, 1⟩) := by decide
theorem test_decode_join : decodeTableWord 32 0x54040000 = some (.join 4) := by decide
theorem test_decode_leave : decodeTableWord 32 0x54040001 = some (.leave 4) := by decide
theorem test_decode_grank : decodeTableWord 32 0x54A40002 = some (.grank 5 4) := by decide
theorem test_decode_step : decodeTableWord 32 0x54040003 = some (.step 4) := by decide
theorem test_decode_pbind : decodeTableWord 32 0x540A2004 = some (.pbind 10 4) := by decide
theorem test_decode_punbind : decodeTableWord 32 0x540A0005 = some (.punbind 10) := by decide
theorem test_decode_bar : decodeTableWord 32 0x54060116 = some (.bar 17 6) := by decide
theorem test_decode_bara : decodeTableWord 32 0x54060117 = some (.bara 17 6) := by decide
theorem test_decode_barw : decodeTableWord 32 0x54000118 = some (.barw 17) := by decide
theorem test_decode_gbar : decodeTableWord 32 0x54040009 = some (.gbar 4) := by decide
theorem test_decode_fence_c : decodeTableWord 32 0x58030003 = some (.fenceC 3 3) := by decide
theorem test_decode_fork_m : decodeTableWord 32 0x5C042800 = some (.forkM 4 5) := by decide
theorem test_decode_fork_c : decodeTableWord 32 0x5C042801 = some (.forkC 4 5) := by decide
theorem test_decode_fork_h : decodeTableWord 32 0x5D242803 = some (.forkH 9 4 5) := by decide
theorem test_decode_rdv_m : decodeTableWord 32 0x5C010002 = some .rdvM := by decide
theorem test_decode_rdv_mc : decodeTableWord 32 0x5C030002 = some .rdvMc := by decide
theorem test_decode_halt : decodeTableWord 32 0x5C000004 = some .halt := by decide
theorem test_decode_sbind : decodeTableWord 32 0x604A5800 = some (.sbind 2 10 11) := by decide
theorem test_decode_scpy : decodeTableWord 32 0x606A5801 = some (.scpy 3 10 11) := by decide
theorem test_decode_scpy_seg : decodeTableWord 32 0x600A5805 = some (.scpySeg 0 10 11) := by decide
theorem test_decode_swait : decodeTableWord 32 0x60000052 = some (.swait 0x0A) := by decide
theorem test_decode_scancel : decodeTableWord 32 0x60600003 = some (.scancel 3) := by decide
theorem test_decode_squery : decodeTableWord 32 0x61201804 = some (.squery 9 3) := by decide
theorem test_decode_qdesc : decodeTableWord 32 0x642A5800 = some (.qdesc 1 10 11) := by decide
theorem test_decode_creloc : decodeTableWord 32 0x640C6801 = some (.creloc 12 13) := by decide
theorem test_decode_xlook : decodeTableWord 32 0x68A40000 = some (.xlook 5 4) := by decide
theorem test_decode_xpark : decodeTableWord 32 0x68C41801 = some (.xpark 6 4 3) := by decide
theorem test_decode_xwake : decodeTableWord 32 0x68E02802 = some (.xwake 7 5) := by decide
theorem test_decode_xlayer : decodeTableWord 32 0x69000003 = some (.xlayer 8) := by decide
theorem test_decode_xrepl : decodeTableWord 32 0x68044804 = some (.xrepl 4 9) := by decide
theorem test_decode_xhint : decodeTableWord 32 0x68045005 = some (.xhint 4 10) := by decide
theorem test_decode_mld_w : decodeTableWord 32 0x6C042800 = some (.mldW 4 5) := by decide
theorem test_decode_mld_a : decodeTableWord 32 0x6C063801 = some (.mldA 6 7) := by decide
theorem test_decode_mma : decodeTableWord 32 0x6C484802 = some (.mma 2 8 9) := by decide
theorem test_decode_mzero : decodeTableWord 32 0x6C200003 = some (.mzero 1) := by decide
theorem test_decode_mst : decodeTableWord 32 0x6C6A0004 = some (.mst 3 10) := by decide
theorem test_decode_mcfg : decodeTableWord 32 0x6C0B0005 = some (.mcfg 11) := by decide
theorem test_decode_mwait : decodeTableWord 32 0x6C000006 = some .mwait := by decide
theorem test_decode_mscale : decodeTableWord 32 0x6C0C6807 = some (.mscale 12 13) := by decide
theorem test_decode_trap : decodeTableWord 32 0x70040000 = some (.trap 4) := by decide
theorem test_decode_eret : decodeTableWord 32 0x70000001 = some .eret := by decide
theorem test_decode_tlbinv : decodeTableWord 32 0x70050002 = some (.tlbinv 5) := by decide
theorem test_decode_ctxsave : decodeTableWord 32 0x70050003 = some (.ctxsave 5) := by decide
theorem test_decode_ctxload : decodeTableWord 32 0x70050004 = some (.ctxload 5) := by decide
theorem test_decode_logmark : decodeTableWord 32 0x70060005 = some (.logmark 6) := by decide
theorem test_decode_brk : decodeTableWord 32 0x70000006 = some .brk := by decide
theorem test_decode_klaunch : decodeTableWord 32 0x70A60007 = some (.klaunch 5 6) := by decide
theorem test_decode_kwait : decodeTableWord 32 0x70060008 = some (.kwait 6) := by decide
theorem test_decode_kkill : decodeTableWord 32 0x70060009 = some (.kkill 6) := by decide
theorem test_decode_kprio : decodeTableWord 32 0x7006380A = some (.kprio 6 7) := by decide
theorem test_decode_waitm : decodeTableWord 32 0x75250000 = some (.waitm 9 5 0 0) := by decide
theorem test_decode_vf : decodeTableWord 32 0x78000004 = some (.vf 4) := by decide
theorem test_decode_vfma_bf16 : decodeTableWord 64 0x0208041031DC1203 = some (.vfma true ⟨4, 1, 2, 3, 3, true, 7, false, false, false, 1, 0⟩) := by decide
theorem test_decode_vadd_f32_queue : decodeTableWord 64 0x0210224008827000 = some (.vaddFp false ⟨8, 8, 72, 0, 0x11, false, 0, true, false, false, 7, 0⟩) := by decide
theorem test_decode_vdiv : decodeTableWord 64 0x020A183800483006 = some (.vdiv false ⟨5, 6, 7, 0, 0, true, 2, false, false, false, 3, 0⟩) := by decide
theorem test_decode_vexp2 : decodeTableWord 64 0x0306240000007200 = some (.vexp2 ⟨3, 9, 0, 0, 0, false, 0, false, false, false, 7, 0⟩) := by decide
theorem test_decode_vcvt_i32_f32 : decodeTableWord 64 0x0404040000001002 = some (.vcvtI32F32 ⟨2, 1, 0, 0, 0, false, 0, false, false, false, 1, 0⟩) := by decide
theorem test_decode_vcvt_f32_i32 : decodeTableWord 64 0x0406240000007001 = some (.vcvtF32I32 ⟨3, 9, 0, 0, 0, false, 0, false, false, false, 7, 0⟩) := by decide
theorem test_decode_vadd_i32 : decodeTableWord 64 0x050812A000000400 = some (.vaddI32 ⟨4, 4, 84, 0, 0, false, 0, false, false, false, 0, 1⟩) := by decide
theorem test_decode_vaddi : decodeTableWord 64 0x06122480FFFFFFFF = some (.vaddi ⟨9, 9, 4, false, 0xFFFFFFFF⟩) := by decide
theorem test_decode_vandi : decodeTableWord 64 0x061224010000003F = some (.vandi ⟨9, 9, 0, false, 63⟩) := by decide
theorem test_decode_vshri : decodeTableWord 64 0x06060C0500000007 = some (.vshri ⟨3, 3, 0, false, 7⟩) := by decide
theorem test_decode_vcmp_i32 : decodeTableWord 64 0x07FE081850000204 = some (.vcmp 2 4 ⟨127, 2, 3, 5, 0, false, 0, false, false, false, 0, 0⟩) := by decide
theorem test_decode_vcmp_n32 : decodeTableWord 64 0x07FE22B050000302 = some (.vcmp 3 2 ⟨127, 8, 86, 5, 0, false, 0, false, false, false, 0, 0⟩) := by decide
theorem test_decode_mpop : decodeTableWord 64 0x08A2140000000007 = some (.mpop ⟨81, 5, 0, 0, 0, false, 0, false, false, false, 0, 0⟩) := by decide
theorem test_decode_mlist : decodeTableWord 64 0x0802140000000009 = some (.mlist ⟨1, 5, 0, 0, 0, false, 0, false, false, false, 0, 0⟩) := by decide
theorem test_decode_vcompress : decodeTableWord 64 0x090C080002800000 = some (.vcompress ⟨6, 2, 0, 0, 5, false, 0, false, false, false, 0, 0⟩) := by decide
theorem test_decode_vid : decodeTableWord 64 0x0910000000000006 = some (.vid ⟨8, 0, 0, 0, 0, false, 0, false, false, false, 0, 0⟩) := by decide
theorem test_decode_vmv : decodeTableWord 64 0x0905440000000007 = some (.vmv ⟨2, 81, 0, 0, 0, false, 0, false, false, false, 0, 0⟩) := by decide
theorem test_decode_vsel : decodeTableWord 64 0x0905469020000008 = some (.vsel ⟨2, 81, 82, 2, 0, false, 0, false, false, false, 0, 0⟩) := by decide
theorem test_decode_vredsum : decodeTableWord 64 0x0AA4100000007000 = some (.vredsumF32 ⟨82, 4, 0, 0, 0, false, 0, false, false, false, 7, 0⟩) := by decide
theorem test_decode_vtopk : decodeTableWord 64 0x0B140C2500000001 = some (.vtopk ⟨10, 3, 4, 80, 0, false, 0, false, false, false, 0, 0⟩) := by decide
theorem test_decode_xcount : decodeTableWord 64 0x0C180EA000000000 = some (.xcount ⟨12, 3, 84, 0, 0, false, 0, false, false, false, 0, 0⟩) := by decide
theorem test_decode_xcsel : decodeTableWord 64 0x0C2002A800800001 = some (.xcsel ⟨16, 0, 85, 0, 1, false, 0, false, false, false, 0, 0⟩) := by decide
theorem test_decode_vld : decodeTableWord 64 0x1090500000000002 = some (.vld ⟨72, 5, 0, 0, 0, 0, 0, 0, 0, 2⟩) := by decide
theorem test_decode_vld_scaled : decodeTableWord 64 0x101480000C000300 = some (.vld ⟨10, 8, 0, 0, 3, 0, 0, 0, 3, 0⟩) := by decide
theorem test_decode_vst : decodeTableWord 64 0x110C7002054050FF = some (.vst ⟨6, 7, 0, 2, 1, 5, 0, 0x0A, 0, 0xFF⟩) := by decide
theorem test_decode_vlds : decodeTableWord 64 0x120650C014000000 = some (.vlds ⟨3, 5, 6, 0, 5, 0, 0, 0, 0, 0⟩) := by decide
theorem test_decode_vldx : decodeTableWord 64 0x1492412204000000 = some (.vldx ⟨73, 4, 9, 2, 1, 0, 0, 0, 0, 0⟩) := by decide
theorem test_decode_vldff : decodeTableWord 64 0x160850001C000000 = some (.vldff ⟨4, 5, 0, 0, 7, 0, 0, 0, 0, 0⟩) := by decide
theorem test_decode_vldseg : decodeTableWord 64 0x1710504000100000 = some (.vldseg ⟨8, 5, 2, 0, 0, 0, 2, 0, 0, 0⟩) := by decide
theorem test_decode_vappend : decodeTableWord 64 0x18FEC0052C000000 = some (.vappend ⟨127, 12, 0, 5, 0x0B, 0, 0, 0, 0, 0⟩) := by decide
theorem test_decode_mdrain : decodeTableWord 64 0x1908602000000000 = some (.mdrain ⟨4, 6, 1, 0, 0, 0, 0, 0, 0, 0⟩) := by decide
theorem test_decode_mfill : decodeTableWord 64 0x1A0E900204000000 = some (.mfill ⟨7, 9, 0, 2, 1, 0, 0, 0, 0, 0⟩) := by decide
theorem test_decode_vamo_add : decodeTableWord 64 0x1B0850C01C180008 = some (.vamoAdd 2 ⟨4, 5, 6, 0, 7, 0, 3, 0, 0, 0⟩) := by decide
theorem test_decode_vamo_swap : decodeTableWord 64 0x1B1250C22C080080 = some (.vamoSwap 0 ⟨9, 5, 6, 2, 0x0B, 0, 1, 0, 0, 0⟩) := by decide
theorem test_decode_cadd : decodeTableWord 64 0x1C0850C000180000 = some (.cadd ⟨4, 5, 6, 0, 0, 0, 3, 0, 0, 0⟩) := by decide
theorem test_decode_cadd_unit : decodeTableWord 64 0x1C0E8FE01C380002 = some (.cadd ⟨7, 8, 127, 0, 7, 0, 7, 0, 0, 2⟩) := by decide
theorem test_decode_vpref : decodeTableWord 64 0x1DFE500000000004 = some (.vpref ⟨127, 5, 0, 0, 0, 0, 0, 0, 0, 4⟩) := by decide
theorem test_decode_qdot : decodeTableWord 64 0x20140D0000010000 = some (.qdot ⟨10, 3, 1, 0, false, 0, 0, 1, 0⟩) := by decide
theorem test_decode_qdot_after : decodeTableWord 64 0x20140D00C1010000 = some (.qdot ⟨10, 3, 1, 0, false, 3, 4, 1, 0⟩) := by decide
theorem test_decode_qwsum : decodeTableWord 64 0x2118101000000000 = some (.qwsum ⟨12, 4, 0, 2, false, 0, 0, 0, 0⟩) := by decide
theorem test_decode_qfsum : decodeTableWord 64 0x2219520000040000 = some (.qfsum ⟨12, 84, 2, 0, false, 0, 0, 4, 0⟩) := by decide
theorem test_decode_qmaxi : decodeTableWord 64 0x23100C0000000000 = some (.qmaxi ⟨8, 3, 0, 0, false, 0, 0, 0, 0⟩) := by decide
theorem test_decode_qtopk : decodeTableWord 64 0x24280F0000000010 = some (.qtopk ⟨20, 3, 3, 0, false, 0, 0, 0, 16⟩) := by decide
theorem test_decode_qhist : decodeTableWord 64 0x250C140000000020 = some (.qhist ⟨6, 5, 0, 0, false, 0, 0, 0, 32⟩) := by decide
theorem test_decode_vstop : decodeTableWord 64 0x0100000000000000 = some .vstop := by decide


/-! ### Words that are no instruction -/

theorem test_decode_zero : decodeTableWord 32 0 = none := by decide
theorem test_decode_reserved_alu : decodeTableWord 32 0x04642822 = none := by decide            -- fn 34 of major 0x01 (R104)
theorem test_decode_unary_b : decodeTableWord 32 0x04642819 = none := by decide                 -- clz with b not zero (R79)
theorem test_decode_shift_kind : decodeTableWord 32 0x24E70043 = none := by decide              -- a bit between kind and amount (R79)
theorem test_decode_control_op : decodeTableWord 32 0x492000B4 = none := by decide              -- op 4 of major 0x12 (R113)
theorem test_decode_vector_major : decodeTableWord 64 0x0000000000000000 = none := by decide    -- major 0 (R94)
theorem test_decode_vm_format : decodeTableWord 64 0x1090500030000002 = none := by decide       -- format 12 (R25)

/-! ### States for the witnesses -/

/-- A scalar side at 0x10000 with registers as listed. -/
def regs (l : List (Nat × Nat)) : Scalar :=
  { Scalar.launch 0x10000 with x := l.foldl (fun v p => v.setIfInBounds p.1 (BitVec.ofNat 64 p.2)) (Vector.replicate 32 0) }

/-- Hart 0 of kernel 0 of context 0. -/
def hart (l : List (Nat × Nat)) : Hart := { Hart.launch 0 0 0 32 64 0x10000 0 0 0 0 with sc := regs l }

/-- A leaf entry with R, W and X: its kind, its physical frame. -/
def leaf (kind frame : Nat) : Word := BitVec.ofNat 64 (3 * 2 ^ 62 + kind * 2 ^ 59 + frame + 0xE00)

/-- Translations kept for context 0: working memory at 0x10000, the Cellar at 0x20000 and 0x30000, a scratchpad at 0x40000, a plane store
at 0x50000. -/
def pages : List TlbEntry :=
  [⟨0, 0x10000, 16, leaf 0 0x10000⟩, ⟨0, 0x20000, 16, leaf 1 (2 ^ 40)⟩, ⟨0, 0x30000, 16, leaf 1 (2 ^ 40 + 0x10000)⟩, ⟨0, 0x40000, 12, leaf 2 0⟩,
   ⟨0, 0x50000, 12, leaf 7 0⟩]

/-- Kernel 0 of context 0, which runs with n of its harts placed. -/
def kernel (n : Nat) : Kernel :=
  { ctx := 0, kid := 0, die := 0, state := .running, image := 0x10000, args := 0, n := n, prio := 0, budget := 0, after := [], done := 0, trans := [],
    nregs := 32, lanes := 64, scratch := 0, elastic := false, entry := 0, text := [], placed := n, nextHart := n, count := 0, refresh := 0, retry := 0,
    broken := false, readyAt := 0, aged := 0, order := 0, launched := 0, doomed := none }

/-- A part that has booted, with a resident context 0 and kernel 0, and a hart on slot 0 whose turn it is. -/
def at' (h : Hart) : State :=
  { State.reset with stage := 5, ctxs := [(0, { Context.reset with state := 1 })], kernels := [kernel 1], harts := [(0, h)], tlb := pages, cur := .vec 0 }

/-- The same part with core 0 on turn. -/
def onCore (c : Scalar) : State := { at' (hart []) with dies := Vector.replicate 4 { Die.reset with running := true, core := c }, cur := .scc 0 }

/-- A matrix program of the hart on slot 0, with accumulators 0 and 1 claimed. -/
def program (c : Scalar) : Mcc := ⟨0, 0, 0, c, true, 0, 3, 0, 32, 0, 0⟩

/-- The same part with the matrix control core of cluster 0 on turn. -/
def onMatrix (m : Mcc) (fill arr : List MatOp) : State :=
  { at' (hart []) with clusters := [(0, { Cluster.reset with mcc := some m, fillq := fill, arrq := arr })], cur := .mcc 0 }

/-- A copy program of the hart on slot 0. -/
def copier (c : Scalar) : CopySeq := ⟨0, 0, 0, c, true, 0, Vector.replicate 8 Token.idle, Vector.replicate 8 none, 0⟩

/-- The same part with the copy sequencer of cluster 0 on turn. -/
def onCopier (q : CopySeq) : State := { at' (hart []) with clusters := [(0, { Cluster.reset with seq := some q })], cur := .seq 0 }

/-- A record's bytes at a key. -/
def withBytes (s : State) (k : Nat) (bs : List Byte) : State := s.poke k bs

theorem issues {s : State} {c : Scalar} {u : Unit83} {ds srcs : List Reg} (a : s.scalar s.cur = some c) (b : unitCause s.cur u = none)
    (w : (ds.all fun r => !(Ctx.mk s s.cur c).regBusy r) = true) (r : (srcs.all fun r => !(Ctx.mk s s.cur c).readBusy r) = true) :
    s.Issues c u ds srcs :=
  ⟨a, b, fun x hx => by simpa using List.all_eq_true.mp w x hx, fun x hx => by simpa using List.all_eq_true.mp r x hx⟩

/-! ### Witnesses: the hypotheses of the statements about scalar words are met -/

/-- IntegerRegisterWords, UnaryAndImmediateWords: every register ready; b = 0, and MIN by -1, among the operands. -/
theorem witness_IntegerRegisterWords : (at' (hart [(4, 7)])).Issues (regs [(4, 7)]) .common [3] [4, 5] ∧
    (let c := regs [(4, 0x8000000000000000), (5, 0xFFFFFFFFFFFFFFFF)]
     (at' (hart [(4, 0x8000000000000000), (5, 0xFFFFFFFFFFFFFFFF)])).Issues c .common [3] [4, 5] ∧ c.get 5 = 0xFFFFFFFFFFFFFFFF) :=
  ⟨issues rfl rfl (by decide) (by decide), issues rfl rfl (by decide) (by decide), by decide⟩

theorem witness_UnaryAndImmediateWords : (at' (hart [(4, 7)])).Issues (regs [(4, 7)]) .common [3] [4] := issues rfl rfl (by decide) (by decide)

/-- Branches: each condition holds and fails, and a hart's transfers go anywhere. -/
theorem witness_Branches : (at' (hart [(4, 7), (5, 7)])).Issues (regs [(4, 7), (5, 7)]) .common [] [4, 5] ∧
    (at' (hart [(4, 7), (5, 7)])).mayJump (regs [(4, 7), (5, 7)]) 0x10040 = true ∧ (regs [(4, 7), (5, 7)]).get 4 = (regs [(4, 7), (5, 7)]).get 5 ∧
    (at' (hart [(4, 7), (5, 8)])).Issues (regs [(4, 7), (5, 8)]) .common [] [4, 5] ∧ (regs [(4, 7), (5, 8)]).get 4 ≠ (regs [(4, 7), (5, 8)]).get 5 :=
  ⟨issues rfl rfl (by decide) (by decide), by decide, by decide, issues rfl rfl (by decide) (by decide), by decide⟩

/-- Jumps: an aligned and a misaligned target of a hart; a core whose area at 0x1000 keeps it to position 0. -/
theorem witness_Jumps : (at' (hart [(4, 0x20000)])).Issues (regs [(4, 0x20000)]) .common [3] [4] ∧
    (at' (hart [(4, 0x20000)])).mayJump (regs [(4, 0x20000)]) 0x20000 = true ∧
    (at' (hart [(4, 0x20002)])).Issues (regs [(4, 0x20002)]) .common [3] [4] ∧ ((regs [(4, 0x20002)]).get 4).toNat % 4 ≠ 0 ∧
    (let s : State := { onCore (regs [(4, 0x1004)]) with dies := Vector.replicate 4 { Die.reset with running := true, core := regs [(4, 0x1004)], lpVa := 0x1000 } }
     s.cur = .scc 0 ∧ s.Issues (regs [(4, 0x1004)]) .common [] [] ∧ s.mayJump (regs [(4, 0x1004)]) 0x1004 = false ∧
       s.mayJump (regs [(4, 0x1004)]) 0x1000 = true) :=
  ⟨issues rfl rfl (by decide) (by decide), by decide, issues rfl rfl (by decide) (by decide), by decide, rfl, issues rfl rfl (by decide) (by decide), by decide, by decide⟩

/-- ScalarFloatWords, ScalarCompareConvert: no flag enabled, and every flag enabled with NV raised. -/
theorem witness_ScalarFloatWords : (at' (hart [(4, 0x3F800000)])).Issues (regs [(4, 0x3F800000)]) .common [3] [4, 5] ∧
    flagTraps (regs [(4, 0x3F800000)]).fflags flagNX = false ∧ flagTraps 0x3E0 flagNV = true := ⟨issues rfl rfl (by decide) (by decide), by decide, by decide⟩

/-- ScalarCompareConvert: a NaN, an infinity, a value inside and at both ends of the 64-bit range. -/
theorem witness_ScalarCompareConvert : (f32 0x7FC00000).isNaN = true ∧ f32 0x7F800000 = .inf false ∧ f32 0xFF800000 = .inf true ∧
    f32 0x5F000000 = .fin false 0x800000 40 ∧ f32 0xDF000000 = .fin true 0x800000 40 ∧ f32 0xDF000001 = .fin true 0x800001 40 ∧
    f32 0x3F800000 = .fin false 0x800000 (-23) := by decide

/-- RepresentableValuesRoundToThemselves: the largest finite code of BF16, a negative zero of FP32, the smallest code of FP16; infinities are no such codes. -/
theorem witness_RepresentableValuesRoundToThemselves : 0x7F7F < 2 ^ (bf16.signBit + 1) ∧ (bf16.decode 0x7F7F).isFin = true ∧
    (fp32.decode 0x80000000).isFin = true ∧ (fp16.decode 0x0001).isFin = true ∧ (fp32.decode 0xFF800000).isFin = false := by decide

/-- LoadWords: an access of two pieces at 0x1000C, and the last byte of the page. -/
theorem witness_LoadWords : (at' (hart [(4, 0x1000C)])).Issues (regs [(4, 0x1000C)]) .common [3] [4] ∧
    (at' (hart [(4, 0x1000C)])).mayAccess (regs [(4, 0x1000C)]) false 0 0x1000C 8 ∧
    (at' (hart [(4, 0x1000C)])).Reaches ((at' (hart [(4, 0x1000C)])).who (.vec 0)) .load 0x1000C 8
      [(⟨0, 0x1000C, 0⟩, 4), (⟨0, 0x10010, 0⟩, 4)] ∧
    (at' (hart [(4, 0x1000C)])).readError [(⟨0, 0x1000C, 0⟩, 4), (⟨0, 0x10010, 0⟩, 4)] = none ∧
    (at' (hart [(4, 0x1FFFF)])).Reaches ((at' (hart [(4, 0x1FFFF)])).who (.vec 0)) .load 0x1FFFF 1 [(⟨0, 0x1FFFF, 2⟩, 1)] :=
  ⟨issues rfl rfl (by decide) (by decide), ⟨by decide, rfl⟩, ⟨by decide, ⟨rfl, rfl, rfl, rfl, trivial⟩, by decide⟩, by decide, ⟨by decide, ⟨rfl, rfl, trivial⟩, by decide⟩⟩

/-- StoreWords: an access of two pieces outside every region. -/
theorem witness_StoreWords : (at' (hart [(4, 0x1000C)])).Inv ∧ (at' (hart [(4, 0x1000C)])).Issues (regs [(4, 0x1000C)]) .common [] [3, 4] ∧
    (at' (hart [(4, 0x1000C)])).mayAccess (regs [(4, 0x1000C)]) true 0 0x1000C 8 ∧
    (at' (hart [(4, 0x1000C)])).Reaches ((at' (hart [(4, 0x1000C)])).who (.vec 0)) .store 0x1000C 8
      [(⟨0, 0x1000C, 0⟩, 4), (⟨0, 0x10010, 0⟩, 4)] ∧ regionAt (at' (hart [(4, 0x1000C)])).regions 0x1000C = none :=
  ⟨rfl, issues rfl rfl (by decide) (by decide), ⟨by decide, rfl⟩, ⟨by decide, ⟨rfl, rfl, rfl, rfl, trivial⟩, by decide⟩, rfl⟩

/-- UntranslatedAccessTraps: bit 57 of the address, a first piece that does not translate, and a second one. -/
theorem witness_UntranslatedAccessTraps : (at' (hart [(4, 2 ^ 57)])).Issues (regs [(4, 2 ^ 57)]) .common [3] [3, 4] ∧
    ((regs [(4, 2 ^ 57)]).get 4).toNat = 2 ^ 57 ∧
    (at' (hart [(4, 0x8000)])).xlate ((at' (hart [(4, 0x8000)])).who (.vec 0)) .load 0x8000 = .error 4 ∧
    (at' (hart [(4, 0x1FFFC)])).xlate ((at' (hart [(4, 0x1FFFC)])).who (.vec 0)) .load 0x1FFFC = .ok ⟨0, 0x1FFFC, 2⟩ ∧
    (at' (hart [(4, 0x1FFFC)])).xlate ((at' (hart [(4, 0x1FFFC)])).who (.vec 0)) .load 0x20000 = .error 6 ∧ 16 < 0x1FFFC % 16 + 8 :=
  ⟨issues rfl rfl (by decide) (by decide), by decide, rfl, rfl, rfl, by decide⟩

/-- UntranslatedAccessTraps: an access across a 16-byte unit of a host page. -/
theorem witness_UntranslatedAccessTraps_host :
    (let s : State := { at' (hart [(4, 0x7000C)]) with tlb := [⟨0, 0x70000, 16, leaf 4 0⟩] }
     s.Issues (regs [(4, 0x7000C)]) .common [3] [3, 4] ∧ s.mayAccess (regs [(4, 0x7000C)]) false 0 0x7000C 8 ∧ 16 < 0x7000C % 16 + 8 ∧
     ∃ p q, s.xlate (s.who (.vec 0)) .load 0x7000C = .ok p ∧ s.xlate (s.who (.vec 0)) .load 0x70010 = .ok q ∧ p.kind = 4) :=
  ⟨issues rfl rfl (by decide) (by decide), ⟨by decide, rfl⟩, by decide, _, _, rfl, rfl, rfl⟩

/-- A plane store region of 4 KiB at 0x50000, of kernel 0's group 0, with stores pending. -/
def region (rule : Nat) (stores : List PlaneStore) : Region := ⟨false, 0, 0, 4096, rule, 0, 0x18000, 0, 0, 0, 0x50000, stores, 0, [], false⟩

/-- PlaneStoresLeaveThePresent: a store of a member into a region whose rule admits it. -/
theorem witness_PlaneStoresLeaveThePresent :
    (let s : State := { at' (hart [(4, 0x50040)]) with regions := [region 0 []] }
     s.Issues (regs [(4, 0x50040)]) .common [] [3, 4] ∧ s.mayAccess (regs [(4, 0x50040)]) true 0 0x50040 4 ∧
     s.Reaches (s.who (.vec 0)) .store 0x50040 4 [(⟨7, planeKey 0 0x40, 0⟩, 4)] ∧ regionAt s.regions (planeKey 0 0x40) = some (region 0 []) ∧
     planeCause s (s.who (.vec 0)) (region 0 []) 0x40 4 .word4 [] = none ∧ s.linkLost ⟨7, planeKey 0 0x40, 0⟩ = false) :=
  ⟨issues rfl rfl (by decide) (by decide), ⟨by decide, rfl⟩, ⟨by decide, ⟨rfl, rfl, trivial⟩, by decide⟩, rfl, rfl, rfl⟩

/-- AtomicWords: an aligned doubleword of working memory. -/
theorem witness_AtomicWords :
    (let s := at' (hart [(4, 0x10040)])
     s.Inv ∧ s.Issues (regs [(4, 0x10040)]) .amo [3] [4, 5] ∧ (Ctx.mk s s.cur (regs [(4, 0x10040)])).memBusy true 15 0x10040 8 = false ∧ s.dbg.silMode = 0 ∧
     s.xlate (s.who s.cur) .atomic 0x10040 = .ok ⟨0, 0x10040, 0⟩ ∧ s.readError [(⟨0, 0x10040, 0⟩, 8)] = none) :=
  ⟨rfl, issues rfl rfl (by decide) (by decide), by decide, rfl, rfl, rfl⟩

/-- WaitAndFence: a doubleword of 0, compared with 0 and with 1; a hart that waits; a fence on a hart without vector words. -/
theorem witness_WaitAndFence :
    (let s := at' (hart [(4, 0x10040), (5, 1)])
     s.Issues (regs [(4, 0x10040), (5, 1)]) .waitm [3] [4, 5] ∧ (Ctx.mk s s.cur (regs [(4, 0x10040), (5, 1)])).memBusy false 0 0x10040 8 = false ∧
     s.xlate (s.who s.cur) .load 0x10040 = .ok ⟨0, 0x10040, 0⟩ ∧
     (BitVec.ofNat 64 (leNat (Memory.reads s.mem 0x10040 8)) : Word) ≠ (regs [(4, 0x10040), (5, 1)]).get 5 ∧
     (BitVec.ofNat 64 (leNat (Memory.reads s.mem 0x10040 8)) : Word) = (regs [(4, 0x10040), (5, 1)]).get 6) ∧
    (at' (hart [(4, 0x10041)])).Issues (regs [(4, 0x10041)]) .waitm [3] [4, 5] ∧
    (at' { hart [] with waiting := true }).hart 0 = some { hart [] with waiting := true } ∧ (at' (hart [])).Issues (regs []) .common [] [] ∧
    ((at' (hart [])).pendingAny 0 (hart []) fun _ => true) = false ∧ (∀ slot, (onCore (regs [])).cur ≠ .vec slot) :=
  ⟨⟨issues rfl rfl (by decide) (by decide), by decide, rfl, by decide, by decide⟩, issues rfl rfl (by decide) (by decide), rfl, issues rfl rfl (by decide) (by decide), rfl,
   (by intro slot h; cases h)⟩

/-- ControlRegisterWords: a register that is read and written at once (FROUND), and VIDX. -/
theorem witness_ControlRegisterWords :
    (let s := at' (hart [(4, 5)])
     let k : Ctx := ⟨s, s.cur, regs [(4, 5)]⟩
     s.Issues (regs [(4, 5)]) .common [3] [4] ∧ crCause s.cur 4 = none ∧ crCause s.cur 3 = none ∧ (k.crWait 4 = .ok ()) ∧ k.quiet = .ok () ∧
     ∃ k', k.crWrite 4 5 = .ok k') :=
  ⟨issues rfl rfl (by decide) (by decide), rfl, rfl, rfl, rfl, ⟨_, rfl⟩⟩

/-- RegistersOutOfReachTrap: a hart is no core. UnitsRefuseForeignWords: each kind of party. -/
theorem witness_RegistersOutOfReachTrap : (at' (hart [])).Issues (regs []) .common [] [] ∧ (∀ die, (at' (hart [])).cur ≠ .scc die) ∧
    0x800 ∈ supervisorNumbers ∧ 0x881 ∈ supervisorNumbers ∧ 0xB00 ∈ monitorNumbers ∧ 0xC10 ∈ monitorNumbers ∧
    (onCore (regs [])).Issues (regs []) .common [] [] ∧ (onCore (regs [])).cur = .scc 0 ∧
    ∀ n ∈ [0x019, 0x806, 0x8FF, 0xBFF, 0xC11, 0xFFF], n ∉ supervisorNumbers ∧ n ∉ monitorNumbers :=
  ⟨issues rfl rfl (by decide) (by decide), (by intro d h; cases h), by decide, by decide, by decide, by decide, issues rfl rfl (by decide) (by decide), rfl, by decide⟩

theorem witness_UnitsRefuseForeignWords : (at' (hart [])).scalar (at' (hart [])).cur = some (regs []) ∧
    (onMatrix (program (regs [])) [] []).scalar (.mcc 0) = some (regs []) ∧ (onCopier (copier (regs []))).scalar (.seq 0) = some (regs []) ∧
    (onCore (regs [])).scalar (.scc 0) = some (regs []) := ⟨rfl, rfl, rfl, rfl⟩

/-- A block at 0x18000 with a VL, on 32 registers. -/
def block (vl : Nat) : Block :=
  { seq := 1, pc := 0x18000, elem := 0, issued := false, ff := false, cut := 0, parts := [], origin := 0, sent := [], vls := [], perm := [], ahead := [], pins := [], tied := false,
    env := ⟨vl, 32, 0, Vector.replicate 16 0, Vector.replicate 4 none⟩ }

/-- WaitAndFence: a fence behind a vector store of class 2 that is still to come. -/
theorem witness_WaitAndFence_busy :
    (let h : Hart := { hart [] with blocks := [block 4] }
     let s := withBytes (at' h) 0x18000 (leBytes 8 0x110C7002054050FF ++ leBytes 8 0x0100000000000000)
     s.OnHart 0 h ∧ s.pendingAny 0 h (fun u => match u.cls with
       | some k => !u.query && (k == 15 || (0xFFFF : BitVec 16).getLsbD k)
       | none => false) = true) :=
  ⟨⟨rfl, rfl⟩, by decide +kernel⟩

/-- VectorSetupWords: vsetvl at any request; vcfg of a kept, a smaller and an illegal count; a hart with and without unfinished words. -/
theorem witness_VectorSetupWords :
    (at' (hart [(4, 300), (5, 64)])).OnHart 0 (hart [(4, 300), (5, 64)]) ∧
    (at' (hart [(4, 300), (5, 64)])).Issues (hart [(4, 300), (5, 64)]).sc .vecOnly [3] [4, 5] ∧
    (Ctx.mk (at' (hart [(4, 300), (5, 64)])) (.vec 0) (hart [(4, 300), (5, 64)]).sc).ffPending = false ∧ (hart [(4, 300), (5, 64)]).quiet = true ∧
    ((hart [(4, 300), (5, 64)]).sc.get 5).toNat ∈ [8, 16, 32, 64] ∧ ((hart [(4, 300), (5, 64)]).sc.get 4).toNat ∉ [8, 16, 32, 64] ∧
    (hart []).nregs ∈ [8, 16, 32, 64] ∧ (at' { hart [] with blocks := [block 4] }).OnHart 0 { hart [] with blocks := [block 4] } ∧
    ({ hart [] with blocks := [block 4] } : Hart).quiet = false :=
  ⟨⟨rfl, rfl⟩, issues rfl rfl (by decide) (by decide), rfl, rfl, by decide, by decide, by decide, ⟨rfl, rfl⟩, rfl⟩

/-- VfHandsOverABlock: a free place, eight blocks, target 0, and a target whose bit 2 is set. -/
theorem witness_VfHandsOverABlock : (at' (hart [])).OnHart 0 (hart []) ∧
    (hart []).sc.pc + 4 * (2 : BitVec 26).signExtend 64 ≠ 0 ∧ ((hart []).sc.pc + 4 * (2 : BitVec 26).signExtend 64).getLsbD 2 = false ∧
    (Ctx.mk (at' (hart [])) (.vec 0) (hart []).sc).ffPending = false ∧
    8 ≤ ({ hart [] with blocks := List.replicate 8 (block 4) } : Hart).blocks.length ∧
    (hart []).sc.pc + 4 * (-0x4000 : BitVec 26).signExtend 64 = 0 ∧ ((hart []).sc.pc + 4 * (1 : BitVec 26).signExtend 64).getLsbD 2 = true :=
  ⟨⟨rfl, rfl⟩, by decide, by decide, rfl, by decide, by decide, by decide⟩

/-- GroupMembership: groups 0, 1, 1,023 and 1,024; a hart that is not a member, with room. -/
theorem witness_GroupMembership :
    (let h := hart [(4, 1023), (5, 1024), (6, 1)]
     let s := at' h
     s.OnHart 0 h ∧ s.Issues h.sc .vecOnly [3] [4, 5, 6] ∧ s.dbg.silMode = 0 ∧ h.quiet = true ∧ (h.sc.get 4).toNat = 1023 ∧ (h.sc.get 5).toNat = 1024 ∧
     (h.sc.get 6).toNat = 1 ∧ (h.sc.get 0).toNat = 0 ∧ (s.members h.ctx 1 h.kid).length < 2048 ∧ h.groups.length < 16 ∧
     s.stepInProgress h.ctx 1 h.kid = false ∧ s.gbarInProgress h.ctx 1 h.kid = false) :=
  ⟨⟨rfl, rfl⟩, issues rfl rfl (by decide) (by decide), by decide, by decide, by decide, by decide, by decide, by decide, by decide, by decide, by decide, by decide⟩

/-- StepAndGbar: a hart that arrives in group 0, and one that has been let go. -/
theorem witness_StepAndGbar :
    (let h := hart []
     let g := { h with parked := some ⟨0, false, true⟩ }
     (at' h).OnHart 0 h ∧ (at' h).Issues h.sc .vecOnly [] [0] ∧ (at' h).dbg.silMode = 0 ∧ (Ctx.mk (at' h) (at' h).cur h.sc).groupCheck h 0 = .ok () ∧
     h.parked = none ∧ h.quiet = true ∧ (Ctx.mk (at' h) (at' h).cur h.sc).copiesInto h 0 = false ∧
     (at' g).OnHart 0 g ∧ (Ctx.mk (at' g) (at' g).cur g.sc).groupCheck g 0 = .ok () ∧ g.parked = some ⟨0, false, true⟩) :=
  ⟨⟨rfl, rfl⟩, issues rfl rfl (by decide) (by decide), rfl, rfl, rfl, rfl, rfl, ⟨rfl, rfl⟩, rfl, rfl⟩

/-- StepSettlesRegions: a word at the end of its region, the upper nibble of its first byte and the lower nibble of its last. -/
theorem witness_StepSettlesRegions :
    ∀ p ∈ [(⟨4092, [1, 2, 3, 4], 0, 0, 0⟩ : PlaneStore), ⟨0, [0x50], 2, 0, 0⟩, ⟨4095, [5], 1, 0, 0⟩],
     State.Inv { at' (hart []) with regions := [region 0 [p]] } ∧ (region 0 [p]).rule ≠ 1 ∧ (region 0 [p]).stores = [p] :=
  fun _ _ => ⟨rfl, Nat.zero_ne_one, rfl⟩

/-- StepSettlesRegions: under PRIO a store of hart 1, the higher rank, before one of hart 0, and two of hart 0; under FAULT two stores; under SUM two words
whose signed sum leaves i32's range, whose unsigned sum leaves n32's, and one that stays in both. -/
theorem witness_StepSettlesRegions_several :
    (let st (off v n : Nat) : PlaneStore := ⟨off, leBytes 4 v, 0, 0, n⟩
     let s : State := { at' (hart []) with harts := [(0, hart []), (1, { hart [] with hartid := 1 })] }
     let prio := region 0 [st 0 7 1, st 0 8 0]
     prio.stores = [] ++ st 0 7 1 :: [st 0 8 0] ∧ s.prioKey prio (st 0 8 0) < s.prioKey prio (st 0 7 1) ∧
     (region 0 [st 0 7 0, st 0 8 0]).stores = [st 0 7 0] ++ st 0 8 0 :: [] ∧ s.prioKey prio (st 0 7 0) ≤ s.prioKey prio (st 0 8 0) ∧
     (region 2 [st 0 7 0, st 0 8 1]).stores = [st 0 7 0] ++ st 0 8 1 :: [] ∧
     (∀ p ∈ [st 4092 0x7FFFFFFF 0, st 4092 1 1, st 0 5 0], p.off % 4 = 0 ∧ p.bytes.length = 4) ∧
     2 ^ 31 ≤ ([BitVec.ofNat 32 (leNat (st 4092 0x7FFFFFFF 0).bytes), BitVec.ofNat 32 (leNat (st 4092 1 1).bytes)].map fun x => x.toInt).sum ∧
     2 ^ 32 ≤ ([BitVec.ofNat 32 (leNat (st 4092 0xFFFFFFFF 0).bytes), BitVec.ofNat 32 (leNat (st 4092 1 1).bytes)].map fun x => x.toNat).sum ∧
     ¬2 ^ 31 ≤ ([BitVec.ofNat 32 (leNat (st 0 5 0).bytes)].map fun x => x.toInt).sum) :=
  ⟨rfl, by decide, rfl, by decide, rfl, by decide, by decide, by decide, by decide⟩

/-- NamedBarriers: a first arrival of 1 (the last) and of 8, a misuse (0, 9, a pending arrival), a phase that ended, one that has not, and one that broke. -/
theorem witness_NamedBarriers :
    (let h := hart [(4, 1), (5, 8), (6, 9)]
     let e := { h with bars := [(17, .ended)] }
     let p := { h with bars := [(17, .phase 0)], barIn := some 17 }
     let x := { h with bars := [(17, .broken)] }
     (at' h).OnHart 0 h ∧ (at' h).Issues h.sc .vecOnly [] [4, 5, 6] ∧ (at' h).dbg.silMode = 0 ∧ h.quiet = true ∧ (∀ y ∈ h.bars, y.1 ≠ 17) ∧ h.barIn = none ∧
     (h.sc.get 4).toNat = 1 ∧ (h.sc.get 5).toNat = 8 ∧ (h.sc.get 6).toNat = 9 ∧
     tblGet (⟨0, 0, 0⟩ : Barrier) 17 ((at' h).cluster (slotCluster 0)).bars = ⟨0, 0, 0⟩ ∧
     (at' e).OnHart 0 e ∧ e.bars = [] ++ (17, .ended) :: [] ∧ (at' p).OnHart 0 p ∧ p.bars = [] ++ (17, .phase 0) :: [] ∧ p.barIn = some 17 ∧
     (at' x).OnHart 0 x ∧ x.bars = [] ++ (17, .broken) :: []) :=
  ⟨⟨rfl, rfl⟩, issues rfl rfl (by decide) (by decide), rfl, rfl, by decide, rfl, by decide, by decide, by decide, rfl, ⟨rfl, rfl⟩, rfl, ⟨rfl, rfl⟩, rfl, rfl,
   ⟨rfl, rfl⟩, rfl⟩

/-- PlaneBinding: the record of a plane store page at 0x40100 of the scratchpad, and a bound region there. -/
theorem witness_PlaneBinding :
    (let h := hart [(4, 0x40100), (6, 0x50000)]
     let key := scratchKey 0 0x100
     let s := withBytes (at' h) key (leBytes 8 0x50000 ++ leBytes 4 4096)
     let k : Ctx := ⟨s, s.cur, h.sc⟩
     let num (off n : Nat) : Nat := leNat (Memory.reads s.mem (key + off) n)
     s.OnHart 0 h ∧ s.Issues h.sc .vecOnly [] [4, 5] ∧ h.quiet = true ∧ (h.sc.get 4).toNat = 0x40100 ∧ k.recordPlace 0x40100 0x0D = .ok key ∧
     k.groupCheck h 0 = .ok () ∧ num 0 8 = 0x50000 ∧ num 8 4 = 4096 ∧ num 12 1 = 0 ∧ num 13 1 = 0 ∧ num 14 2 = 0 ∧ num 20 12 = 0 ∧
     s.regionPlace (h.who 0) 0x50000 4096 = some ⟨7, planeKey 0 0, 0⟩ ∧ s.regionFits { region 0 [] with status := key + 16 } = true ∧
     (let t : State := { s with regions := [region 0 []] }
      t.regionPlace (h.who 0) 0x50000 4096 = some ⟨7, planeKey 0 0, 0⟩ ∧ t.regions.find? (fun x => x.key == planeKey 0 0) = some (region 0 []) ∧
      (h.who 0).member (region 0 []) = true ∧ t.stepInProgress 0 0 0 = false)) :=
  ⟨⟨rfl, rfl⟩, issues rfl rfl (by decide) (by decide), rfl, by decide, rfl, rfl, by decide, by decide, by decide, by decide, by decide, by decide, rfl, by decide, rfl, rfl,
   rfl, rfl⟩

/-- PlaneBinding: a bound region of the scratchpad, whose shadow punbind zeroes. -/
theorem witness_PlaneBinding_scratch :
    (let r : Region := ⟨true, 0, 0, 4096, 0, 0, 0x18000, 0, 0, 0, 0x40000, [], 0, [], false⟩
     let h := hart [(4, 0x40000)]
     let s : State := { at' h with regions := [r] }
     s.OnHart 0 h ∧ s.Issues h.sc .vecOnly [] [4] ∧ h.quiet = true ∧ s.anyScratch (h.who 0) 0x40000 = some ⟨2, scratchKey 0 0, 0⟩ ∧
     s.regions.find? (fun x => x.key == scratchKey 0 0) = some r ∧ (h.who 0).member r = true ∧ s.stepInProgress 0 0 0 = false ∧ r.scratch = true) :=
  ⟨⟨rfl, rfl⟩, issues rfl rfl (by decide) (by decide), rfl, rfl, rfl, rfl, rfl, rfl⟩

/-- ForksAndRendezvous: free engines and an aligned entry; busy engines; a misaligned entry. -/
theorem witness_ForksAndRendezvous :
    (let h := hart [(4, 0x10040), (6, 0x10042)]
     let s := at' h
     s.OnHart 0 h ∧ s.Issues h.sc .vecOnly [] [4, 5, 6] ∧ (h.sc.get 4).toNat % 4 = 0 ∧ (h.sc.get 6).toNat % 4 ≠ 0 ∧ (s.cluster (slotCluster 0)).mcc = none ∧
     (s.cluster (slotCluster 0)).seq = none ∧
     (let m : State := { onMatrix (program (regs [])) [] [] with cur := .vec 0 }
      m.OnHart 0 (hart []) ∧ (m.cluster (slotCluster 0)).mcc = some (program (regs []))) ∧
     (let q : State := { onCopier (copier (regs [])) with cur := .vec 0 }
      q.OnHart 0 (hart []) ∧ (q.cluster (slotCluster 0)).seq = some (copier (regs [])))) :=
  ⟨⟨rfl, rfl⟩, issues rfl rfl (by decide) (by decide), by decide, by decide, rfl, rfl, ⟨⟨rfl, rfl⟩, rfl⟩, ⟨⟨rfl, rfl⟩, rfl⟩⟩

/-- No cluster has more than 2 MiB of scratchpad. -/
theorem no_room (s : State) (c : Nat) (k : Kernel) (h : 2 ^ 21 < k.scratch) : s.clusterFits c k = false := by
  have e : s.placeScratch c k.scratch = none := by
    unfold State.placeScratch
    rw [List.find?_eq_none]
    intro o _
    have : ¬(o + k.scratch ≤ 2 ^ 21) := by omega
    rw [State.rangeFree, decide_eq_false this, Bool.false_and, Bool.false_and]
    exact Bool.false_ne_true
  have z : (k.scratch == 0) = false := by simp; omega
  simp [State.clusterFits, e, z]

/-- ForkHartCreates: a cluster with a free slot, and a kernel whose scratchpad need no cluster meets. -/
theorem witness_ForkHartCreates :
    (let h := hart [(4, 0x10040)]
     let s := at' h
     s.OnHart 0 h ∧ s.Issues h.sc .vecOnly [3] [4, 5] ∧ h.quiet = true ∧ (h.sc.get 4).toNat % 4 = 0 ∧ s.kernel 0 0 = some (kernel 1) ∧ s.clkReq = s.clkCur ∧
     (forkOrder (slotCluster 0)).find? (fun x => s.clusterTakes x (kernel 1)) = some 0 ∧ s.freeHartSlot 0 = some 1 ∧
     ∀ c ∈ forkOrder (slotCluster 0), s.clusterTakes c { kernel 1 with scratch := 2 ^ 22 } = false) :=
  ⟨⟨rfl, rfl⟩, issues rfl rfl (by decide) (by decide), rfl, by decide, rfl, rfl, rfl, rfl,
   fun c _ => by rw [State.clusterTakes, no_room _ c _ (by decide), Bool.false_and]⟩

/-- HaltAndStart: programs whose operations or copies have ended and have not; programs that wait for their fork's blocks; a hart with and without a
sister. -/
theorem witness_HaltAndStart :
    (let op : MatOp := ⟨.mzero 0, 0x10000, 0, false, 0, 0, 0⟩
     let busy : CopySeq := { copier (regs []) with tok := (Vector.replicate 8 Token.idle).setIfInBounds 3 ⟨.busy, 0, 0, 0⟩ }
     ((onMatrix (program (regs [])) [] []).cluster 0).mcc = some (program (regs [])) ∧ ((onMatrix (program (regs [])) [] [op]).cluster 0).arrq ≠ [] ∧
     ((onCopier (copier (regs []))).cluster 0).seq = some (copier (regs [])) ∧ (∀ j : Fin 8, (copier (regs [])).tok[j].state ≠ .busy) ∧
     (∃ j : Fin 8, busy.tok[j].state = .busy) ∧
     ((onMatrix { program (regs []) with begun := false } [] []).cluster 0).mcc = some { program (regs []) with begun := false } ∧
     ((onCopier { copier (regs []) with begun := false }).cluster 0).seq = some { copier (regs []) with begun := false } ∧
     (onMatrix { program (regs []) with begun := false } [] []).hart 0 = some (hart []) ∧ (hart []).pastFork 0 = true ∧
     (at' (hart [])).OnHart 0 (hart []) ∧ (Ctx.mk (at' (hart [])) (.vec 0) (regs [])).settled (hart []) = .ok () ∧
     tokenTrap (hart []).tok.toList 0xFF = none ∧ (hart []).bars = [] ∧ (∀ q ∈ (hart []).q.toList, ∀ t, q = some t → t.pending = []) ∧
     ({ at' (hart []) with harts := [(0, hart []), (1, { hart [] with hartid := 1 })] } : State).hart 1 = some { hart [] with hartid := 1 } ∧
     (at' (hart [])).kernel 0 0 = some (kernel 1) ∧ (kernel 1).state = .running ∧ (kernel 1).placed = (kernel 1).n ∧ (kernel 1).done = 0 ∧
     (∀ e ∈ (at' (hart [])).harts, e.1 ≠ 0 → e.2.ofKernel 0 0 = false)) :=
  ⟨rfl, by decide, rfl, by decide, ⟨3, by decide⟩, rfl, rfl, rfl, rfl, ⟨rfl, rfl⟩, rfl, rfl, rfl, by decide, rfl, rfl, rfl, rfl, rfl, by decide⟩

/-- The record of a pattern of n FP32 elements next to each other from an address (R158), and the pattern. -/
def patternBytes (va n : Nat) : List Byte := leBytes 8 va ++ leBytes 2 0 ++ leBytes 2 n ++ leBytes 4 0 ++ leBytes 4 1
def pattern (va n : Nat) : Pattern := ⟨va, 0, 1, 0, n, 0, 0, 1, 0, 0, 0⟩

/-- A bound stream of four elements. -/
def stream (va : Nat) (write : Bool) (pending : List Slot) : Stream := ⟨pattern va 4, write, 0, 0, 0, [], pending, 0, none⟩

/-- Streams: unbinding; a pattern record at 0x40100, a record of zeros at 0x40200 and a misaligned one; a read stream and a write stream whose next
element is performed, and ones whose next element does not translate. -/
theorem witness_Streams :
    (let h := hart [(4, 0x40100), (6, 0x40200), (7, 0x40104), (5, 1)]
     let s := withBytes (at' h) (scratchKey 0 0x100) (patternBytes 0x10000 4)
     s.OnHart 0 h ∧ s.Issues h.sc .stream [] [0, 4, 5, 6, 7] ∧ h.quiet = true ∧ (∀ t, h.q.getD 2 none = some t → t.pending = []) ∧
     s.readPattern (h.who 0) 0x40100 = .ok (some (pattern 0x10000 4)) ∧ (pattern 0x10000 4).segs = 0 ∧ (h.sc.get 5).toNat ≤ 1 ∧
     (s.setHart 0 { h with q := h.q.setIfInBounds 2 none }).portUsed (slotCluster 0) (kindPort (s.patKind (h.who 0) (pattern 0x10000 4))) < 4 ∧
     (h.sc.get 7).toNat % 32 ≠ 0 ∧ s.readPattern (h.who 0) 0x40200 = .ok none) ∧
    (let r : Hart := { hart [] with q := (Vector.replicate 8 none).setIfInBounds 2 (some (stream 0x10000 false [])) }
     let w : Hart := { hart [] with q := (Vector.replicate 8 none).setIfInBounds 2 (some (stream 0x10000 true [7])) }
     (at' r).hart 0 = some r ∧ r.q.getD 2 none = some (stream 0x10000 false []) ∧
     (at' r).engineRead (r.streamWho 0 2) 0 ((pattern 0x10000 4).nib 0) = .done (0, ⟨0, 0x10000, 0⟩) ∧
     (∃ e va k, (at' r).engineRead (r.streamWho 0 2) 0 ((pattern 0x20000 4).nib 0) = .failed e va k) ∧
     (at' w).hart 0 = some w ∧ w.q.getD 2 none = some (stream 0x10000 true [7]) ∧
     (∃ u p, (at' w).engineWrite (w.streamWho 0 2) 0 ((pattern 0x10000 4).nib 0) 7 = .done (u, p)) ∧
     (∃ e va k, (at' w).engineWrite (w.streamWho 0 2) 0 ((pattern 0x50000 4).nib 0) 7 = .failed e va k)) :=
  ⟨⟨⟨rfl, rfl⟩, issues rfl rfl (by decide) (by decide), rfl, (by intro t e; cases e), rfl, rfl, by decide, by decide, by decide, rfl⟩,
   ⟨rfl, rfl, rfl, ⟨_, _, _, rfl⟩, rfl, rfl, ⟨_, _, rfl⟩, ⟨_, _, _, rfl⟩⟩⟩

/-- Streams, CopyWords: a copy program with a pattern record, idle, busy and failed tokens, and a write stream with an element to perform. -/
theorem witness_Streams_program :
    (let c := regs [(4, 0x40100), (5, 1), (6, 0x40120)]
     let q : CopySeq := { copier c with tok := (((Vector.replicate 8 Token.idle).setIfInBounds 1 ⟨.busy, 2, 0, 0⟩).setIfInBounds 3 ⟨.error, 2, 4, 0x60000⟩) }
     let s := (withBytes (onCopier q) (scratchKey 0 0x100) (patternBytes 0x10000 4)).poke (scratchKey 0 0x120) (patternBytes 0x18000 4)
     s.cur = .seq 0 ∧ s.Issues c .stream [] [4, 5, 6] ∧ (Ctx.mk s s.cur c).streamBusy 2 true = false ∧ (Ctx.mk s s.cur c).quiet = .ok () ∧
     (∀ t, (s.streams s.cur).getD 2 none = some t → t.pending = []) ∧ s.readPattern (s.who s.cur) 0x40100 = .ok (some (pattern 0x10000 4)) ∧
     s.readPattern (s.who s.cur) 0x40120 = .ok (some (pattern 0x18000 4)) ∧ copyOk false (pattern 0x10000 4) (pattern 0x18000 4) = true ∧
     (s.setStream s.cur 2 none).portUsed s.cur.cluster (kindPort (s.patKind (s.who s.cur) (pattern 0x10000 4))) < 4 ∧
     s.portUsed s.cur.cluster (s.copyPort (s.who s.cur) (pattern 0x10000 4) (pattern 0x18000 4)) < 4 ∧
     ((s.tokens s.cur).getD 0 Token.idle).state = .idle ∧ ((s.tokens s.cur).getD 1 Token.idle).state = .busy ∧ ((s.tokens s.cur).getD 3 Token.idle).state = .error) ∧
    (let q : CopySeq := { copier (regs []) with q := (Vector.replicate 8 none).setIfInBounds 2 (some (stream 0x10000 true [7])) }
     ∃ t, ((onCopier q).streams (.seq 0)).getD 2 none = some t ∧ t.pending ≠ []) :=
  ⟨⟨rfl, issues rfl rfl (by decide) (by decide), rfl, rfl, (by intro t e; cases e), rfl, rfl, by decide, by decide, by decide, rfl, rfl, rfl⟩,
   ⟨_, rfl, by decide⟩⟩

/-- CopyWords: idle, busy and failed tokens; two patterns that agree in their count and two that do not. -/
theorem witness_CopyWords :
    (let h := hart [(4, 0x40100), (5, 0x40120), (6, 0x40140)]
     let s := ((withBytes (at' h) (scratchKey 0 0x100) (patternBytes 0x10000 4)).poke (scratchKey 0 0x120) (patternBytes 0x18000 4)).poke
       (scratchKey 0 0x140) (patternBytes 0x18000 5)
     s.OnHart 0 h ∧ s.Issues h.sc .stream [] [4, 5, 6] ∧ (h.tok.getD 3 Token.idle).state = .idle ∧ h.quiet = true ∧
     s.readPattern (h.who 0) 0x40100 = .ok (some (pattern 0x10000 4)) ∧ s.readPattern (h.who 0) 0x40120 = .ok (some (pattern 0x18000 4)) ∧
     s.readPattern (h.who 0) 0x40140 = .ok (some (pattern 0x18000 5)) ∧ copyOk false (pattern 0x10000 4) (pattern 0x18000 4) = true ∧
     s.portUsed (slotCluster 0) (s.copyPort (h.who 0) (pattern 0x10000 4) (pattern 0x18000 4)) < 4 ∧
     copyOk false (pattern 0x10000 4) (pattern 0x18000 5) = false) ∧
    (let h : Hart := { hart [] with tok := (((Vector.replicate 8 Token.idle).setIfInBounds 1 ⟨.busy, 2, 0, 0⟩).setIfInBounds 3 ⟨.error, 2, 4, 0x60000⟩) }
     (at' h).OnHart 0 h ∧ (at' h).Issues h.sc .stream [3] [] ∧ (h.tok.getD 1 Token.idle).state = .busy ∧ (h.tok.getD 3 Token.idle).state = .error ∧
     (h.tok.getD 0 Token.idle).state = .idle) :=
  ⟨⟨⟨rfl, rfl⟩, issues rfl rfl (by decide) (by decide), rfl, rfl, rfl, rfl, rfl, by decide, by decide, by decide⟩,
   ⟨⟨rfl, rfl⟩, issues rfl rfl (by decide) (by decide), rfl, rfl, rfl⟩⟩

/-- CopyEngine: a command that may start, a started one that completes, and a started one whose third element fails. -/
theorem witness_CopyEngine :
    (let copy (src : Nat) (started : Bool) : Copy := ⟨.vec 0, 0, 0, 0, 3, 0, pattern src 4, pattern 0x18000 4, 0, started, 0⟩
     let s (src : Nat) (started : Bool) : State := { at' (hart []) with clusters := [(0, { Cluster.reset with copies := [copy src started] })] }
     ((s 0x10000 false).cluster 0).copies[0]? = some (copy 0x10000 false) ∧ (s 0x10000 false).hart 0 = some (hart []) ∧
     ((s 0x10000 true).copyElems ((s 0x10000 true).copyWho (copy 0x10000 true)) (copy 0x10000 true) 4 0 [] []).2.2.2.2 = none ∧
     (∃ side e va k, ((s 0x1FFF8 true).copyElems ((s 0x1FFF8 true).copyWho (copy 0x1FFF8 true)) (copy 0x1FFF8 true) 4 0 [] []).2.2.2.2 = some (side, .failed e va k)) ∧
     ((s 0x1FFF8 true).copyElems ((s 0x1FFF8 true).copyWho (copy 0x1FFF8 true)) (copy 0x1FFF8 true) 4 0 [] []).2.1 = 2) :=
  ⟨rfl, rfl, rfl, ⟨_, _, _, _, rfl⟩, rfl⟩

/-- CopyEngine: a command of a copy program. -/
theorem witness_CopyEngine_program :
    (let c : Copy := ⟨.seq 0, 0, 0, 0, 3, 0, pattern 0x10000 4, pattern 0x18000 4, 0, true, 0⟩
     let s : State := { at' (hart []) with clusters := [(0, { Cluster.reset with seq := some (copier (regs [])), copies := [c] })] }
     (s.cluster 0).copies[0]? = some c ∧ c.tok < 8 ∧ (s.cluster 0).seq = some (copier (regs [])) ∧
     (s.copyElems (s.copyWho c) c 4 0 [] []).2.2.2.2 = none) :=
  ⟨rfl, by decide, rfl, rfl⟩

/-! ### Witnesses: the hypotheses of the statements about vector words are met -/

/-- The checks of Hart.Fits for a word that waits on no token, as a computation. -/
def fitsB (h : Hart) (b : Block) (u : WordUse) : Bool :=
  decide (b.env.vl ≤ mvlOf b.env.nregs) && decide (8 ≤ b.env.nregs) && decide (b.env.nregs ≤ 64) && (decide (b.elem < b.env.vl) || b.elem == 0) &&
  ((u.reads ++ u.writes).all fun r => match r with
    | .v n => decide (n < b.env.nregs)
    | .q _ => false
    | _ => true) &&
  ((u.reads ++ u.writes ++ u.waits).all fun r => !h.isEmpty r) && (u.writes.all fun r => !h.awaits r) &&
  (u.reads.all fun r => match r with
    | .lq _ => false
    | _ => true) && u.tokens == 0

theorem fits {h : Hart} {b : Block} {u : WordUse} (e : fitsB h b u = true) : h.Fits b u := by
  simp only [fitsB, Bool.and_eq_true, decide_eq_true_eq, Bool.or_eq_true, beq_iff_eq, List.all_eq_true, Bool.not_eq_true'] at e
  obtain ⟨⟨⟨⟨⟨⟨⟨⟨e1, e2⟩, e3⟩, e4⟩, e5⟩, e6⟩, ed⟩, e7⟩, e8⟩ := e
  refine ⟨e1, ⟨e2, e3⟩, e4, ?_, e6, ed, ?_, ?_⟩
  · intro n hn; simpa using e5 (.v n) hn
  · intro j; exact ⟨fun hj => by simpa using e5 (.q j) hj, fun hj => by simpa using e7 (.lq j) hj⟩
  · intro j hj; rw [e8] at hj; simp at hj

/-- Pins always fit a table in which none is held. -/
theorem pins_fit {s : State} {slot : Nat} {h : Hart} {b : Block} (e : s.pinsUsed (slotCluster slot) = 0) (m : Sem) : s.pinsFit slot h b m := by
  simp [State.pinsFit, VC.pinRoom, State.convoyAt, e]

/-- Every word of a list is well formed and may issue at the front of the hart. -/
theorem all_fit {h : Hart} {b : Block} {n : Nat} {is : List Instr} (e : (is.all fun i => i.wf && fitsB h b (i.uses n)) = true) :
    ∀ i ∈ is, i.wf = true ∧ h.Fits b (i.uses n) := by
  intro i hi
  have := List.all_eq_true.mp e i hi
  simp only [Bool.and_eq_true] at this
  exact ⟨this.1, fits this.2⟩

/-- Every word of a list may issue at the front of the hart, whose cluster holds no pin. -/
theorem all_issue {s : State} {slot : Nat} {h : Hart} {b : Block} {is : List Instr} (p : s.pinsUsed (slotCluster slot) = 0)
    (e : (is.all fun i => i.wf && fitsB h b (i.uses 0)) = true) : ∀ i ∈ is, s.mayIssue slot h b i := by
  intro i hi
  exact ⟨(all_fit e i hi).1, (all_fit e i hi).2, fun m _ => pins_fit p m⟩

/-- A hart that stands at the front word of a block with a VL. -/
def atBlock (l : List (Nat × Nat)) (b : Block) : Hart := { hart l with blocks := [b], grant := 8 }

/-- A hart stands at a word when its cluster runs no forked program, no region is bound and nothing is in error. -/
theorem at_front {s : State} {h : Hart} {b : Block} (t : s.cur = .vec 0) (e : s.hart 0 = some h) (bl : h.blocks = [b]) (hb : b.issued = false ∧ b.parts = [])
    (g : h.grant ≠ 0) (d : s.dbg.smpTrace = false) (c : (s.cluster 0).mcc = none) (r : s.regions = []) (x : s.bad = []) :
    s.AtWord 0 h b [] := by
  refine ⟨t, e, bl, hb, g, d, fun m hm => ?_, fun r e => ?_, ?_⟩
  · rw [show slotCluster 0 = 0 from rfl, c] at hm; cases hm
  · simp [State.badIn, x]
  · rw [r]; intro r hr; cases hr

theorem at_word (l : List (Nat × Nat)) (b : Block) (hb : b.issued = false ∧ b.parts = []) : (at' (atBlock l b)).AtWord 0 (atBlock l b) b [] :=
  at_front rfl rfl rfl hb (Nat.succ_ne_zero 7) rfl rfl rfl rfl

/-- Mask m0 selects every element, and a mask that is clear none. -/
theorem active_all (h : Hart) (n : Nat) (hn : n ≤ 1024) : h.activeBelow 0 n = List.range n := by
  unfold Hart.activeBelow
  refine List.filter_eq_self.mpr fun e he => ?_
  have : e < n := by simpa using he
  have b : (BitVec.allOnes 1024).getLsbD e = true := by rw [BitVec.getLsbD_allOnes]; simp; omega
  have z : (0 : BitVec 5).getLsbD 4 = false := rfl
  rw [Hart.selects, z]
  exact b

theorem mask_clear (l : List (Nat × Nat)) (b : Block) (j : Nat) (hj : j ≠ 0) : (atBlock l b).mask j = 0 := by
  have e : (atBlock l b).m.getD j 0 = (Vector.replicate 16 (0 : Mask)).getD j 0 := rfl
  rw [Hart.mask, if_neg hj, e]
  by_cases h : j < 16
  · simp [Vector.getD, Array.getD, h]
  · simp [Vector.getD, Array.getD, h]

theorem active_none (l : List (Nat × Nat)) (b : Block) (n : Nat) : (atBlock l b).activeBelow 1 n = [] := by
  unfold Hart.activeBelow
  refine List.filter_eq_nil_iff.mpr fun e _ => ?_
  simp [Hart.selects, mask_clear]

/-- No flag traps while none is enabled. -/
theorem no_trap (fl : Flags) : flagTraps 0 fl = false := by revert fl; decide

/-- VectorFloatWords: every word of it, at VL 4. -/
theorem witness_VectorFloatWords : (at' (atBlock [] (block 4))).AtWord 0 (atBlock [] (block 4)) (block 4) [] ∧
    (∀ i ∈ ([.vaddFp true (vr 1 2 3 0), .vsubFp false (vr 1 2 3 0), .vmulFp true (vr 1 2 3 0), .vfma false (vr 1 2 3 4), .vfms true (vr 1 2 3 4),
      .vfnma false (vr 1 2 3 4), .vdiv true (vr 1 2 3 0), .vsqrt false (vr 1 2 0 0), .vminFp true (vr 1 2 3 0), .vmaxFp false (vr 1 2 3 0),
      .vabs true (vr 1 2 0 0), .vneg false (vr 1 2 0 0), .vcopysign true (vr 1 2 3 0), .vexp2 (vr 1 2 0 0), .vlog2 (vr 1 2 0 0), .vrcp (vr 1 2 0 0),
      .vrsqrt (vr 1 2 0 0), .vtanh (vr 1 2 0 0), .vcvtBf16F32 (vr 1 2 0 0), .vcvtF32I32 (vr 1 2 0 0), .vcvtF32N32 (vr 1 2 0 0), .vcvtI32F32 (vr 1 2 0 0),
      .vcvtN32F32 (vr 1 2 0 0), .vround (vr 1 2 0 0), .vclass (vr 1 2 0 0)] : List Instr),
      i.wf = true ∧ (atBlock [] (block 4)).Fits (block 4) (i.uses 0)) ∧ ∀ fl, flagTraps (atBlock [] (block 4)).sc.fflags fl = false :=
  ⟨at_word _ _ ⟨rfl, rfl⟩, all_fit (by decide), no_trap⟩

/-- VectorIntegerWords: every word of it, at VL 0, at MVL, and resumed at element 3. -/
theorem witness_VectorIntegerWords : ∀ b ∈ [block 0, block 256, { block 4 with elem := 3 }],
    (at' (atBlock [] b)).AtWord 0 (atBlock [] b) b [] ∧
    ∀ i ∈ ([.vaddI32 (vr 1 2 80 0), .vsubI32 { vr 1 2 3 0 with sat := 2 }, .vmulI32 (vr 1 2 3 0), .vshl (vr 1 2 3 0), .vmulh (vr 1 2 3 0),
      .vmulhn (vr 1 2 3 0), .vand (vr 1 2 3 0), .vor (vr 1 2 3 0), .vxor (vr 1 2 3 0), .vshr (vr 1 2 3 0), .vsra (vr 1 2 3 0), .vminI32 (vr 1 2 3 0),
      .vmaxI32 (vr 1 2 3 0), .vminn (vr 1 2 3 0), .vmaxn (vr 1 2 3 0), .vaddi ⟨1, 2, 0, false, 5⟩, .vandi ⟨1, 2, 0, false, 5⟩, .vori ⟨1, 2, 0, false, 5⟩,
      .vxori ⟨1, 2, 0, false, 5⟩, .vshli ⟨1, 2, 0, false, 31⟩, .vshri ⟨1, 2, 0, false, 31⟩, .vsrai ⟨1, 2, 0, false, 31⟩] : List Instr),
      i.wf = true ∧ (atBlock [] b).Fits b (i.uses 0) := by
  intro b hb
  simp only [List.mem_cons, List.not_mem_nil, or_false] at hb
  rcases hb with rfl | rfl | rfl
  · exact ⟨at_word _ _ ⟨rfl, rfl⟩, all_fit (by decide)⟩
  · exact ⟨at_word _ _ ⟨rfl, rfl⟩, all_fit (by decide)⟩
  · exact ⟨at_word _ _ ⟨rfl, rfl⟩, all_fit (by decide)⟩

/-- VectorMaskAndMoveWords: every word of it. -/
theorem witness_VectorMaskAndMoveWords : (at' (atBlock [] (block 4))).AtWord 0 (atBlock [] (block 4)) (block 4) [] ∧
    (∀ i ∈ ([.vcmp 0 7 (vr 127 2 3 15), .vcmp 2 5 (vr 127 2 3 1), .mand (vr 1 2 3 0), .mor (vr 1 2 3 0), .mxor (vr 1 2 3 0), .mandn (vr 1 2 3 0),
      .mnot (vr 1 2 0 0), .mset (vr 1 0 0 0), .mclr (vr 1 0 0 0), .mfromv (vr 1 2 0 0), .mtov (vr 1 2 0 0), .vid (vr 1 0 0 0), .vmv (vr 1 81 0 0),
      .vsel (vr 1 2 3 4)] : List Instr), i.wf = true ∧ (atBlock [] (block 4)).Fits (block 4) (i.uses 0)) ∧
    ∀ fl, flagTraps (atBlock [] (block 4)).sc.fflags fl = false :=
  ⟨at_word _ _ ⟨rfl, rfl⟩, all_fit (by decide), no_trap⟩

/-- MaskCountsAndPermutes: every word of it, with no counted element (m1 clear) and with one (m0). -/
theorem witness_MaskCountsAndPermutes : (at' (atBlock [] (block 4))).AtWord 0 (atBlock [] (block 4)) (block 4) [] ∧ 0 < (block 4).env.vl ∧
    (∀ i ∈ ([.mpop (vr 81 2 0 0), .mfirst (vr 1 2 0 0), .mlist (vr 3 2 0 0), .vcompress (vr 1 2 0 0), .vexpand (vr 127 2 0 0), .vperm (vr 1 2 3 0),
      .vslideup (vr 1 2 80 0), .vslidedn (vr 1 2 95 0), .vbcast (vr 1 2 81 0)] : List Instr),
      i.wf = true ∧ (atBlock [] (block 4)).Fits (block 4) (i.uses 0)) ∧
    (((atBlock [] (block 4)).activeBelow 0 4).filter fun e => ((atBlock [] (block 4)).mask 1).getLsbD e) = [] ∧
    0 ∈ (((atBlock [] (block 4)).activeBelow 0 4).filter fun e => ((atBlock [] (block 4)).mask 0).getLsbD e) :=
  ⟨at_word _ _ ⟨rfl, rfl⟩, by decide, all_fit (by decide), by simp [mask_clear], by rw [active_all _ _ (by decide)]; simp [Hart.mask]⟩

/-- ReductionsAndScan: every word of it, with active elements and with none (mask m1). -/
theorem witness_ReductionsAndScan : (at' (atBlock [] (block 4))).AtWord 0 (atBlock [] (block 4)) (block 4) [] ∧ 0 < (block 4).env.vl ∧
    (∀ i ∈ ([.vredsumF32 (vr 82 2 0 0), .vredsumBf16 (vr 1 2 0 0), .vredsumb (vr 1 2 3 0), .vredmax (vr 127 2 0 0), .vredmin { vr 1 2 0 0 with mask := 1 },
      .vredsumI32 (vr 80 2 0 0), .vredmaxi (vr 1 2 0 0), .vscanF32 (vr 1 2 0 0)] : List Instr),
      i.wf = true ∧ (atBlock [] (block 4)).Fits (block 4) (i.uses 0)) ∧ (∀ fl, flagTraps (atBlock [] (block 4)).sc.fflags fl = false) ∧
    (atBlock [] (block 4)).activeBelow 1 4 = [] ∧ 3 ∈ (atBlock [] (block 4)).activeBelow 0 4 ∧ (f32 ((atBlock [] (block 4)).operandAt 2 3)).isNaN = false ∧
    (f32 0x7FC00001).isNaN = true :=
  ⟨at_word _ _ ⟨rfl, rfl⟩, by decide, all_fit (by decide), no_trap, active_none _ _ _, by rw [active_all _ _ (by decide)]; decide, by decide, by decide⟩

/-- RankAndExpertCountWords: a rank of 2, a merge of 1, one and sixteen experts of capacity 1,024, a table of 4 experts. -/
theorem witness_RankAndExpertCountWords :
    (let h := atBlock [(16, 2), (17, 1), (18, 1024 * 2 ^ 16 + 1), (19, 1024 * 2 ^ 16 + 16)] (block 4)
     let s : State := { at' h with ctxs := [(0, { Context.reset with state := 1, nexp := 4 })] }
     s.AtWord 0 h (block 4) [] ∧ 0 < (block 4).env.vl ∧ mergeOk ((h.sc.get 17).toNat % 2 ^ 32) = true ∧
     (∀ i ∈ ([.vtopk (vr 1 3 4 80), .vmergek (vr 1 3 4 81), .xcount (vr 127 3 80 0)] : List Instr), i.wf = true ∧ h.Fits (block 4) (i.uses 0)) ∧
     (∀ i ∈ ([.xcsel (vr 16 0 82 0)] : List Instr), i.wf = true ∧ h.Fits (block 4) (i.uses 1)) ∧
     (∀ i ∈ ([.xcsel (vr 16 0 83 0)] : List Instr), i.wf = true ∧ h.Fits (block 4) (i.uses 16)) ∧
     (h.sc.get 18).toNat % 32 = 1 ∧ (h.sc.get 18).toNat / 2 ^ 16 = 1024 ∧ (h.sc.get 19).toNat % 32 = 16 ∧
     ∀ i ∈ h.activeBelow 0 4, (h.elem 3 i).toNat < (s.context h.ctx).nexp ∧ (h.elem 3 i).toNat ≤ 16383) :=
  ⟨at_front rfl rfl rfl ⟨rfl, rfl⟩ (by decide) rfl rfl rfl rfl, by decide, by decide, all_fit (by decide), all_fit (by decide), all_fit (by decide), by decide, by decide, by decide,
   fun i _ => by
     have e : ∀ r n, Hart.elem (atBlock [(16, 2), (17, 1), (18, 1024 * 2 ^ 16 + 1), (19, 1024 * 2 ^ 16 + 16)] (block 4)) r n = 0 := fun _ _ => rfl
     rw [e]; decide⟩

/-- A block whose s4, s5 and s6 are as given: a base, the base of the scales, a stride. -/
def memBlock (vl base scales stride : Nat) : Block :=
  { block vl with env := ⟨vl, 32, 0, (((Vector.replicate 16 0).setIfInBounds 4 (BitVec.ofNat 64 base)).setIfInBounds 5 (BitVec.ofNat 64 scales)).setIfInBounds 6
    (BitVec.ofNat 64 stride), Vector.replicate 4 none⟩ }

/-- Of a word with one element left, element 0 is the live one. -/
theorem live_one {h : Hart} {b : Block} {m : BitVec 5} {e : Nat} (hb : b.env.vl = 1) (hl : h.live b m e = true) : e = 0 := by
  simp only [Hart.live, Bool.and_eq_true, decide_eq_true_eq] at hl
  omega

/-- Of a word with two elements left, elements 0 and 1 are the live ones. -/
theorem live_two {h : Hart} {b : Block} {m : BitVec 5} {e : Nat} (hb : b.env.vl = 2) (hl : h.live b m e = true) : e = 0 ∨ e = 1 := by
  simp only [Hart.live, Bool.and_eq_true, decide_eq_true_eq] at hl
  omega

/-- VectorLoads: every load at VL 1, to a register and to a queue; its element and its scale byte are readable. -/
theorem witness_VectorLoads :
    (let b := memBlock 1 0x10000 0x10080 4
     let h := atBlock [] b
     let s := at' h
     s.AtWord 0 h b [] ∧
     (∀ i ∈ ([.vld (vm 1 4 0 0), .vld (vm 75 4 0 0), .vlds (vm 1 4 6 0), .vlds (vm 72 4 6 0), .vldx (vm 1 4 2 0), .vldx (vm 72 4 2 0), .vldff (vm 1 4 0 0),
       .vldseg { vm 1 4 127 0 with scope := 1 }, .vpref (vm 127 4 0 0), .vld { vm 1 4 0 3 with scale := 2 }, .vlds { vm 1 4 6 3 with scale := 3 },
       .vldx { vm 1 4 2 3 with scale := 5 }] : List Instr), s.mayIssue 0 h b i) ∧
     (∀ e, h.live b 0 e = true → s.elemAt (h.who 0) .load 0 (nibAt 0 0x10000 ((e * fmtUnits 0 : Nat) : Int)) ⟨0, 0x10000, 0⟩ ∧
       s.readsClean ⟨0, 0x10000, 0⟩ (fmtBytes 0)) ∧
     (∀ e, h.live b 0 e = true → s.elemAt (h.who 0) .load 3 (nibAt 3 0x10000 ((e * fmtUnits 3 : Nat) : Int)) ⟨0, 0x10000, 0⟩ ∧
       s.elemAt (h.who 0) .load 9 (2 * 0x10080) ⟨0, 0x10080, 0⟩ ∧ s.readsClean ⟨0, 0x10080, 0⟩ 1) ∧
     (∀ j, j < 2 → s.elemAt (h.who 0) .load 0 (nibAt 0 0x10000 ((j * fmtUnits 0 : Nat) : Int)) ⟨0, 0x10000 + 4 * j, 0⟩) ∧
     (h.field b 4 + 32 * (0 : BitVec 8).signExtend 64).toNat = 0x10000 ∧ (h.field b 6).toInt = 4) :=
  ⟨at_word _ _ ⟨rfl, rfl⟩, all_issue rfl (by decide),
   fun e he => by obtain rfl := live_one rfl he; exact ⟨⟨rfl, rfl⟩, rfl⟩,
   fun e he => by obtain rfl := live_one rfl he; exact ⟨⟨rfl, rfl⟩, ⟨rfl, rfl⟩, rfl⟩,
   fun j hj => by rcases (show j = 0 ∨ j = 1 by omega) with rfl | rfl <;> exact ⟨rfl, rfl⟩, by decide, by decide⟩

/-- VectorLoads, vldff: its second element lies on a page that it may not read. -/
theorem witness_VectorLoads_short :
    (let b := memBlock 2 0x1FFFC 0 0
     let h := atBlock [] b
     let s := at' h
     s.AtWord 0 h b [] ∧ s.mayIssue 0 h b (.vldff (vm 1 4 0 0)) ∧
     s.elemAt (h.who 0) .load 0 (nibAt 0 0x1FFFC 0) ⟨0, 0x1FFFC, 2⟩ ∧ s.readsClean ⟨0, 0x1FFFC, 2⟩ 4 ∧
     s.elemPlace (h.who 0) .load 0 (nibAt 0 0x1FFFC ((1 * fmtUnits 0 : Nat) : Int)) = .error 6) :=
  ⟨at_word _ _ ⟨rfl, rfl⟩, ⟨by decide, fits (by decide), fun m _ => pins_fit rfl m⟩, ⟨rfl, rfl⟩, rfl, rfl⟩

/-- VectorStores: every store at VL 1 outside every region, plain and under both block-4 scales. -/
theorem witness_VectorStores :
    (let b := memBlock 1 0x10000 0x10080 4
     let h := atBlock [] b
     let s := at' h
     s.Inv ∧ s.AtWord 0 h b [] ∧
     (∀ i ∈ ([.vst (vm 1 4 0 0), .vsts (vm 80 4 6 1), .vstx (vm 1 4 2 3), .vst { vm 1 4 0 3 with scale := 2 }, .vsts { vm 1 4 6 3 with scale := 3 },
       .vstx { vm 1 4 2 33 with scale := 2 }] : List Instr), s.mayIssue 0 h b i) ∧ b.elem % 4 = 0 ∧
     (∀ e, h.live b 0 e = true → s.elemAt (h.who 0) .store 0 (nibAt 0 0x10000 ((e * fmtUnits 0 : Nat) : Int)) ⟨0, 0x10000, 0⟩ ∧ s.storesClean ⟨0, 0x10000, 0⟩ 0) ∧
     (∀ n, n < 4 → s.elemAt (h.who 0) .store 3 (nibAt 3 0x10000 (((4 * 0 + n) * fmtUnits 3 : Nat) : Int)) ⟨0, 0x10000 + n / 2, 0⟩ ∧
       s.storesClean ⟨0, 0x10000 + n / 2, 0⟩ 3) ∧
     s.elemAt (h.who 0) .store 9 (2 * 0x10080) ⟨0, 0x10080, 0⟩ ∧ s.storesClean ⟨0, 0x10080, 0⟩ 9 ∧ regionAt s.regions 0x10000 = none ∧ regionAt s.regions 0x10080 = none) :=
  ⟨rfl, at_word _ _ ⟨rfl, rfl⟩, all_issue rfl (by decide), rfl,
   fun e he => by obtain rfl := live_one rfl he; exact ⟨⟨rfl, rfl⟩, rfl, fun _ => rfl⟩,
   fun n hn => by rcases (show n = 0 ∨ n = 1 ∨ n = 2 ∨ n = 3 by omega) with rfl | rfl | rfl | rfl <;> exact ⟨⟨rfl, rfl⟩, rfl, fun _ => rfl⟩,
   ⟨rfl, rfl⟩, ⟨rfl, fun _ => rfl⟩, rfl, rfl⟩

/-- VectorUpdates: each vamo at VL 1, a cadd on the Cellar, an append to a queue of one entry, and a row whose chaining bit is clear. -/
theorem witness_VectorUpdates :
    (let b := memBlock 1 0x10000 0x20000 4
     let h := atBlock [] b
     let s := withBytes (at' h) 0x10008 (leBytes 4 1)
     s.Inv ∧ s.AtWord 0 h b [] ∧ s.dbg.silMode = 0 ∧
     (∀ i ∈ ([.vamoAdd 0 (vm 1 4 2 7), .vamoAnd 1 (vm 1 4 2 11), .vamoOr 2 (vm 1 4 2 7), .vamoXor 3 (vm 1 4 2 7), .vamoMin 0 (vm 1 4 2 7),
       .vamoMax 0 (vm 80 4 2 7), .vamoMinn 0 (vm 1 4 2 11), .vamoMaxn 0 { vm 1 4 2 11 with scope := 7 }, .vamoSwap 0 (vm 1 4 2 7),
       .cadd { vm 1 5 127 0 with scope := 3 }, .cadd { vm 1 5 2 1 with scope := 7 }, .vappend (vm 127 4 0 11), .mdrain (vm 1 7 3 1), .mfill (vm 1 7 0 0)] : List Instr),
       s.mayIssue 0 h b i) ∧
     (∀ e, h.live b 0 e = true → s.elemAt (h.who 0) .atomic 7 (nibAt 7 0x10000 0) ⟨0, 0x10000, 0⟩ ∧ s.readsClean ⟨0, 0x10000, 0⟩ 4) ∧
     (∀ e, h.live b 0 e = true → s.elemAt (h.who 0) .cadd 0 (nibAt 0 0x20000 ((e * fmtUnits 0 : Nat) : Int)) ⟨1, 2 ^ 40, 0⟩ ∧ (0 : Nat) ∉ s.stackDown ∧
       s.badBlock (2 ^ 40) = none) ∧
     s.elemAt (h.who 0) .store 11 (2 * 0x10000) ⟨0, 0x10000, 0⟩ ∧ s.readsClean ⟨0, 0x10000, 0⟩ 24 ∧ s.peekNat 0x10008 4 = 1 ∧
     s.elemAt (h.who 0) .store 11 (2 * 0x10040) ⟨0, 0x10040, 0⟩ ∧ (0x10000 + 24 ≤ 0x10040) ∧ (h.field b 4).toNat % 64 = 0 ∧ (h.field b 7).toNat < 128 ∧
     ((s.cluster (slotCluster 0)).chain.getD 3 0).getLsbD 0 = false ∧ b.env.vl ≤ 96 ∧ (∀ e, s.badIn (accKey 0 (cellKey 3 0 e)) 4 = none)) :=
  ⟨rfl, at_front rfl rfl rfl ⟨rfl, rfl⟩ (Nat.succ_ne_zero 7) rfl rfl rfl rfl, rfl, all_issue rfl (by decide),
   fun e he => by obtain rfl := live_one rfl he; exact ⟨⟨rfl, rfl⟩, rfl⟩,
   fun e he => by obtain rfl := live_one rfl he; exact ⟨⟨rfl, rfl⟩, (by intro z; cases z), rfl⟩,
   ⟨rfl, rfl⟩, rfl, by decide, ⟨rfl, rfl⟩, by decide, by decide, by decide, by decide, by decide, fun _ => rfl⟩

/-- VectorUpdates: a row whose chaining bit is set. -/
theorem witness_VectorUpdates_waits :
    (let b := memBlock 1 0x10000 0x20000 4
     let h := atBlock [] b
     let s : State := { at' h with clusters := [(0, { Cluster.reset with chain := Vector.replicate 4 (BitVec.allOnes 128) })] }
     s.Inv ∧ s.AtWord 0 h b [] ∧ (∀ i ∈ ([.mdrain (vm 1 7 3 1), .mfill (vm 1 7 0 0)] : List Instr), s.mayIssue 0 h b i) ∧
     ((s.cluster (slotCluster 0)).chain.getD 3 0).getLsbD (h.field b 7).toNat = true) :=
  ⟨rfl, at_front rfl rfl rfl ⟨rfl, rfl⟩ (Nat.succ_ne_zero 7) rfl rfl rfl rfl, all_issue rfl (by decide), by decide⟩

/-- A descriptor of 4 rows of 8 FP32 values at 0x20000 of the Cellar. -/
def rowsOf : QDesc := ⟨0x20000, 0, 0, 8, 4, 32⟩

/-- QueriesIssue: each query at VL 1 on a descriptor of 8 columns. -/
theorem witness_QueriesIssue :
    (let b : Block := { block 1 with env := ⟨1, 32, 0, Vector.replicate 16 0, (Vector.replicate 4 none).setIfInBounds 0 (some rowsOf)⟩ }
     let h : Hart := { atBlock [] b with v := [(elemKey 3 1, 0x3F800000)] }
     let s := at' h
     s.AtWord 0 h b [] ∧ s.dbg.silMode = 0 ∧ 0 < b.env.vl ∧ b.env.qd.getD 0 none = some rowsOf ∧ h.activeBelow 0 1 ≠ [] ∧ h.queries.length < 8 ∧ (∀ q ∈ h.queries, q.vd ≠ 1) ∧
     (∀ i ∈ h.activeBelow 0 1, i < rowsOf.rows ∧ rowsOf.row i < 2 ^ 57 ∧ rowsOf.row i % 4096 + rowsOf.rowBytes ≤ 4096 ∧
       s.xlate (h.who 0) .query (rowsOf.row i) = .ok ⟨1, 2 ^ 40, 0⟩ ∧ (tlbFind h.ctx (rowsOf.row i) s.tlb).isSome = true ∧
       (s.baseDie 0).qpause = false ∧ (0 : Nat) ∉ s.stackDown ∧ ∀ x ∈ s.bad, x + 64 ≤ 2 ^ 40 ∨ 2 ^ 40 + rowsOf.rowBytes ≤ x) ∧
     (∀ i ∈ ([.qdot (vq 1 2 0 0), .qdot (vq 1 2 1 0), .qwsum (vq 1 2 0 0), .qfsum (vq 1 80 5 0), .qmaxi (vq 1 2 0 0), .qtopk (vq 1 2 0 1), .qhist (vq 1 3 0 2)] : List Instr),
       i.wf = true ∧ h.Fits b (i.uses 0)) ∧ (∀ m, s.pinsFit 0 h b m) ∧
     rowsOf.len ≤ mvlOf b.env.nregs ∧ 8 * 8 ≤ 1 * rowsOf.len * (fmtBits 0 / 4) ∧ 16 * 1 ≤ 1 * rowsOf.len * (fmtBits 0 / 4) ∧
     (f32 (h.operandAt 3 0)).isFin = true ∧ (f32 (h.operandAt 3 1)).isFin = true ∧ ltNum (.fin false 0 0) (f32 (h.operandAt 3 1)) = true) :=
  ⟨at_front rfl rfl rfl ⟨rfl, rfl⟩ (Nat.succ_ne_zero 7) rfl rfl rfl rfl, rfl, by decide, rfl, by rw [active_all _ _ (by decide)]; decide, by decide, (by intro q hq; cases hq),
   fun i hi => by
     rw [active_all _ _ (by decide)] at hi
     have z : i = 0 := by simpa using hi
     subst z
     exact ⟨by decide, by decide, by decide, rfl, rfl, rfl, (by intro z; cases z), (by intro x z; cases z)⟩,
   all_fit (by decide), pins_fit rfl, by decide, by decide, by decide, by decide, by decide, by decide⟩

/-- QueryReplies: a qdot with one reply to come, one with more, a query that commits whole. -/
theorem witness_QueryReplies :
    (let q (whole : Bool) (w : List (Nat × Nat × Slot)) : Query := ⟨1, 1, false, whole, w, []⟩
     let h (q : Query) : Hart := { hart [] with queries := [q] }
     (at' (h (q false [(1, 0, 5)]))).hart 0 = some (h (q false [(1, 0, 5)])) ∧ (q false [(1, 0, 5)]).writes.length ≤ 1 ∧
     (at' (h (q false [(1, 0, 5), (1, 1, 6)]))).hart 0 = some (h (q false [(1, 0, 5), (1, 1, 6)])) ∧
     (q false [(1, 0, 5), (1, 1, 6)]).whole = false ∧ (at' (h (q true [(1, 0, 5), (1, 1, 6)]))).hart 0 = some (h (q true [(1, 0, 5), (1, 1, 6)]))) :=
  ⟨rfl, by decide, rfl, rfl, rfl⟩

/-- VectorWordsRun: a word whose checks pass, one that waits for an empty source, one that traps on a register beyond NREGS. -/
theorem witness_VectorWordsRun :
    (let b := block 4
     let h := atBlock [] b
     let e : Hart := { h with full := 0xFFFFFFFFFFFFFFFB }
     let x (f : VR) : VWord := .core (.vaddI32 f)
     (at' h).AtWord 0 h b [] ∧ (at' e).AtWord 0 e b [] ∧ (∃ m, wordSem h (x (vr 1 2 3 0)) = some m ∧ ∃ n, ((at' h).convoyAt 0 h b).check [] m b.place = .ok n ∧ n ≠ 0) ∧
     (∃ m, wordSem e (x (vr 1 2 3 0)) = some m ∧ ((at' e).convoyAt 0 e b).check [] m b.place = .error .wait) ∧
     (∃ m, wordSem h (x (vr 1 2 32 0)) = some m ∧ ∃ t bad, ((at' h).convoyAt 0 h b).check [] m b.place = .error (.trap t bad))) :=
  ⟨at_word _ _ ⟨rfl, rfl⟩, at_front rfl rfl rfl ⟨rfl, rfl⟩ (Nat.succ_ne_zero 7) rfl rfl rfl rfl, ⟨_, rfl, _, rfl, by decide⟩, ⟨_, rfl, rfl⟩, ⟨_, rfl, _, _, rfl⟩⟩

/-- VectorStreamTurn: a block at its vstop, at a word that is no instruction, at one that cannot be fetched, at a word that runs. -/
theorem witness_VectorStreamTurn :
    (let h (pc : Nat) : Hart := { hart [] with blocks := [{ block 4 with pc := BitVec.ofNat 64 pc }], grant := 8 }
     let s (pc : Nat) (w : Nat) : State := withBytes (at' (h pc)) 0x18000 (leBytes 8 w)
     (s 0x18000 0).hart 0 = some (h 0x18000) ∧ (h 0x18000).state = .running ∧ (h 0x18000).restartNext = none ∧
     (s 0x18000 0x0100000000000000).fetchVWord ((h 0x18000).who 0) 0x18000 = .ok (some (.core .vstop)) ∧
     (s 0x18000 0).fetchVWord ((h 0x18000).who 0) 0x18000 = .ok none ∧ (s 0x60000 0).fetchVWord ((h 0x60000).who 0) 0x60000 = .error 4 ∧
     (∃ x m, (s 0x18000 0x0910000000000006).fetchVWord ((h 0x18000).who 0) 0x18000 = .ok (some x) ∧ wordSem (h 0x18000) x = some m) ∧
     (let r : Hart := { h 0x18000 with lq := (Vector.replicate 4 LoadQ.empty).setIfInBounds 1 ⟨[], [⟨0x18000, 0, (block 4).env⟩]⟩ }
      r.restartNext = some (1, ⟨0x18000, 0, (block 4).env⟩))) :=
  ⟨rfl, rfl, rfl, rfl, rfl, rfl, ⟨_, _, rfl, rfl⟩, rfl⟩

/-- A convoy of one word at the front of a hart issues and runs to its end, as a computation. -/
def completesB (s : State) (h : Hart) (b : Block) (m : Sem) : Bool :=
  match (s.convoyAt 0 h b).issueAll b [(b.pc, m)] [] [] b.env.vl with
  | .all c => (match ((s.convoyAt 0 h b).begunAll c).emptyQuery c with
    | .ok k0 => (match Convoy.run c b.elem (k0.fetchAhead c b.elem) with
      | .done _ => true
      | _ => false)
    | _ => false)
  | _ => false

theorem completes {s : State} {h : Hart} {b : Block} {m : Sem} (e : completesB s h b m = true) :
    ∃ c, (s.convoyAt 0 h b).issueAll b [(b.pc, m)] [] [] b.env.vl = .all c ∧
      ∃ k0, ((s.convoyAt 0 h b).begunAll c).emptyQuery c = .ok k0 ∧ ∃ k1, Convoy.run c b.elem (k0.fetchAhead c b.elem) = .done k1 := by
  unfold completesB at e
  split at e
  · next c hc =>
      split at e
      · next k0 h0 =>
          split at e
          · next k hk => exact ⟨c, hc, k0, h0, k, hk⟩
          · cases e
      · cases e
  · cases e

/-- VectorStreamTurn: a word at VL 4 that issues and runs to its end, and so a convoy that completes. -/
theorem witness_VectorStreamTurn_completes :
    (let b := block 4
     let h : Hart := { hart [] with blocks := [b], grant := 8 }
     let s : State := withBytes (at' h) 0x18000 (leBytes 8 0x0502081800000000)
     s.AtWord 0 h b [] ∧ h.restartNext = none ∧ ∃ x m, s.fetchVWord (h.who 0) 0x18000 = .ok (some x) ∧ b.sem h x = some m ∧ b.cut ≤ 8 ∧
       ∃ c, (s.convoyAt 0 h b).issueAll b [(b.pc, m)] [] [] b.env.vl = .all c ∧
         ∃ k0, ((s.convoyAt 0 h b).begunAll c).emptyQuery c = .ok k0 ∧ ∃ k1, Convoy.run c b.elem (k0.fetchAhead c b.elem) = .done k1) :=
  ⟨at_front rfl rfl rfl ⟨rfl, rfl⟩ (Nat.succ_ne_zero 7) rfl rfl rfl rfl, rfl, _, _, rfl, rfl, by decide, completes (by decide +kernel)⟩

/-! ### Witnesses: steps, traps, experts, the matrix core -/

/-- A cluster's hart of kernel 0 with its turn next: bytes of a word at 0x10000. -/
def turnOf (t : Turn) (w : Nat) (h : Hart) : State :=
  { withBytes { at' h with kernels := [{ kernel 1 with text := leBytes 8 w }] } 0x10000 (leBytes 8 w) with agenda := [t] }

/-- StepRunsTheDecodedWord: a hart's scalar word add s3, s4, s5; the vfma at the front of a block; an event of the agenda. -/
theorem witness_StepRunsTheDecodedWord :
    (let h := hart [(4, 7), (5, 8)]
     let s := turnOf (.scalar (.vec 0)) 0x04642800 h
     let u : State := { s with agenda := [], cur := .vec 0 }
     s.forced = none ∧ s.agenda = .scalar (.vec 0) :: [] ∧ u.scalar (.vec 0) = some h.sc ∧ u.scalarReady ∧
     (∃ bs, u.fetchBytes (u.who (.vec 0)) h.sc.pc.toNat 4 = .ok bs ∧ decodeTableWord 32 (leNat bs) = some (.add 3 4 5))) ∧
    (let b : Block := { block 4 with pc := 0x10000 }
     let h := atBlock [] b
     let s := turnOf (.vector 0) 0x0208041031DC1203 h
     let u : State := { s with agenda := [], cur := .vec 0 }
     s.forced = none ∧ s.hart 0 = some h ∧ h.state = .running ∧ h.restartNext = none ∧ h.blocks = b :: [] ∧
     (h.inConvoy = true ∨ u.stopSource 0 h true (if h.grant = 0 then [] else (u.nextConvoy 0 h b).map fun m => m.1.toNat) = none) ∧ (u.nextConvoy 0 h b).length ≤ 1 ∧
     (∃ bs, u.fetchBytes (h.who 0) b.pc.toNat 8 = .ok bs ∧ decodeTableWord 64 (leNat bs) = some (.vfma true ⟨4, 1, 2, 3, 3, true, 7, false, false, false, 1, 0⟩))) ∧
    (({ at' (hart []) with agenda := [.event (.scc 0) (.regrant 0)] } : State).forced = none ∧ mayOccur (.regrant 0) = true) :=
  ⟨⟨rfl, rfl, rfl, ⟨_, rfl, rfl, rfl, rfl, rfl⟩, ⟨_, rfl, rfl⟩⟩, ⟨rfl, rfl, rfl, rfl, rfl, .inr rfl, by decide, ⟨_, rfl, rfl⟩⟩, rfl, rfl⟩

/-- PerformedFrame: each party stands; a core inside its launch area and one outside. -/
theorem witness_PerformedFrame :
    (at' (hart [])).scalar (.vec 0) = some (regs []) ∧ (onMatrix (program (regs [])) [] []).scalar (.mcc 0) = some (regs []) ∧
    (onCopier (copier (regs []))).scalar (.seq 0) = some (regs []) ∧ (onCore (regs [])).scalar (.scc 0) = some (regs []) ∧
    ({ Die.reset with lpVa := 0x10000 } : Die).inArea (regs []).pc.toNat = true ∧ Die.reset.inArea (regs []).pc.toNat = false :=
  ⟨rfl, rfl, rfl, rfl, by decide, by decide⟩

/-- A context with a fault queue of 16 records at 0x80000 that delegates traps 0x01, 0x0F and 0x10. -/
def delegates : Context := { Context.reset with state := 1, fq := ⟨0x80000, 0, true, 4⟩, tdeleg := 0x18002 }

/-- TrapEntryAndReturn: a queue with room, and delegated causes; a cause that is not; a kernel whose end this cycle has decided; the record of a held
hart at a core. -/
theorem witness_TrapEntryAndReturn :
    (let s : State := { at' (hart []) with ctxs := [(0, delegates)] }
     s.Inv ∧ s.hart 0 = some (hart []) ∧ s.holdsOn' 0 0x10 = true ∧ s.holdsOn' 0 0x0F = true ∧ s.holdsOn' 0 1 = true ∧ s.holdsOn' 0 3 = false ∧
     s.queueStands 0 ∧ s.recent = [] ∧ (hart []).half = none ∧ s.kernel 0 0 = some (kernel 1) ∧ (kernel 1).state = .running ∧ (kernel 1).doomed = none ∧
     s.OnHart 0 (hart []) ∧ (hart []).quiet = true ∧ (Ctx.mk s s.cur (hart []).sc).regBusy 4 = false) ∧
    (let k : Kernel := { kernel 1 with doomed := some 3 }
     let s : State := { at' (hart []) with kernels := [k] }
     s.kernel k.ctx k.kid = some k ∧ k.state = .running ∧ ∀ x ∈ s.kernels, x.doomed ≠ none → x = k) ∧
    (onMatrix (program (regs [])) [] []).kernel 0 0 = some (kernel 1) ∧
    (let held := { hart [] with state := .held 0x10 }
     let s : State := { onCore (regs []) with harts := [(0, held)] }
     s.Issues (regs []) .super [] [] ∧ s.harts.find? (fun e => e.2.ofKernel (s.die 0).trCtx (s.die 0).trKernel && e.2.hartid == (s.die 0).trHart) = some (0, held) ∧
     (∀ e ∈ (onCore (regs [])).harts, ∀ cause, e.2.state ≠ .held cause)) :=
  ⟨⟨rfl, rfl, by decide, by decide, by decide, by decide, .inr ⟨by decide, by decide⟩, rfl, rfl, rfl, rfl, rfl, ⟨rfl, rfl⟩, rfl, by decide⟩,
   ⟨rfl, rfl, fun x hx _ => by simpa using hx⟩, rfl,
   issues rfl rfl (by decide) (by decide), rfl, fun e he cause => by
     obtain rfl : e = (0, hart []) := by simpa [onCore, at'] using he
     simp [hart, Hart.launch]⟩

/-- A query descriptor's record (R191): 4 rows of 8 columns from 0x20000, one that breaks R191. -/
def qrecord (len : Nat) : List Byte := leBytes 8 0x20000 ++ leBytes 2 0 ++ leBytes 2 0 ++ leBytes 4 len ++ leBytes 4 4 ++ leBytes 4 0 ++ leBytes 8 32

/-- QdescCreloc: a descriptor's record with 8 columns, and with 7; pages of the Cellar that creloc takes; a bad block in the source. -/
theorem witness_QdescCreloc :
    (∀ n ∈ [8, 7], let h := hart [(4, 0x40100)]
      let s := withBytes (at' h) (scratchKey 0 0x100) (qrecord n)
      s.Inv ∧ s.OnHart 0 h ∧ s.Issues h.sc .vecOnly [] [4, 0] ∧ (Ctx.mk s s.cur h.sc).memBusy false 15 0x40100 32 = false ∧
      (Ctx.mk s s.cur h.sc).recordPlace 0x40100 0x12 = .ok (scratchKey 0 0x100) ∧
      leNat (Memory.reads s.mem (scratchKey 0 0x100 + 12) 4) = n ∧ leNat (Memory.reads s.mem (scratchKey 0 0x100) 8) = 0x20000) ∧
    (let h := hart [(4, 0x20000), (5, 0x30000), (6, 0x20008)]
     let s := at' h
     s.Inv ∧ s.OnHart 0 h ∧ s.Issues h.sc .vecOnly [] [4, 5, 6] ∧ h.quiet = true ∧ h.reloc = 0 ∧ s.relocCause (h.who 0) 0x20000 0x30000 = none ∧
     s.relocCause (h.who 0) 0x20008 0x30000 = some (3, 0x20008) ∧ s.leaf 0 0x20000 = some (leaf 1 (2 ^ 40), 16) ∧
     s.leaf 0 0x30000 = some (leaf 1 (2 ^ 40 + 0x10000), 16) ∧ ({ s with bad := [2 ^ 40 + 64] } : State).relocCause (h.who 0) 0x20000 0x30000 = none ∧
     (s.context 0).state = 1) := by
  refine ⟨?_, rfl, ⟨rfl, rfl⟩, issues rfl rfl (by decide) (by decide), rfl, rfl, by decide, by decide, rfl, rfl, by decide, rfl⟩
  intro n hn
  have : n = 8 ∨ n = 7 := by simpa using hn
  rcases this with rfl | rfl <;>
    exact ⟨rfl, ⟨rfl, rfl⟩, issues rfl rfl (by decide) (by decide), rfl, rfl, by decide, by decide⟩

/-- A part whose context 0 has four experts and eight slots of 64 KiB. -/
def withExperts (h : Hart) (l : List (Nat × Expert)) (vest : List VestRec) : State :=
  { at' h with ctxs := [(0, { Context.reset with state := 1, nexp := 4, nslots := 8, xwin := 0x100000, vquota := 100 })], experts := l, vest := vest }

/-- ExpertWords: an expert absent, in its fetch and resident; an id out of range; a mask in and out of room; no record, one that is not ready, one that
is, and one that failed. -/
theorem witness_ExpertWords :
    (let h := hart [(4, 1), (5, 16384), (6, 3), (7, 0x8000)]
     let rec' (ready : Bool) (f : Option Nat) : VestRec := ⟨0, 0, 1, 0, 1, 1, ready, f⟩
     let s := withExperts h [(1, { Expert.reset with tier := 2 ^ 62, state := .resident, slot := 2 })] []
     s.OnHart 0 h ∧ s.Issues h.sc .vecOnly [3] [4, 5, 6, 7] ∧ s.dbg.silMode = 0 ∧ (h.sc.get 4).toNat < 16384 ∧ s.entryOf 0 1 = some 1 ∧
     (s.expert 1).state = .resident ∧ (s.expert 1).filled = [] ∧ chooseReplica (clusterDie 0) (tblGet 0 1 h.sets) (s.expert 1) = some (.home, 2) ∧
     (s.expert 1).tier ≠ 0 ∧ (s.expert 3).state = .absent ∧ s.entryOf 0 3 = some 3 ∧ (s.expert 3).tier = 0 ∧
     ((withExperts h [(1, { Expert.reset with state := .fetching })] []).expert 1).state = .fetching ∧ ¬((h.sc.get 5).toNat < 16384) ∧
     s.pendingAny 0 h (fun u => (1 : BitVec 4) != 0 && u.writes.contains (.m 1)) = false ∧ (Ctx.mk s s.cur h.sc).ffPending = false ∧
     s.pendingAny 0 h (fun u => u.writes.contains (.m 1) || u.reads.contains (.m 1)) = false ∧
     (Ctx.mk s s.cur h.sc).settled h = .ok () ∧ tokenTrap h.tok.toList 0xFF = none ∧
     (withExperts h [] [rec' false none]).vest.any (fun r => r.ctx == h.ctx && r.slot == 0) = true ∧
     (withExperts h [] [rec' false none, rec' true none]).vest = [rec' false none] ++ rec' true none :: [] ∧
     (withExperts h [] [rec' false (some 0x14)]).vest = [] ++ rec' false (some 0x14) :: [] ∧
     replicaSetOk 0x8000 = true ∧ replicaSetOk 0x8F00 = false ∧ (0x0000000100000002 : Word).field 31 8 = 0 ∧ (0x8000 : Word).field 31 8 ≠ 0) :=
  ⟨⟨rfl, rfl⟩, issues rfl rfl (by decide) (by decide), rfl, by decide, rfl, rfl, rfl, by decide, by decide, rfl, rfl, rfl, rfl, by decide, rfl, rfl, rfl, rfl, rfl, rfl,
   rfl, rfl, by decide, by decide, by decide, by decide⟩

/-- Records of mst (R181), mld.w and mld.a (R171, R172). -/
def mstRecord : List Byte := leBytes 8 0x10000 ++ leBytes 4 0 ++ leBytes 4 384
def mldwBytes : List Byte := leBytes 4 4 ++ leBytes 4 1 ++ List.replicate 56 0
def mldaBytes : List Byte := leBytes 8 0x10000 ++ leBytes 1 1 ++ leBytes 3 0 ++ leBytes 4 4 ++ leBytes 4 32 ++ List.replicate 12 0

/-- MatrixWords: accumulators claimed and not; both pipes empty and one full; the three records. -/
theorem witness_MatrixWords :
    (let m := program (regs [(4, 0x40100), (5, 1), (6, 4)])
     let s := withBytes (onMatrix m [] []) (scratchKey 0 0x100) mstRecord
     let sw := withBytes (onMatrix (program (regs [(4, 0x10000)])) [] []) 0x10000 mldwBytes
     let sa := withBytes (onMatrix m [] []) (scratchKey 0 0x100) mldaBytes
     let full := List.replicate 8 (⟨.mzero 0, 0x10000, 0, false, 0, 0, 0⟩ : MatOp)
     s.cur = .mcc 0 ∧ (s.cluster 0).mcc = some m ∧ m.claims.getLsbD (1 : BitVec 2).toNat = true ∧ m.claims.getLsbD (2 : BitVec 2).toNat = false ∧
     m.released.getLsbD (1 : BitVec 2).toNat = false ∧ (s.cluster 0).fillq = [] ∧ (s.cluster 0).arrq = [] ∧
     ((onMatrix m full full).cluster 0).arrq.length = 8 ∧ ((onMatrix m full full).cluster 0).fillq ≠ [] ∧ (m.sc.get 6).toNat = 4 ∧
     (∃ r, s.engineBytes { s.who s.cur with eng := 3 } true 2 0x40100 16 = .done r ∧ recNat r 8 1 = 0 ∧ recNat r 9 3 = 0 ∧ recNat r 12 4 = 384 ∧ recNat r 0 8 = 0x10000) ∧
     (∃ r, sw.engineBytes { sw.who sw.cur with eng := 3 } false 2 0x10000 64 = .done r ∧ recNat r 0 4 = 4 ∧ recNat r 4 1 = 1 ∧ recNat r 6 58 = 0) ∧
     (∃ r, sa.engineBytes { sa.who sa.cur with eng := 3 } true 2 0x40100 32 = .done r ∧ recNat r 8 1 = 1 ∧ recNat r 12 4 = 4 ∧ recNat r 16 4 = 32 ∧ recNat r 24 8 = 0) ∧
     operandFmt 1 = true ∧ (Ctx.mk s s.cur m.sc).unstored 0 0x40100 16 = false ∧ (Ctx.mk sw sw.cur (regs [(4, 0x10000)])).unstored 0 0x10000 64 = false ∧
     (Ctx.mk sa sa.cur m.sc).unstored 0 0x40100 32 = false) :=
  ⟨rfl, rfl, by decide, by decide, by decide, rfl, rfl, rfl, by decide, by decide, ⟨_, rfl, by decide, by decide, by decide, by decide⟩,
   ⟨_, rfl, by decide, by decide, by decide⟩, ⟨_, rfl, by decide, by decide, by decide, by decide⟩, by decide, rfl, rfl, rfl⟩

/-- MatrixWords: an mst that is still to store into the record or header that a word reads. -/
theorem witness_MatrixWords_unstored :
    (let m := program (regs [(4, 0x40100)])
     let s := onMatrix m [] [⟨.mst 0 0x40000 0 384 0, 0x10000, 0, false, 0, 0, 0⟩]
     ∀ n ∈ [16, 32, 64], (Ctx.mk s s.cur m.sc).unstored 0 0x40100 n = true) := by decide +kernel

/-- A scratchpad page at 0x60000 of context 0. -/
def window : TlbEntry := ⟨0, 0x60000, 12, leaf 2 0⟩
def scratchState (op : MatOp) : State := { onMatrix (program (regs [])) [] [op] with tlb := [window] }

/-- Two states keep the same translations, regions and page waits: a store of an array operation lands at the same place in both. -/
def SamePlaces (s t : State) : Prop := s.tlb = t.tlb ∧ s.regions = t.regions ∧ s.pageWaits = t.pageWaits

theorem place_same {s t : State} {w : Who} {va : Nat} (e : SamePlaces s t) (h : (tlbFind w.ctx va t.tlb).isSome = true) :
    s.mstPlace w va = t.mstPlace w va := by
  obtain ⟨a, b, c⟩ := e
  obtain ⟨x, hx⟩ := Option.isSome_iff_exists.mp h
  simp only [State.mstPlace, State.awaitsPage, State.xlate, State.leaf, a, b, c, hx]

theorem poke_same {s t : State} (ctx k : Nat) (bs : List Byte) (e : SamePlaces s t) : SamePlaces (s.pokeBy ctx k bs) t := by
  have o : SamePlaces (s.own ctx k) t := by unfold State.own; split <;> exact e
  unfold State.pokeBy State.poke
  cases keyScratch k with
  | none => exact o
  | some p => by_cases z : bs.isEmpty <;> simp only [z] <;> exact o

/-- An mst whose rows all lie in one scratchpad page stores every byte. -/
theorem stores_all (w : Who) (c : Cluster) (t : State)
    (ok : ∀ a, a < 384 → (tlbFind w.ctx (0x60000 + a) t.tlb).isSome = true ∧ ∃ p, t.mstPlace w (0x60000 + a) = .done p) :
    ∀ n i (s : State), SamePlaces s t → ∃ u m, s.storeCells w c 0 0x60000 0 0 0 n i = (u, m, none) := by
  intro n
  induction n with
  | zero => intro i s _; exact ⟨s, i, rfl⟩
  | succ n ih =>
    intro i s e
    have b : fmtBytes 0 = 4 := rfl
    have z : mstByteAddr 0x60000 0 0 i = 0x60000 + (4 * (i / 4 % 96) + i % 4) := by
      have m : i / 4 % 96 < 96 := Nat.mod_lt _ (by decide)
      have m2 : i % 4 < 4 := Nat.mod_lt _ (by decide)
      rw [mstByteAddr, mstAddr, b]; omega
    have lt : 4 * (i / 4 % 96) + i % 4 < 384 := by omega
    obtain ⟨f, p, hp⟩ := ok _ lt
    have h : s.touch w.ctx (0x60000 + (4 * (i / 4 % 96) + i % 4)) = s := by
      obtain ⟨x, hx⟩ := Option.isSome_iff_exists.mp f
      rw [← e.1] at hx
      simp only [State.touch, hx]
    rw [State.storeCells]
    simp only [z, place_same e f, hp, h]
    exact ih (i + 1) _ (poke_same _ _ _ e)

/-- MatrixEvents: each operation at the head of its pipe, not started and started; its runs present and absent. -/
theorem witness_MatrixEvents :
    (let a : Run := ⟨0, 1, true, 1, false, false, 4, 0, .mzero 0, 0, 0, [], []⟩
     let b : Run := ⟨8, 1, false, 1, false, false, 4, 0, .mzero 0, 0, 0, [], []⟩
     let op (k : MatKind) (started : Bool) : MatOp := ⟨k, 0x10000, 0, started, 0, 0, 0⟩
     let s (k : MatKind) (started : Bool) (l : List Run) : State :=
       { onMatrix (program (regs [])) [] [] with clusters := [(0, { Cluster.reset with mcc := some (program (regs [])), arrq := [op k started], larder := l })] }
     let f (k : MatKind) : State :=
       { onMatrix (program (regs [])) [op k true] [] with tlb := pages }
     let mma : MatKind := .mma 1 0 8 true 16
     ((s (.mzero 1) false []).cluster 0).headOp false = some (op (.mzero 1) false) ∧ (s (.mzero 1) false []).mayBegin 0 false (op (.mzero 1) false) = true ∧
     ((s mma false [a, b]).cluster 0).headOp false = some (op mma false) ∧ (s mma false [a, b]).mayBegin 0 false (op mma false) = true ∧
     ((s mma false [a, b]).cluster 0).runAt 0 = some a ∧ ((s mma false [a, b]).cluster 0).runAt 8 = some b ∧ pairOk a b = true ∧
     ((s mma false [a]).cluster 0).runAt 8 = none ∧ (s mma true [a, b]).arrayBad 0 (op mma true) = none ∧
     (s (.mscale 1 3) true []).arrayBad 0 (op (.mscale 1 3) true) = none ∧ (op (.mscale 1 3) true).ends = 0 ∧ (op (.mzero 1) true).ends = 0 ∧
     (op mma true).ends = 127 ∧ (op mma true).due + (op mma true).rows ≤ (s mma true [a, b]).time ∧ (s mma false [a]).kernel 0 0 = some (kernel 1) ∧
     ((s mma true [a, b]).cluster 0).arrq = op mma true :: [] ∧ ((s (.mscale 1 3) true []).cluster 0).arrq = op (.mscale 1 3) true :: [] ∧
     (∃ bs, (f (.mldW 0x10000 0 4 1 false false)).engineBytes ((f (.mldW 0x10000 0 4 1 false false)).pipeWho 0 true) false 2 0x10040 768 = .done bs) ∧
     bCodeBytes 1 4 false + bScaleBytes 4 false = 768) ∧
    (let op : MatOp := ⟨.mst 0 0x60000 0 0 0, 0, 0, true, 0, 0, 0⟩
     (scratchState op).arrayBad 0 op = none ∧ op.ends ≤ (scratchState op).time ∧ ∃ u n, (scratchState op).storeCells ((scratchState op).pipeWho 0 false)
       ((scratchState op).cluster 0) 0 0x60000 0 0 0 (mstBytes 0 - op.rows) op.rows = (u, n, none)) :=
  ⟨⟨rfl, rfl, rfl, rfl, rfl, rfl, rfl, rfl, rfl, rfl, rfl, rfl, rfl, by decide, rfl, rfl, rfl, ⟨_, rfl⟩, by decide⟩, rfl, by decide,
   stores_all _ _ (scratchState ⟨.mst 0 0x60000 0 0 0, 0, 0, true, 0, 0, 0⟩)
    (fun a ha => by
      let t := scratchState ⟨.mst 0 0x60000 0 0 0, 0, 0, true, 0, 0, 0⟩
      have all : ∀ x : Fin 384, (tlbFind 0 (0x60000 + x.val) [window]).isSome = true ∧
        t.mstPlace (t.pipeWho 0 false) (0x60000 + x.val) = .done ⟨2, scratchKey 0 x.val, 0⟩ := by decide +kernel
      exact ⟨(all ⟨a, ha⟩).1, _, (all ⟨a, ha⟩).2⟩) (mstBytes 0) 0 _ ⟨rfl, rfl, rfl⟩⟩

theorem rows_all (s : State) (w : Who) (base m : Nat) (xs : List Byte) (h : s.engineBytes w true (m / 4096 + 2) base m = .done xs) :
    ∀ n, ∃ bs, s.engineRows w base 0 m n = .done bs ∧ bs.length = n * xs.length := by
  intro n
  induction n with
  | zero => exact ⟨[], rfl, by simp⟩
  | succ n ih =>
    obtain ⟨bs, e, l⟩ := ih
    refine ⟨bs ++ xs, ?_, ?_⟩
    · simp only [State.engineRows, e, Nat.mul_zero, Nat.add_zero, h]
    · rw [List.length_append, l, Nat.succ_mul]

/-- MatrixEvents: an A tile of K 4 at format 1 that reads whole, and scales beside it. -/
theorem witness_MatrixEvents_tile :
    (let s := onMatrix (program (regs [])) [⟨.mldA 0 0x40000 4 1 false 0 0, 0, 0, true, 0, 0, 0⟩] []
     (∃ bs, s.engineRows (s.pipeWho 0 true) 0x40000 0 (4 * fmtBits 1 / 8) 128 = .done bs ∧ bs.length = aCodeBytes 1 4) ∧
     ∃ ss, s.engineBytes (s.pipeWho 0 true) true (aScaleBytes 4 true / 4096 + 2) 0x40200 (aScaleBytes 4 true) = .done ss) :=
  by
  intro s
  have r : s.engineBytes (s.pipeWho 0 true) true (8 / 4096 + 2) 0x40000 8 = .done (List.replicate 8 0) := rfl
  exact ⟨rows_all s _ 0x40000 8 _ r 128, _, rfl⟩

/-! ### Witnesses: the supervisor, scheduling, the registers, the platform -/

/-- A core at 0x10000 with registers as listed, over the memory of withBytes. -/
def coreWith (l : List (Nat × Nat)) (k : Nat) (bs : List Byte) : State := withBytes (onCore (regs l)) k bs

/-- The header and text of an image (R102), a kernel record that launches it in context 0 (R306), and a save image of no section (R291). -/
def header : List Byte := leBytes 4 0x314B5944 ++ leBytes 2 1 ++ leBytes 1 8 ++ leBytes 1 8 ++ leBytes 8 0 ++ leBytes 8 0x40 ++ leBytes 8 8
def launchRec : List Byte := leBytes 8 0x18000 ++ leBytes 8 0 ++ leBytes 4 1 ++ leBytes 4 0 ++ leBytes 8 0 ++ List.replicate 8 0xFF
def saveImage : List Byte := imageBytes []
def saveDesc (ctx : Nat) : List Byte := leBytes 8 ctx ++ leBytes 8 0x11000 ++ leBytes 8 4096 ++ List.replicate 40 0

/-- SupervisorWords: a tlbinv of a page and of a context, an illegal one; descriptors that name a resident and a saved context; records that are illegal
and legal; live kernels and none; a hart that logs. -/
theorem witness_SupervisorWords :
    (let s := coreWith [(4, 0x10000), (5, 3)] 0x10000 (saveDesc 0)
     let c := regs [(4, 0x10000), (5, 3)]
     s.Inv ∧ s.cur = .scc 0 ∧ s.Issues c .super [] [] ∧ (c.get 4).field 11 0 = 0 ∧ (c.get 5).field 11 0 ≠ 0 ∧ (c.get 4).getLsbD 57 = false ∧
     (s.die 0).tlbWait = none ∧ ((s.tlbRemove 0 0x10000 false).tlbHolders 0 0x10000 false).any (s.tlbRemove 0 0x10000 false).tlbHeld = false ∧ (c.get 4).toNat % 64 = 0 ∧ (c.get 5).toNat % 64 ≠ 0 ∧
     s.xlate (s.who s.cur) .store 0x10000 = .ok ⟨0, 0x10000, 0⟩ ∧ leNat (Memory.reads s.mem 0x10000 1) = 0 ∧ s.killing 0 = false ∧
     (s.context 0).state = 1 ∧ (s.die 0).saving = none ∧ (s.die 0).killing = none ∧ s.settling 0 = false ∧ s.stopsDue 0 = [] ∧ leNat (Memory.reads s.mem 0x10010 8) = 4096 ∧
     (c.get 5).toNat < 2 ^ 22 ∧ s.kernel 0 3 = none ∧ ({ s with kernels := [{ kernel 1 with kid := 3 }] } : State).kernel 0 3 = some { kernel 1 with kid := 3 }) :=
  ⟨rfl, rfl, issues rfl rfl (by decide) (by decide), by decide, by decide, by decide, rfl, rfl, by decide, by decide, rfl, by decide, rfl, rfl, rfl, rfl, rfl, rfl,
    by decide, by decide, rfl, rfl⟩

/-- SupervisorWords, ctxsave begun: the context of a core that saves it is resident, nothing of it is under way, and its image does not fit 16 bytes; a
tlbinv that waits for a query word in issue, and one that waits for nothing. -/
theorem witness_SupervisorWords_begun :
    (let b : Block := { block 4 with issued := true, pins := [⟨0x10000, 16, leaf 0 0x10000, true⟩] }
     let s : State := { onCore (regs []) with dies := Vector.replicate 4 { Die.reset with running := true, core := regs [], saving := some 0, killing := some 7 } }
     let t : State := { onCore (regs []) with harts := [(0, { hart [] with blocks := [b], grant := 8 })] }
     (s.die 0).saving = some 0 ∧ (s.die 0).killing = some 7 ∧ (∀ x ∈ s.kernels, x.order ≠ 7) ∧ s.killing 0 = false ∧ s.settling 0 = false ∧ s.stopsDue 0 = [] ∧
     ((t.tlbRemove 0 0x10000 false).tlbHolders 0 0x10000 false).any (t.tlbRemove 0 0x10000 false).tlbHeld = true) :=
  ⟨rfl, rfl, by decide, rfl, rfl, rfl, by decide⟩

theorem witness_SupervisorWords_ctxload :
    (let s : State := (coreWith [(4, 0x10000)] 0x10000 (saveDesc 1)).poke 0x11000 saveImage
     let t : State := { s with ctxs := [(0, { Context.reset with state := 1 }), (1, { Context.reset with state := 2 })] }
     t.xlate (t.who t.cur) .store 0x10000 = .ok ⟨0, 0x10000, 0⟩ ∧ leNat (Memory.reads t.mem 0x10000 1) = 1 ∧ (t.context 1).state = 2 ∧ t.placesFree 1 = true ∧
     leNat (Memory.reads t.mem 0x11000 4) = 0x58435944 ∧ leNat (Memory.reads t.mem 0x11004 2) = 1 ∧ leNat (Memory.reads t.mem 0x11008 8) = 64 ∧
     parseSections (leNat (Memory.reads t.mem 0x11006 2)) (Memory.reads t.mem 0x11040 0) = some [] ∧ (∃ u, t.restore 1 [] = some u)) :=
  ⟨rfl, by decide, rfl, rfl, by decide, by decide, by decide, rfl, ⟨_, rfl⟩⟩

theorem image_read {s : State} {d ctx image : Nat} {p : Place} (a : (s.die d).images = []) (b : image < 2 ^ 57)
    (x : s.xlate (launchWho ctx d) .load image = .ok p) (y : headerOk (s.peek p.key 64) = true) :
    ∃ u e, s.imageFor d ctx image = .ok (u, e) ∧ headerOk e.head = true := by
  unfold State.imageFor
  simp only [a, List.find?_nil, if_neg (Nat.not_le.mpr b), x]
  exact ⟨_, _, rfl, y⟩

theorem witness_SupervisorWords_klaunch :
    (let s := (coreWith [(4, 0x10000)] 0x10000 launchRec).poke 0x18000 header
     (s.die 0).pendingLaunch = none ∧ s.xlate (s.who s.cur) .load 0x10000 = .ok ⟨0, 0x10000, 0⟩ ∧
     parseLaunch (Memory.reads s.mem 0x10000 128) = some ⟨0x18000, 0, 1, 0, 0, 0, [], 0, []⟩ ∧
     (∃ u e, (s.touch 0 0x10000).imageFor 0 0 0x18000 = .ok (u, e) ∧ headerOk e.head = true) ∧ s.heldBy 0 < 256 ∧
     parseLaunch (List.replicate 128 1) = none) :=
  ⟨rfl, rfl, rfl, image_read rfl (by decide) (p := ⟨0, 0x18000, 1⟩) rfl rfl, by decide, by decide⟩

theorem witness_SupervisorWords_logmark :
    (let h := hart [(4, 7)]
     let s : State := { at' h with dbg := { Debug.reset with silMode := 1, silPa := 0x80000 } }
     s.OnHart 0 h ∧ s.Issues h.sc .traps [] [4] ∧ s.dbg.silMode = 1 ∧ s.dbg.sel = h.ctx ∧ h.quiet = true ∧ physOk 0x80000 (64 + 16 * 2 ^ 4) = true ∧
     (s.peekNat 0x80000 8 + 2 ^ 64 - s.peekNat 0x80008 8) % 2 ^ 64 + 1 < 2 ^ s.dbg.silLg) :=
  ⟨⟨rfl, rfl⟩, issues rfl rfl (by decide) (by decide), rfl, rfl, rfl, by decide, by decide⟩

/-- SchedulingEvents: a lone hart with blocks, a budget reached, a digest owed, a sample due, a bank that has rested, a kernel to place, a launch that
waits, a transfer performed and one that fails, a kernel that waits, a change of the clock mode, a kill that ends. -/
theorem witness_SchedulingEvents :
    (let h := hart []
     let s := at' h
     s.hart 0 = some h ∧ h.atBoundary = true ∧ s.clkCur = false ∧ h.runnable = true ∧ s.harts.filter (fun e => slotCluster e.1 == 0) = [(0, h)] ∧ h.lanes = 64 ∧
     ({ s with kernels := [{ kernel 1 with budget := 5, count := 5 }] } : State).kernel 0 0 = some { kernel 1 with budget := 5, count := 5 } ∧
     (at' { h with digestDue := true }).hart 0 = some { h with digestDue := true } ∧ ({ h with digestDue := true } : Hart).quiet = true ∧
     (∃ u, (at' { h with digestDue := true }).syncEvent 0 0 0 13 (some 0) = .pass u) ∧
     (let q : State := { s with dbg := { Debug.reset with smpPer := 100 } }
      q.Inv ∧ q.dbg.smpPer ≠ 0 ∧ q.dbg.sel = h.ctx ∧ physOk q.dbg.smpPa 64 = true ∧ q.peekNat q.dbg.smpPa 8 = 0) ∧
     (0 : Nat) ∉ h.retained ∧ tblGet h.placedAt 0 h.touched + 4096 ≤ ({ s with time := 4096 } : State).time) ∧
    (let k : Kernel := { kernel 1 with state := .ready, placed := 0, kid := 1 }
     let s : State := { at' (hart []) with kernels := [kernel 1, k], time := 1 }
     s.clkReq = s.clkCur ∧ s.toPlace = [k] ∧ k.n = k.placed + 1 ∧ s.findCluster k = some 0 ∧ s.freeHartSlot 0 = some 1 ∧ k.scratch = 0) ∧
    (let d : State := { at' (hart []) with dies := Vector.replicate 4 { Die.reset with pendingLaunch := some (3, kernel 1, true) } }
     (d.die 0).pendingLaunch = some (3, kernel 1, true) ∧ d.heldBy 0 < 256 ∧ (d.context 0).state = 1 ∧ (kernel 1).n ≤ 2048) ∧
    (let tr (dst : Nat) : Transfer := ⟨0x10000, dst, 64, 0, false⟩
     let k (dst : Nat) : Kernel := { kernel 1 with state := .waiting, trans := [tr dst] }
     let s (dst : Nat) : State := { at' (hart []) with kernels := [k dst] }
     (s 0x18000).kernel 0 0 = some (k 0x18000) ∧ (k 0x18000).trans[0]? = some (tr 0x18000) ∧
     ((s 0x18000).transferGo (State.enter.transferWho (k 0x18000) 0) (tr 0x18000) 4 0).2.2 = none ∧
     (∃ side e va key, ((s 0x40000).transferGo (State.enter.transferWho (k 0x40000) 0) (tr 0x40000) 4 0).2.2 = some (side, .failed e va key)) ∧
     (∃ side, ((s 0x70000).transferGo (State.enter.transferWho (k 0x70000) 0) (tr 0x70000) 4 0).2.2 = some (side, .absent 0x70000)) ∧ (k 0x40000).done = 0) ∧
    (let k : Kernel := { kernel 1 with state := .waiting }
     ({ at' (hart []) with kernels := [k] } : State).kernel 0 0 = some k ∧ (∀ x ∈ k.trans, x.done = true) ∧ k.after = [] ∧ k.n ≠ 0) ∧
    (({ State.reset with clkReq := true } : State).clkReq ≠ ({ State.reset with clkReq := true } : State).clkCur ∧ State.reset.harts = []) ∧
    (({ at' (hart []) with kernels := [{ kernel 1 with state := .killing 3 5 }] } : State).kernel 0 0 = some { kernel 1 with state := .killing 3 5 } ∧
     ((at' (hart [])).context 0).disc = false ∧ (kernel 1).done = 0) := by
  refine ⟨⟨rfl, rfl, rfl, rfl, rfl, rfl, rfl, rfl, rfl, ⟨_, rfl⟩, ⟨rfl, by decide, rfl, by decide, rfl⟩, by decide, by decide⟩,
   ⟨rfl, rfl, rfl, rfl, rfl, rfl⟩, ⟨rfl, by decide, rfl, by decide⟩, ⟨rfl, rfl, rfl, ⟨_, _, _, _, rfl⟩, ⟨_, rfl⟩, rfl⟩, ⟨rfl, by decide, rfl, by decide⟩,
   ⟨by decide, rfl⟩, rfl, rfl, rfl⟩

/-- RegisterEvents: a core on turn, an entry resident, pinned and absent, a context of each state, a register write of the SLT that waits. -/
theorem witness_RegisterEvents :
    (onCore (regs [])).cur = .scc 0 ∧ (∃ cr : BitVec 12, cr.toNat = 0xB01) ∧
    (let s : State := withExperts (hart []) [(1, { Expert.reset with state := .resident, slot := 2 })] []
     s.entryOf 0 1 = some 1 ∧ (s.expert 1).state = .resident ∧ s.holdsOn 0 1 = 0 ∧ s.recordsOn 0 1 = 0 ∧ s.OnHart 0 (hart []) ∧ (hart []).quiet = true ∧
     ((withExperts (hart []) [(1, { Expert.reset with state := .pinned, slot := 2 })] []).expert 1).state = .pinned) ∧
    (State.reset.context 0).state = 0 ∧ ({ State.reset with ctxs := [(0, { Context.reset with state := 3 })] } : State).context 0 = { Context.reset with state := 3 } ∧
    ({ State.reset with ctxs := [(0, { Context.reset with state := 2 })] } : State).context 0 = { Context.reset with state := 2 } ∧
    (let w : SltPending := ⟨1, 2, 3, 4⟩
     ({ State.reset with sltWaits := [w] } : State).sltWaits.filter (fun w => w.stack == 1 && w.chan == 2) = [w] ∧ w.reg < 256) ∧
    State.reset.clkCur = false ∧ ({ State.reset with clkCur := true } : State).clkCur = true :=
  ⟨rfl, ⟨0xB01, by decide⟩, ⟨rfl, rfl, rfl, rfl, ⟨rfl, rfl⟩, rfl, rfl⟩, rfl, rfl, rfl, ⟨rfl, by decide⟩, rfl, rfl⟩

/-- ExpertTierEvents: a fetch that finds a free slot, one that evicts and one that finds none; its end, whole and with a lost port; a replica to fill; a
command of each op; a context that faults and one whose discard ends. -/
theorem witness_ExpertTierEvents :
    (let x : Expert := { Expert.reset with state := .fetching, tier := 0 }
     let s := withExperts (hart []) [(1, x)] []
     let full : Context := { Context.reset with state := 1, nexp := 4, nslots := 1, xwin := 0x100000 }
     let t : State := { at' (hart []) with ctxs := [(0, full)], experts := [(1, x), (2, { Expert.reset with state := .resident })], slots := [(0, 2)] }
     let n : State := { at' (hart []) with ctxs := [(0, full)], experts := [(1, x), (2, { Expert.reset with state := .pinned })], slots := [(0, 2)] }
     s.entryOf 0 1 = some 1 ∧ (s.expert 1).state = .fetching ∧ s.freeSlot 0 = some 0 ∧ t.freeSlot 0 = none ∧ t.victim 0 = some 2 ∧ t.entryOf 0 2 = some 2 ∧
     (t.evict 0 2).freeSlot 0 = some 0 ∧ n.freeSlot 0 = none ∧ n.victim 0 = none) ∧
    (let x : Expert := { Expert.reset with state := .fetching, started := true, slot := 1 }
     let s : State := { withExperts (hart []) [(1, x)] [] with tlb := [⟨0, 0x110000, 16, leaf 0 0x20000⟩, ⟨0, 0x100000, 16, leaf 0 0x30000⟩] }
     (s.expert 1).started = true ∧ s.tierCause x.tier = none ∧ (∃ u, s.fetchPages 0 0 0x110000 1 = (u, none)) ∧
     ({ s with tierLost := [0] } : State).tierCause x.tier = some 0x14 ∧
     (let y : Expert := { Expert.reset with state := .resident, slot := 1, staged := 0x8000 }
      let r : State := { s with experts := [(1, y)] }
      (r.expert 1).state = .resident ∧ (0x8000 : BitVec 16).getLsbD 15 = true ∧ r.replicaWanted 0 1 0x8000 = true ∧ (∀ r ∈ y.filled, r.1 ≠ 0x8000) ∧
      fieldPeer 0x8000 = false ∧ r.freeSlot 0 = some 0 ∧ r.slotBad 0 0x110000 1 = none ∧ (∃ u, r.copySlot 0 0x110000 0x100000 1 = some u))) ∧
    (let d : Die := { Die.reset with cmds := (List.range 5).map fun o => ⟨o, 0, 0, 0, 0x20000, 2 ^ 40, 0x10000, none⟩ }
     let s : State := { at' (hart []) with dies := Vector.replicate 4 d }
     s.Inv ∧ (s.die 0).tfLimit.toNat < (s.die 0).tfPos.toNat + 64 ∧
     (∀ o ∈ [1, 2, 3, 4], (s.die 0).cmds[o]? = some ⟨o, 0, 0, 0, 0x20000, 2 ^ 40, 0x10000, none⟩) ∧ pageLg 0 = some 12 ∧ s.tierCause 0 = none ∧
     s.framePinned 0x20000 12 = false ∧ (∀ b ∈ s.bad, b < 0 ∨ 4096 ≤ b) ∧ s.xlate (tierWho 0) .store 0x10000 = .ok ⟨0, 0x10000, 0⟩ ∧
     s.xlate (tierWho 0) .store 0x10007 = .ok ⟨0, 0x10007, 0⟩ ∧ s.frameCut 0x20000 = false ∧ s.frameCut (2 ^ 40) = false ∧
     ({ s with stackDown := [0] } : State).frameCut (2 ^ 40) = true ∧ s.awaitsPage (tierWho 0) 0x10000 = false ∧ s.awaitsPage (tierWho 0) 0x10007 = false ∧
     ({ s with pageWaits := [(tierWho 0).pageWait 0x10000] } : State).awaitsPage (tierWho 0) 0x10000 = true) ∧
    (at' (hart [])).leaf 0 0x70000 = none ∧ ((at' (hart [])).context 0).state = 1 ∧
    ({ State.reset with ctxs := [(0, { Context.reset with state := 3, disc := true })] } : State).context 0 = { Context.reset with state := 3, disc := true } := by
  refine ⟨⟨rfl, rfl, rfl, rfl, rfl, rfl, rfl, rfl, rfl⟩, ⟨rfl, rfl, ⟨_, rfl⟩, rfl, rfl, by decide, rfl, by decide, by decide, rfl, rfl, ⟨_, rfl⟩⟩,
    ⟨rfl, by decide, by decide, rfl, rfl, rfl, by decide, rfl, rfl, rfl, rfl, by decide, rfl, rfl, by decide⟩, rfl, rfl, rfl⟩

/-- PlatformEvents: mailboxes with a request of ops 0, 1 and 4, assigned and not; base dies in and out of fallback; each clock mode; each boot stage; a
port up and down; flits that fail their check and that ask this node; the host's range. -/
theorem witness_PlatformEvents :
    (let s : State := { at' (hart []) with rung := [false], msvcEn := true, msvcPa := 0x80000 }
     s.Inv ∧ s.mboxRung false = true ∧ physOk s.msvcPa 4096 = true ∧ s.mboxNat false 8 2 = 0 ∧ 5 ≤ s.stage ∧
     (withBytes s 0x80008 [1]).mboxNat false 8 2 = 1 ∧ (withBytes s 0x80008 [4]).mboxNat false 8 2 = 4 ∧
     ({ State.reset with rung := [true], mbox := [(0, 1)] } : State).mboxRung true = true ∧ State.reset.stage < 5 ∧
     (0x1 : Word) &&& ~~~0xF800 ≠ 0 ∧ (0xF800 : Word) &&& ~~~0xF800 = 0 ∧ (2 ^ 20 - 1) + 1 = 2 ^ 20 ∧
     State.reset.doe = none ∧ State.reset.doeWait = [] ∧ ({ State.reset with doe := some (spdmReply 1 []) } : State).doe ≠ none ∧
     (∃ n, dbgAssigned n = true) ∧ (∃ n, dbgAssigned n = false) ∧ (∃ n, monAssigned n = true) ∧ ∃ n, monAssigned n = false) ∧
    (State.reset.baseDie 3).fb = false ∧ (State.reset.baseDie 3).pointer < 2 ^ 20 ∧ State.reset.beatsMissed (State.reset.baseDie 3) = false ∧
    ({ State.reset with wall := twoMicroseconds } : State).beatsMissed (State.reset.baseDie 3) = true ∧
    (let b : BaseDie := { BaseDie.reset with alerts := [(5, 2, true)] }
     (5, 2, true) ∈ (({ State.reset with base := [(3, b)] } : State).baseDie 3).alerts) ∧ (5, 2, true) ∉ (State.reset.baseDie 3).alerts ∧
    (let b : BaseDie := { BaseDie.reset with fb := true, restarted := true, beats := 2 }
     ({ State.reset with base := [(3, b)] } : State).baseDie 3 = b) ∧
    State.reset.clkCur = false ∧ ({ State.reset with clkCur := true } : State).clkCur = true ∧ State.reset.fail = false ∧
    (∀ n ∈ [0, 1, 2, 3, 4], ({ State.reset with stage := n } : State).stage < 5) ∧ (2 : Nat) ∉ State.reset.portDown ∧
    (let f (op : FlitOp) : Flit := ⟨Config.ownNode, 0, 1, op, true⟩
     (f (.read 0x1000 192)).crcOk = true ∧ 0x1000 + 192 ≤ 2 ^ 38 ∧ (f (.amo 0x1000 0 true 1 0)).dst = Config.ownNode) ∧
    (let s : State := { State.reset with mhdmBase := 0, mhdmGib := 1 }
     s.mhdmBase ≤ 0x40 ∧ 0x40 + 64 ≤ min (s.mhdmBase + s.mhdmGib * 2 ^ 30) (2 ^ 38)) := by
  refine ⟨⟨rfl, rfl, by decide, by decide, by decide, by decide, by decide, rfl, by decide, by decide, by decide, rfl, rfl, rfl, (by intro z; cases z), ⟨0xC00, by decide⟩, ⟨0, by decide⟩, ⟨0xB00, by decide⟩, ⟨0, by decide⟩⟩,
    rfl, by decide, by decide, by decide, by decide, by decide, rfl, rfl, rfl, rfl, by decide, by decide, ⟨rfl, by decide, rfl⟩, by decide, by decide⟩

/-- ResetValues, StepKeepsInvariant: the state after reset has the invariant, and a step goes on from it. -/
theorem witness_StepKeepsInvariant : State.reset.Inv ∧ ∃ t, exec (.clkmodeWrite 1) State.reset = .next t := ⟨rfl, _, rfl⟩

/-! ### Values, worked by hand from the rules -/

/-- Register d after a word that a hart with the listed registers performs. -/
def after (i : Instr) (l : List (Nat × Nat)) (d : Reg) : Option Nat :=
  match exec i (at' (hart l)) with
  | .next t => (t.hart 0).map fun h => (h.sc.get d).toNat
  | _ => none

/-- pc after such a word. -/
def pcAfter (i : Instr) (l : List (Nat × Nat)) : Option Nat :=
  match exec i (at' (hart l)) with
  | .next t => (t.hart 0).map fun h => h.sc.pc.toNat
  | _ => none

/-- Element e of register r after a word at VL 4 of a hart that holds elements. -/
def elemAfter (i : Instr) (v : Tbl Slot) (r e : Nat) : Option Nat :=
  match exec i (at' { atBlock [] (block 4) with v := v }) with
  | .next t => (t.hart 0).map fun h => (h.elem r e).toNat
  | _ => none

/-- R104: 2^64 - 1 and 1 wrap to 0, and a destination s0 stays 0 (R56); a source may be the destination. -/
theorem test_add_wraps : after (.add 3 4 5) [(4, 0xFFFFFFFFFFFFFFFF), (5, 1)] 3 = some 0 := by decide
theorem test_add_to_s0 : after (.add 0 4 5) [(4, 7), (5, 1)] 0 = some 0 := by decide
theorem test_sub_same_register : after (.sub 4 4 5) [(4, 3), (5, 5)] 4 = some 0xFFFFFFFFFFFFFFFE := by decide

/-- R105's table. -/
theorem test_div_by_zero : after (.div 3 4 0) [(4, 7)] 3 = some 0xFFFFFFFFFFFFFFFF := by decide
theorem test_div_min : after (.div 3 4 5) [(4, 0x8000000000000000), (5, 0xFFFFFFFFFFFFFFFF)] 3 = some 0x8000000000000000 := by decide
theorem test_divn : after (.divn 3 4 5) [(4, 0xFFFFFFFFFFFFFFF9), (5, 2)] 3 = some 0x7FFFFFFFFFFFFFFC := by decide
theorem test_rem_by_zero : after (.rem 3 4 0) [(4, 0xFFFFFFFFFFFFFFF9)] 3 = some 0xFFFFFFFFFFFFFFF9 := by decide
theorem test_rem_sign : after (.rem 3 4 5) [(4, 0xFFFFFFFFFFFFFFF9), (5, 2)] 3 = some 0xFFFFFFFFFFFFFFFF := by decide
theorem test_mulh_signs : after (.mulh 3 4 5) [(4, 0xFFFFFFFFFFFFFFFF), (5, 0xFFFFFFFFFFFFFFFF)] 3 = some 0 := by decide
theorem test_mulhn : after (.mulhn 3 4 5) [(4, 0xFFFFFFFFFFFFFFFF), (5, 0xFFFFFFFFFFFFFFFF)] 3 = some 0xFFFFFFFFFFFFFFFE := by decide
theorem test_shl_count : after (.shl 3 4 5) [(4, 3), (5, 65)] 3 = some 6 := by decide
theorem test_sra_sign : after (.sra 3 4 5) [(4, 0x8000000000000000), (5, 63)] 3 = some 0xFFFFFFFFFFFFFFFF := by decide
theorem test_addi_negative : after (.addi 7 7 0xFFF8) [(7, 16)] 7 = some 8 := by decide
theorem test_ctz_zero : after (.ctz 3 4) [] 3 = some 64 := by decide

/-- R107: 1.5 + 2.0 is 3.5, and the high half of d is zero. -/
theorem test_fadd : after (.fadd 3 4 5) [(4, 0xFFFFFFFF3FC00000), (5, 0x40000000)] 3 = some 0x40600000 := by decide

/-- A branch's offset counts words of 4 bytes from its own address. -/
theorem test_branch_taken : pcAfter (.bLt 4 5 0x1FFD) [(4, 0xFFFFFFFFFFFFFFFF), (5, 0)] = some 0xFFF4 := by decide
theorem test_branch_not_taken : pcAfter (.bLtn 4 5 0x1FFD) [(4, 0xFFFFFFFFFFFFFFFF), (5, 0)] = some 0x10004 := by decide

/-- R110: ld.b extends the sign of its byte and ld.bn does not; bytes stand in ascending order of weight. -/
theorem test_load_byte : (match exec (.ldB 3 4 0 1) (withBytes (at' (hart [(4, 0x10000)])) 0x10000 [0x12, 0x80]) with
    | .next t => (t.hart 0).map fun h => (h.sc.get 3).toNat
    | _ => none) = some 0xFFFFFFFFFFFFFF80 := by decide
theorem test_load_half : (match exec (.ldHn 3 4 0 0) (withBytes (at' (hart [(4, 0x10000)])) 0x10000 [0x12, 0x80]) with
    | .next t => (t.hart 0).map fun h => (h.sc.get 3).toNat
    | _ => none) = some 0x8012 := by decide
theorem test_store_half : (match exec (.stH 5 4 0 1) (at' (hart [(4, 0x10000), (5, 0x123456)])) with
    | .next t => some (Memory.reads t.mem 0x10001 4)
    | _ => none) = some [0, 0x56, 0x34, 0] := by decide

/-- Vector integer words take elements on their own: 2^31 - 1 and 1 wrap; under saturation they do not. -/
theorem test_vadd_wraps : elemAfter (.vaddI32 (vr 1 2 3 0)) [(elemKey 2 1, 0x7FFFFFFF), (elemKey 3 1, 1)] 1 1 = some 0x80000000 := by decide +kernel
theorem test_vadd_saturates : elemAfter (.vaddI32 { vr 1 2 3 0 with sat := 1 }) [(elemKey 2 1, 0x7FFFFFFF), (elemKey 3 1, 1)] 1 1 = some 0x7FFFFFFF := by decide +kernel
theorem test_vsra : elemAfter (.vsrai ⟨1, 2, 0, false, 4⟩) [(elemKey 2 3, 0x80000000)] 1 3 = some 0xF8000000 := by decide +kernel
/-- An element at VL keeps its value. -/
theorem test_vmv_tail : elemAfter (.vid (vr 1 0 0 0)) [(elemKey 1 4, 77)] 1 4 = some 77 := by decide +kernel
theorem test_vid : elemAfter (.vid (vr 1 0 0 0)) [] 1 3 = some 3 := by decide +kernel

/-- ResetValues: the last hart register and the last scalar register meet its bounds. -/
theorem witness_ResetValues : (0x018 : Nat) ≤ 0x018 ∧ (63 : Nat) < 64 ∧ (3 : Nat) < 4 ∧ 0x800 ≤ (0x802 : Nat) ∧ crCause (.scc 3) 0x802 = none := by decide

end Sys2Proof.Tests
end

section
/-! SUPPORT. What a read of the state finds after an update, the fields of a word, and the scalar side of a party after a word. -/
namespace Sys2Proof.Machine

/-! ### Reading back what an update wrote -/

theorem State.die_setDie {d : Nat} (s : State) (x : Die) (hd : d < 4) : (s.setDie d x).die d = x := by
  simp [State.die, vec_getD_set, hd]

@[simp] theorem State.setDie_setDie (s : State) (d : Nat) (x y : Die) : (s.setDie d x).setDie d y = s.setDie d y := by
  simp [State.setDie, Vector.setIfInBounds]

@[simp] theorem State.hart_setHart (s : State) (slot n : Nat) (h : Hart) :
    (s.setHart slot h).hart n = if slot = n then some h else s.hart n := tblFind_put slot n h s.harts

theorem tblGet_put {α : Type} (d : α) (k k' : Nat) (v : α) (t : Tbl α) : tblGet d k' (tblPut k v t) = if k = k' then v else tblGet d k' t := by
  unfold tblGet
  rw [tblFind_put]
  split <;> rfl

@[simp] theorem State.context_setContext (s : State) (c n : Nat) (x : Context) :
    (s.setContext c x).context n = if c = n then x else s.context n := tblGet_put _ c n x s.ctxs

@[simp] theorem State.expert_setExpert (s : State) (m n : Nat) (x : Expert) :
    (s.setExpert m x).expert n = if m = n then x else s.expert n := tblGet_put _ m n x s.experts

@[simp] theorem State.cluster_setCluster (s : State) (c n : Nat) (x : Cluster) :
    (s.setCluster c x).cluster n = if c = n then x else s.cluster n := tblGet_put _ c n x s.clusters

/-- A field of a word by division (R3). -/
theorem Word.field_eq (w : Word) (hi lo : Nat) : w.field hi lo = w.toNat / 2 ^ lo % 2 ^ (hi + 1 - lo) := by
  rw [Word.field, Nat.shiftRight_eq_div_pow]

/-! ### The scalar side of the party on turn -/

/-- A party that exists has the scalar side that was set. -/
theorem State.scalar_setScalar {s : State} {p : Party} (c : Scalar) (hp : (s.scalar p).isSome = true) :
    (s.setScalar p c).scalar p = some c := by
  cases p with
  | vec slot =>
    obtain ⟨h, hh⟩ : ∃ h, s.hart slot = some h := by
      simpa [State.scalar, Option.isSome_iff_exists] using hp
    simp [State.setScalar, State.scalar, hh]
  | mcc n =>
    obtain ⟨m, hm⟩ : ∃ m, (s.cluster n).mcc = some m := by
      simpa [State.scalar, Option.isSome_iff_exists] using hp
    simp [State.setScalar, State.scalar, hm]
  | seq n =>
    obtain ⟨q, hq⟩ : ∃ q, (s.cluster n).seq = some q := by
      simpa [State.scalar, Option.isSome_iff_exists] using hp
    simp [State.setScalar, State.scalar, hq]
  | scc d =>
    have hd : d < 4 := by simpa [State.scalar] using hp
    simp [State.setScalar, State.scalar, hd, State.die_setDie]

/-- Retiring a word moves no numbered register of its party. -/
theorem State.retire_x (s : State) (p : Party) (pc : Word) (t : State) :
    ((s.retire p pc t).scalar p).map (·.x) = (s.scalar p).map (·.x) := by
  cases p with
  | vec slot =>
    cases hh : s.hart slot with
    | none => simp [State.retire, State.scalar, hh]
    | some h => simp [State.retire, State.scalar, hh]
  | mcc n => rfl
  | seq n => rfl
  | scc d =>
    by_cases hd : d < 4
    · simp only [State.retire, State.scalar, hd, if_true]
      split
      · rw [State.die_setDie _ _ hd]
        dsimp only
        split <;> rfl
      · rw [State.die_setDie _ _ hd]
    · simp [State.scalar, hd]

/-- A word performed leaves its party the numbered registers of the word's scalar side. -/
theorem Ctx.finish_x {k : Ctx} (pc : Word) (t : State) (hp : (k.st.scalar k.p).isSome = true) :
    ((k.finish pc t).scalar k.p).map (·.x) = some k.c.x := by
  rw [Ctx.finish, State.retire_x, State.scalar_setScalar k.c hp]; rfl

/-- The numbered registers after a write depend on those before it alone. -/
theorem Scalar.set_x_congr {c c' : Scalar} (d : Reg) (v : Word) (h : c'.x = c.x) : (c'.set d v).x = (c.set d v).x := by
  unfold Scalar.set; split
  · exact h
  · simp only [h]

theorem Ctx.regBusy_low (k : Ctx) {r : Reg} (h : isHigh r = false) : k.regBusy r = false := by simp [Ctx.regBusy, h]
theorem Ctx.readBusy_low (k : Ctx) {r : Reg} (h : isHigh r = false) : k.readBusy r = false := by simp [Ctx.readBusy, h]

end Sys2Proof.Machine
end

section
/-! The control register words (R43, R55, R95, R113, R114): what each comes to, and that none waits once no vector word is unfinished. -/
namespace Sys2Proof.Machine

/-! ### What a control register word comes to -/

section
variable {s : State} {c : Scalar} {d a : Reg} {cr : BitVec 12}

/-- The party on turn stands at a control register word that it may perform on a register that it reaches (R83, R113): what the lemmas
of these words share. -/
structure State.AtCr (s : State) (c : Scalar) (d a : Reg) (cr : BitVec 12) : Prop where
  side  : s.scalar s.cur = some c
  kind  : unitCause s.cur .common = none
  reach : crCause s.cur cr.toNat = none
  ready : (Ctx.mk s s.cur c).need [d] [a] = .ok ()

/-- The value that a control register word reads. -/
def State.crOld (s : State) (c : Scalar) (cr : BitVec 12) : Word := BitVec.ofNat 64 (s.crValue s.cur c cr.toNat)

/-- A word that only reads writes the value to its destination (R113). -/
theorem crWord_read (h : s.AtCr c d a cr) (hw : (Ctx.mk s s.cur c).crWait cr.toNat = .ok ()) :
    crWord d cr a true none s = .next (s.performed c (c.wrote d (s.crOld c cr))) := by
  refine State.scalarWord_ok h.side h.kind ?_
  dsimp only
  rw [h.reach, h.ready]
  simp only [Option.isSome_none, Bool.and_false, Bool.false_and]
  rw [hw]; rfl

/-- A word that reads waits while its read must wait for vector words (R44, R55). -/
theorem crWord_read_wait (h : s.AtCr c d a cr) (hw : (Ctx.mk s s.cur c).crWait cr.toNat = .error (s, .wait)) :
    crWord d cr a true none s = .next (s.markWaiting s.cur) := by
  refine State.scalarWord_wait h.side h.kind ?_
  dsimp only
  rw [h.reach, h.ready]
  simp only [Option.isSome_none, Bool.and_false, Bool.false_and]
  rw [hw]; rfl

/-- A word that writes, on a register that is not VIDX of a vector hart, ends with its write done, and with the old value in d when it reads too. -/
theorem crWord_write {reads : Bool} {g : Word → Word → Word} {k : Ctx} (h : s.AtCr c d a cr) (hv : cr = 0x003 → s.cur.isVec = false)
    (hw : reads = true → (Ctx.mk s s.cur c).crWait cr.toNat = .ok ())
    (hk : (Ctx.mk s s.cur c).crWrite cr.toNat (g (s.crOld c cr) (c.get a)) = .ok k) :
    crWord d cr a reads (some g) s = .next ((if reads then k.write d (s.crOld c cr) else k.done).finish c.pc s) := by
  have hv' : (cr = 0x003 && (some g).isSome && s.cur.isVec) = false := by
    by_cases e : cr = 0x003
    · rw [hv e, Bool.and_false]
    · rw [decide_eq_false e]; rfl
  refine State.scalarWord_ok h.side h.kind ?_
  dsimp only
  rw [h.reach, h.ready]
  simp only [hv']
  unfold State.crOld at hk
  cases reads with
  | true => rw [hw rfl, hk]; rfl
  | false => rw [hk]; rfl

/-- A write of VIDX by a vector hart traps with cause 0x02 (R55). -/
theorem crWord_vidx {reads : Bool} {g : Word → Word → Word} (h : s.AtCr c d a cr) (hcr : cr = 0x003) (hv : s.cur.isVec = true) :
    crWord d cr a reads (some g) s = s.takeTrap s.cur { cause := 2 } c.pc c.pc := by
  refine State.scalarWord_trap h.side h.kind ?_
  dsimp only
  rw [h.reach, h.ready]
  simp only [hcr, hv, Option.isSome_some, decide_true, Bool.and_self]
  rfl

end

/-! ### Reads and writes once no vector word is unfinished -/

/-- The wait of a read is a wait, and nothing else. -/
theorem Ctx.crWait_cases (k : Ctx) (n : Nat) : k.crWait n = .ok () ∨ k.crWait n = .error (k.st, .wait) := by
  have hq : k.quiet = .ok () ∨ k.quiet = .error (k.st, .wait) := by
    unfold Ctx.quiet
    split
    · split
      · split
        · exact .inl rfl
        · exact .inr rfl
      · exact .inl rfl
    · exact .inl rfl
  unfold Ctx.crWait
  split
  any_goals exact hq
  · split
    · exact .inr rfl
    · exact .inl rfl
  · exact .inl rfl

/-- The hart on turn has no unfinished vector word. -/
theorem Ctx.quiet_hart {k : Ctx} {slot : Nat} {h : Hart} (hq : k.quiet = .ok ()) (hp : k.p = .vec slot) (hh : k.st.hart slot = some h) :
    h.quiet = true := by
  unfold Ctx.quiet at hq
  rw [hp] at hq
  simp only [hh] at hq
  split at hq
  · assumption
  · cases hq

/-- No read waits then. -/
theorem Ctx.crWait_quiet {k : Ctx} (n : Nat) (hq : k.quiet = .ok ()) : k.crWait n = .ok () := by
  have hff : k.ffPending = false := by
    unfold Ctx.ffPending
    split
    · split
      · rename_i slot hp _ h hh
        have hb := Ctx.quiet_hart hq hp hh
        simp only [Hart.quiet, Bool.and_eq_true, List.isEmpty_iff] at hb
        simp [State.pendingAny, hb.1.1]
      · rfl
    · rfl
  unfold Ctx.crWait
  split
  any_goals exact hq
  · rw [if_neg (by simp [hff])]
  · rfl

/-- What a write of a control register leaves as it is: the party, its numbered registers, and that it exists. -/
structure Ctx.KeepsParty (k k' : Ctx) : Prop where
  party : k'.p = k.p
  regs  : k'.c.x = k.c.x
  here  : (k.st.scalar k.p).isSome = true → (k'.st.scalar k.p).isSome = true

/-- A word that changed nothing but the scalar side beside the numbered registers. -/
theorem Ctx.KeepsParty.of_st {k k' : Ctx} (hp : k'.p = k.p) (hx : k'.c.x = k.c.x) (hs : k'.st = k.st) : k.KeepsParty k' :=
  ⟨hp, hx, fun h => by rw [hs]; exact h⟩

/-- The hart of a vector party replaced. -/
theorem Ctx.KeepsParty.setHart (k : Ctx) (h : Hart) (c : Scalar) (hx : c.x = k.c.x) {slot : Nat} (hp : k.p = .vec slot) :
    k.KeepsParty { k.setHart h with c := c } :=
  ⟨rfl, hx, fun _ => by simp [hp, Ctx.setHart, Ctx.slot, State.scalar]⟩

/-- A core stands on its die whatever the state holds. -/
theorem Ctx.KeepsParty.core {k k' : Ctx} {d : Nat} (hk : k.p = .scc d) (hp : k'.p = k.p) (hx : k'.c.x = k.c.x) : k.KeepsParty k' :=
  ⟨hp, hx, fun h => by simpa [hk, State.scalar] using h⟩

/-- A scalar side with its generator replaced, and a hart with its seed and its element generators. -/
def Scalar.withG64 (c : Scalar) (g : BitVec 32) : Scalar := { c with g64 := g }
def Hart.withGens (h : Hart) (seed : BitVec 32) (gen : Vector (BitVec 32) 64) : Hart := { h with srseed := seed, gen := gen }

theorem Scalar.withG64_x (c : Scalar) (g : BitVec 32) : (c.withG64 g).x = c.x := rfl
theorem Scalar.withG64_pc (c : Scalar) (g : BitVec 32) : (c.withG64 g).pc = c.pc := rfl
theorem Scalar.withG64_g64 (c : Scalar) (g : BitVec 32) : (c.withG64 g).g64 = g := rfl

/-- The element generators of a seed (R39). -/
def gensOf (seed : BitVec 32) : Vector (BitVec 32) 64 := Vector.ofFn fun j => genSeed seed j.val

theorem gensOf_get (seed : BitVec 32) (j : Fin 64) : (gensOf seed)[j] = genSeed seed j.val := by simp [gensOf]

/-- A hart's write of SRSEED seeds its 65 generators once its vector words are finished (R39, R44). -/
theorem Ctx.writeSeed_hart {k : Ctx} {slot : Nat} {h : Hart} (v : Word) (hp : k.p = .vec slot) (hh : k.st.hart slot = some h)
    (hq : h.quiet = true) :
    k.writeSeed v = .ok { k.setHart (h.withGens (v.setWidth 32) (gensOf (v.setWidth 32))) with
      c := k.c.withG64 (genSeed (v.setWidth 32) 64) } := by
  unfold Ctx.writeSeed
  rw [hp]
  dsimp only
  rw [hh]
  simp only [hq, Bool.not_true, Bool.false_eq_true, if_false]
  rfl

/-- A core's write of SRSEED seeds its scalar generator (R39; log 18). -/
theorem Ctx.writeSeed_core {k : Ctx} {d : Nat} (v : Word) (hp : k.p = .scc d) :
    k.writeSeed v = .ok { k with st := k.st.setDie d { k.st.die d with srseed := v.setWidth 32 },
                                 c := k.c.withG64 (genSeed (v.setWidth 32) 64) } := by
  unfold Ctx.writeSeed
  rw [hp]
  rfl

theorem Ctx.writeSeed_quiet {k : Ctx} (v : Word) (hq : k.quiet = .ok ()) : ∃ k', k.writeSeed v = .ok k' ∧ k.KeepsParty k' := by
  cases hp : k.p with
  | vec slot =>
    cases hh : k.st.hart slot with
    | none => exact ⟨k, by simp [Ctx.writeSeed, hp, hh], .of_st rfl rfl rfl⟩
    | some h => exact ⟨_, Ctx.writeSeed_hart v hp hh (Ctx.quiet_hart hq hp hh), .setHart k _ _ (Scalar.withG64_x k.c _) hp⟩
  | scc d => exact ⟨_, Ctx.writeSeed_core v hp, .core hp rfl (Scalar.withG64_x k.c _)⟩
  | mcc n => exact ⟨k, by simp [Ctx.writeSeed, hp], .of_st rfl rfl rfl⟩
  | seq n => exact ⟨k, by simp [Ctx.writeSeed, hp], .of_st rfl rfl rfl⟩

theorem Ctx.writeFflags_quiet {k : Ctx} (v : Word) (hq : k.quiet = .ok ()) :
    k.writeFflags v = .ok { k with c := { k.c with fflags := fflagsFrom v } } := by
  unfold Ctx.writeFflags
  rw [hq]; rfl

theorem Ctx.writeMreg_quiet {k : Ctx} (v : Word) (hq : k.quiet = .ok ()) : ∃ k', k.writeMreg v = .ok k' ∧ k.KeepsParty k' := by
  unfold Ctx.writeMreg
  rw [hq]
  dsimp only [bind, Except.bind]
  split
  · exact ⟨k, rfl, .of_st rfl rfl rfl⟩
  · split
    · split
      · exact ⟨_, rfl, .setHart k _ _ rfl ‹_›⟩
      · exact ⟨k, rfl, .of_st rfl rfl rfl⟩
    · exact ⟨_, rfl, .core ‹_› rfl rfl⟩
    · exact ⟨k, rfl, .of_st rfl rfl rfl⟩

theorem Ctx.writeExpstat_keeps (k : Ctx) (v : Word) : k.KeepsParty (k.writeExpstat v) := by
  unfold Ctx.writeExpstat
  split
  · split
    · exact .setHart k _ _ rfl ‹_›
    · exact .of_st rfl rfl rfl
  · exact .of_st rfl rfl rfl

/-- A core's write of VIDX does nothing (R6). -/
theorem Ctx.crWrite_vidx_core {k : Ctx} {d : Nat} (v : Word) (hp : k.p = .scc d) : k.crWrite 0x003 v = .ok k := by
  unfold Ctx.crWrite
  rw [hp]; rfl

theorem Ctx.crWrite_fround (k : Ctx) (v : Word) :
    k.crWrite 0x004 v = .ok { k with c := { k.c with fround := BitVec.ofNat 3 (modeField k.c.fround.toNat v) } } := rfl

theorem Ctx.crWrite_vround (k : Ctx) (v : Word) :
    k.crWrite 0x005 v = .ok { k with c := { k.c with vround := BitVec.ofNat 5 (v.field 4 3 * 8 + modeField (k.c.vround.toNat % 8) v) } } := rfl

/-- A register that the party reaches, and that is VIDX on a core only, takes a write once no vector word is unfinished. -/
theorem Ctx.crWrite_quiet {k : Ctx} {n : Nat} (v : Word) (hq : k.quiet = .ok ()) (h3 : n = 0x003 → ∃ d, k.p = .scc d) :
    ∃ k', k.crWrite n v = .ok k' ∧ k.KeepsParty k' := by
  unfold Ctx.crWrite
  split
  · obtain ⟨d, hd⟩ := h3 rfl
    rw [hd]; exact ⟨k, rfl, .of_st rfl rfl rfl⟩
  · exact ⟨_, rfl, .of_st rfl rfl rfl⟩
  · exact ⟨_, rfl, .of_st rfl rfl rfl⟩
  · exact ⟨_, Ctx.writeFflags_quiet v hq, .of_st rfl rfl rfl⟩
  · exact Ctx.writeSeed_quiet v hq
  · exact ⟨_, rfl, Ctx.writeExpstat_keeps k v⟩
  · exact Ctx.writeMreg_quiet v hq
  · split
    · split
      · exact ⟨k, rfl, .of_st rfl rfl rfl⟩
      · exact ⟨_, rfl, .core ‹_› rfl rfl⟩
    · exact ⟨k, rfl, .of_st rfl rfl rfl⟩

/-! ### The words -/

section
variable {s : State} {c : Scalar} {d a : Reg} {cr : BitVec 12}

/-- A register that is not VIDX of a vector hart. -/
theorem State.vidx_open (h : ¬(cr.toNat = 0x003 ∧ ∃ slot, s.cur = .vec slot)) (e : cr = 0x003) : s.cur.isVec = false := by
  cases hp : s.cur with
  | vec slot => exact absurd ⟨by rw [e]; rfl, slot, hp⟩ h
  | mcc n => rfl
  | seq n => rfl
  | scc n => rfl

theorem crCause_mcc_vidx (n : Nat) : crCause (.mcc n) 0x003 = some 1 := rfl
theorem crCause_seq_vidx (n : Nat) : crCause (.seq n) 0x003 = some 1 := rfl

/-- An engine reaches no VIDX (R169), so where VIDX is not closed the party is a core. -/
theorem State.vidx_core (hc : crCause s.cur cr.toNat = none) (h : ¬(cr.toNat = 0x003 ∧ ∃ slot, s.cur = .vec slot)) (e : cr.toNat = 0x003) :
    ∃ die, s.cur = .scc die := by
  rw [e] at hc
  cases hp : s.cur with
  | vec slot => exact absurd ⟨e, slot, hp⟩ h
  | mcc n => rw [hp, crCause_mcc_vidx] at hc; cases hc
  | seq n => rw [hp, crCause_seq_vidx] at hc; cases hc
  | scc n => exact ⟨n, rfl⟩

/-- The sources of cwr and the destination of crd are ready with those of the word that has both. -/
theorem State.Issues.atCr (h : s.Issues c .common [d] [a]) (hc : crCause s.cur cr.toNat = none) : s.AtCr c d a cr :=
  ⟨h.side, h.kind, hc, Ctx.need_ok _ _ _ h.writes h.reads⟩

theorem State.AtCr.readOnly (h : s.Issues c .common [d] [a]) (hc : crCause s.cur cr.toNat = none) : s.AtCr c d 0 cr :=
  ⟨h.side, h.kind, hc, Ctx.need_ok _ _ _ h.writes (by simp [Ctx.readBusy_low, isHigh])⟩

theorem State.AtCr.writeOnly {ds : List Reg} (h : s.Issues c .common ds [a]) (hc : crCause s.cur cr.toNat = none) : s.AtCr c 0 a cr :=
  ⟨h.side, h.kind, hc, Ctx.need_ok _ _ _ (by simp [Ctx.regBusy_low, isHigh]) h.reads⟩

/-- A word that writes completes once no vector word is unfinished: the old value in d when it reads, and no other numbered register moved. -/
theorem crWord_completes {reads : Bool} {g : Word → Word → Word} (h : s.AtCr c d a cr)
    (ho : ¬(cr.toNat = 0x003 ∧ ∃ slot, s.cur = .vec slot)) (hq : (Ctx.mk s s.cur c).quiet = .ok ()) :
    ∃ t, crWord d cr a reads (some g) s = .next t ∧
      (t.scalar s.cur).map (·.x) = some (if reads then (c.set d (s.crOld c cr)).x else c.x) := by
  obtain ⟨k, hk, keeps⟩ := Ctx.crWrite_quiet (g (s.crOld c cr) (c.get a)) hq (State.vidx_core h.reach ho)
  refine ⟨_, crWord_write h (State.vidx_open ho) (fun _ => Ctx.crWait_quiet _ hq) hk, ?_⟩
  have hp : k.p = s.cur := keeps.party
  have here : (k.st.scalar k.p).isSome = true := by
    rw [hp]; exact keeps.here (by simp [h.side])
  cases reads with
  | true =>
    have := Ctx.finish_x (k := k.write d (s.crOld c cr)) c.pc s here
    rw [show (k.write d (s.crOld c cr)).p = s.cur from hp] at this
    exact this.trans (congrArg some (Scalar.set_x_congr d _ keeps.regs))
  | false =>
    have := Ctx.finish_x (k := k.done) c.pc s here
    rw [show k.done.p = s.cur from hp] at this
    exact this.trans (congrArg some keeps.regs)

/-- A write of the scalar side alone, of a register that is not VIDX. -/
theorem cwr_performed {c' : Scalar} {n : Nat} (h : s.AtCr c 0 a cr) (hn : cr.toNat = n) (hv : cr ≠ 0x003)
    (hk : (Ctx.mk s s.cur c).crWrite n (c.get a) = .ok ⟨s, s.cur, c'⟩) : exec (.cwr cr a) s = .next (s.performed c c'.advance) := by
  rw [exec_cwr]
  rw [← hn] at hk
  exact crWord_write (reads := false) (g := fun _ v => v) (k := ⟨s, s.cur, c'⟩) h (fun e => absurd e hv) Bool.noConfusion hk

/-- crd completes once no vector word is unfinished. -/
theorem crd_completes (h : s.AtCr c d 0 cr) (hq : (Ctx.mk s s.cur c).quiet = .ok ()) :
    ∃ t, exec (.crd d cr) s = .next t ∧ (t.scalar s.cur).map (·.x) = some (c.set d (s.crOld c cr)).x :=
  ⟨_, crWord_read h (Ctx.crWait_quiet _ hq), Ctx.finish_x (k := ⟨s, s.cur, _⟩) c.pc s (by simp [h.side])⟩

end

/-- The fields of FFLAGS read as they were written, and its reserved bits as zero (R43). -/
theorem fflagsWord_fflagsFrom (v : Word) : fflagsWord (fflagsFrom v) = v &&& 0x1F1F := by
  have ht : trapEnables (fflagsFrom v) = v.extractLsb' 8 5 := by
    unfold trapEnables fflagsFrom
    ext i hi
    rw [BitVec.getElem_extractLsb', BitVec.getLsbD_append, if_neg (by omega), BitVec.getLsbD_extractLsb']
    simp [hi]
  have hs : stickyFlags (fflagsFrom v) = v.extractLsb' 0 5 := by
    unfold stickyFlags fflagsFrom
    ext i hi
    rw [BitVec.getElem_extractLsb', BitVec.getLsbD_append, if_pos (by omega), BitVec.getLsbD_extractLsb']
    simp [hi]
  unfold fflagsWord
  rw [ht, hs]
  refine BitVec.eq_of_getLsbD_eq fun i hi => ?_
  have hmask : ∀ i < 64, (0x1F1F : Word).getLsbD i = (decide (i < 5) || decide (8 ≤ i ∧ i < 13)) := by decide
  simp only [BitVec.getLsbD_or, BitVec.getLsbD_and, BitVec.getLsbD_shiftLeft, BitVec.getLsbD_setWidth, BitVec.getLsbD_extractLsb', hmask i hi]
  obtain h | h | h : i < 5 ∨ (5 ≤ i ∧ i < 8) ∨ 8 ≤ i := by omega
  · simp [show i < 64 by omega, show i < 8 by omega, h]
  · simp [show ¬i < 5 by omega, show i < 8 by omega, show ¬8 ≤ i by omega]
  · rw [show 8 + (i - 8) = i by omega]
    simp [hi, h, show ¬i < 5 by omega, show ¬i < 8 by omega, show i - 8 < 64 by omega, show i - 8 < 5 ↔ i < 13 by omega, Bool.and_comm]

/-- The rounding mode that a write leaves in a field: 6 and 7 leave the old one (R43). -/
theorem modeField_eq (old : Nat) (v : Word) : modeField old v = if v.toNat % 8 < 6 then v.toNat % 8 else old := by
  simp [modeField, Word.field_eq]

theorem vroundFields_eq (v : Word) : v.field 4 3 = v.toNat / 8 % 4 := by simp [Word.field_eq]

/-- Every party reaches the rounding registers and FFLAGS (R43, R169). -/
theorem crCause_rounding (p : Party) {n : Nat} (h : n = 0x004 ∨ n = 0x005 ∨ n = 0x006) : crCause p n = none := by
  obtain rfl | rfl | rfl := h
  all_goals cases p <;> rfl

/-- Settles O14: a register that the party reaches takes each of the four words, its write is crWrite's, and once no vector word is unfinished
neither the read nor the write waits. -/
theorem controlRegisterWords : Obligations.ControlRegisterWords := by
  unfold Obligations.ControlRegisterWords
  refine ⟨fun s c d a cr h hc => ?_, fun s c a h => ?_⟩
  · have atBoth := h.atCr hc
    have atRead := State.AtCr.readOnly h hc
    have atWrite := State.AtCr.writeOnly h hc
    refine ⟨fun hw => crWord_read atRead hw, fun hw => crWord_read_wait atRead ((Ctx.crWait_cases _ _).resolve_left hw),
      fun ho => ⟨fun k hk => crWord_write atWrite (State.vidx_open ho) (by simp) hk, fun hw =>
        ⟨fun k hk => crWord_write atBoth (State.vidx_open ho) (fun _ => hw) hk, fun k hk => crWord_write atBoth (State.vidx_open ho) (fun _ => hw) hk⟩⟩,
      fun hq => ⟨crd_completes atRead hq, fun ho =>
        ⟨crWord_completes atWrite ho hq, crWord_completes atBoth ho hq, crWord_completes atBoth ho hq⟩⟩, fun hclosed i hi => ?_, fun die hn hp => ?_⟩
    · obtain ⟨hn, slot, hp⟩ := hclosed
      have hcr : cr = 0x003 := BitVec.eq_of_toNat_eq hn
      have hv : s.cur.isVec = true := by rw [hp]; rfl
      simp only [List.mem_cons, List.not_mem_nil, or_false] at hi
      obtain rfl | rfl | rfl := hi
      · exact crWord_vidx atWrite hcr hv
      · exact crWord_vidx atBoth hcr hv
      · exact crWord_vidx atBoth hcr hv
    · have hv : s.cur.isVec = false := by rw [hp]; rfl
      refine crWord_write (k := ⟨s, s.cur, c⟩) atWrite (fun _ => hv) Bool.noConfusion ?_
      rw [hn]
      exact Ctx.crWrite_vidx_core _ hp
  · have atWrite (n : BitVec 12) (hn : n.toNat = 0x004 ∨ n.toNat = 0x005 ∨ n.toNat = 0x006) : s.AtCr c 0 a n :=
      State.AtCr.writeOnly h (crCause_rounding _ hn)
    simp only [← modeField_eq, ← vroundFields_eq]
    refine ⟨?_, ?_, fun hq => ⟨fflagsFrom (c.get a), ?_, fflagsWord_fflagsFrom _⟩⟩
    · have hw := cwr_performed (atWrite 0x004 (by decide)) rfl (by decide) (Ctx.crWrite_fround _ _)
      exact hw
    · have hw := cwr_performed (atWrite 0x005 (by decide)) rfl (by decide) (Ctx.crWrite_vround _ _)
      exact hw
    · have hw := cwr_performed (atWrite 0x006 (by decide)) rfl (by decide) (Ctx.writeFflags_quiet _ hq)
      exact hw

end Sys2Proof.Machine
end

section
/-! The table's steps that are register writes (R39, R44, R284, R304, R333, R341, R346, R348, R350, R353), by who writes and what is kept. -/
namespace Sys2Proof.Machine

/-! ### Writes by the party on turn -/

theorem writeStep_ok {s : State} {c : Scalar} {f : Ctx → Res Ctx} {k : Ctx} (hs : s.scalar s.cur = some c)
    (hk : f ⟨s, s.cur, c⟩ = .ok k) : writeStep f s = .next (k.st.setScalar k.p k.c) := by
  unfold writeStep
  rw [hs]
  dsimp only
  rw [hk]

theorem coreStep_scc {s : State} {d : Nat} (f : Nat → State) (hp : s.cur = .scc d) : coreStep f s = .next (f d) := by
  unfold coreStep
  rw [hp]

/-- MHDM is the monitor's: base and size are written, a size above 64 GiB is left (R367). -/
theorem registerWrite_mhdm {s : State} {v : BitVec 64} {cr : BitVec 12} (h : cr.toNat = 0xB01) :
    exec (.registerWrite cr v) s = .next { s with mhdmBase := v.toNat / 2 ^ 30 % 2 ^ 22 * 2 ^ 30,
                                                  mhdmGib := if v.toNat % 128 ≤ 64 then v.toNat % 128 else s.mhdmGib } := by
  rw [exec_registerWrite]
  unfold execRegisterWrite
  rw [h, if_pos (by decide)]
  simp [State.monWrite, Word.field_eq]

section
variable {s : State} {d : Nat} (v : BitVec 64) (hp : s.cur = .scc d)
include hp

/-- CTXSEL written as a numbered register (R284). -/
theorem registerWrite_ctxsel (hd : d < 4) : exec (.registerWrite 0x800 v) s = .next (s.setDie d { s.die d with ctxsel := v.toNat % 64 }) := by
  have hs : s.scalar s.cur = some (s.die d).core := by rw [hp]; simp [State.scalar, hd]
  have hk : (Ctx.mk s s.cur (s.die d).core).crWrite 0x800 v =
      .ok ⟨s.setDie d { s.die d with ctxsel := Word.field v 5 0 }, .scc d, (s.die d).core⟩ := by
    rw [hp]; rfl
  have hc : crCause s.cur 0x800 = none := by rw [hp]; rfl
  rw [exec_registerWrite]
  unfold execRegisterWrite
  rw [show (0x800 : BitVec 12).toNat = 0x800 from rfl, if_neg (by decide), if_neg (by decide)]
  dsimp only
  rw [hc]
  dsimp only
  rw [writeStep_ok hs hk]
  simp [State.setScalar, State.die_setDie _ _ hd, Word.field_eq]

theorem fqctlWrite_fq : exec (.fqctlWrite 0x802 v) s =
    .next (s.setContext (s.die d).ctxsel { s.context (s.die d).ctxsel with fq := (s.context (s.die d).ctxsel).fq.setCtl v }) := by
  rw [exec_fqctlWrite, execFqctlWrite, coreStep_scc _ hp]; rfl

theorem fqctlWrite_pgq : exec (.fqctlWrite 0x832 v) s =
    .next (s.setContext (s.die d).ctxsel { s.context (s.die d).ctxsel with pgq := (s.context (s.die d).ctxsel).pgq.setCtl v }) := by
  rw [exec_fqctlWrite, execFqctlWrite, coreStep_scc _ hp]; rfl

theorem pgwake_next : exec (.pgwake v) s = .next (s.wakePager (s.die d).ctxsel v) := by
  rw [exec_pgwake, execPgwake, coreStep_scc _ hp]

theorem bdctlRestart_next : exec (.bdctlRestart v) s = .next (if v.getLsbD 0 then s.restartBase (s.die d).bdsel else s) := by
  rw [exec_bdctlRestart, execBdctlRestart, coreStep_scc _ hp]

theorem xe3Stage_next : exec (.xe3Stage v) s = .next (s.setXe d 3 v) := by
  rw [exec_xe3Stage, execXe3Stage, coreStep_scc _ hp]

theorem sltWrite_next {i : Nat} (hi : i ≤ 4) : exec (.sltWrite (BitVec.ofNat 12 (0x862 + i)) v) s = .next (s.queueSlt d i v) := by
  have hn : (BitVec.ofNat 12 (0x862 + i)).toNat = 0x862 + i := by rw [BitVec.toNat_ofNat]; omega
  rw [exec_sltWrite, execSltWrite, hn, if_pos (by simp; omega), coreStep_scc _ hp, Nat.add_sub_cancel_left]

/-- LPBASE written: its fields, LPPOS and LPLIMIT 0, no byte of memory (R304). -/
theorem lpbaseWrite_next (hd : d < 4) : ∃ t, exec (.lpbaseWrite v) s = .next t ∧ t.mem = s.mem ∧
    (t.die d).lpVa = v.toNat / 2 ^ 12 % 2 ^ 45 * 2 ^ 12 ∧ (t.die d).lpPos = 0 ∧ (t.die d).lpLimit = 0 ∧
    (t.die d).lpLg = if 12 ≤ v.toNat % 32 ∧ v.toNat % 32 ≤ 30 then v.toNat % 32 else (s.die d).lpLg := by
  rw [exec_lpbaseWrite, execLpbaseWrite, coreStep_scc _ hp]
  refine ⟨_, rfl, rfl, ?_⟩
  simp [State.die_setDie _ _ hd, Die.setLpbase, Word.field_eq]

end

section
variable {s : State} {slot : Nat} {h : Hart} (v : BitVec 64)

theorem State.OnHart.scalar (o : s.OnHart slot h) : s.scalar s.cur = some h.sc := by
  rw [o.turn]; simp [State.scalar, o.here]

/-- SRSEED written by a hart with no unfinished vector word: every generator seeded, no byte of memory (R39, R44). -/
theorem srseedWrite_next (o : s.OnHart slot h) (hq : h.quiet = true) : ∃ t g, exec (.srseedWrite v) s = .next t ∧ t.hart slot = some g ∧
    g.srseed = v.setWidth 32 ∧ (∀ j : Fin 64, g.gen[j] = genSeed (v.setWidth 32) j.val) ∧
    g.sc.g64 = genSeed (v.setWidth 32) 64 ∧ g.sc.pc = h.sc.pc ∧ t.mem = s.mem := by
  have hk := Ctx.writeSeed_hart (k := ⟨s, s.cur, h.sc⟩) v o.turn o.here hq
  rw [exec_srseedWrite, execSrseedWrite, writeStep_ok o.scalar hk]
  refine ⟨_, { h.withGens (v.setWidth 32) (gensOf (v.setWidth 32)) with sc := h.sc.withG64 (genSeed (v.setWidth 32) 64) }, rfl, ?_, ?_⟩
  · simp [o.turn, Ctx.setHart, Ctx.slot, State.setScalar]
  · exact ⟨rfl, gensOf_get _, Scalar.withG64_g64 h.sc _, Scalar.withG64_pc h.sc _, by simp [Ctx.setHart]⟩

/-- FFLAGS written by a hart with no unfinished vector word (R44). -/
theorem fflagsWrite_next (o : s.OnHart slot h) (hq : h.quiet = true) : ∃ t g, exec (.fflagsWrite v) s = .next t ∧ t.hart slot = some g ∧
    g.sc.fflags = fflagsFrom v ∧ { g with sc := h.sc } = h ∧ t.mem = s.mem := by
  have hquiet : (Ctx.mk s s.cur h.sc).quiet = .ok () := by
    simp [Ctx.quiet, o.turn, o.here, hq]
  have hk := Ctx.writeFflags_quiet v hquiet
  rw [exec_fflagsWrite, execFflagsWrite, writeStep_ok o.scalar hk]
  refine ⟨_, { h with sc := { h.sc with fflags := fflagsFrom v } }, rfl, ?_, rfl, rfl, ?_⟩
  · simp [o.turn, o.here, State.setScalar]
  · simp

end

/-! ### Replicas and evictions -/

/-- What releasing replicas leaves of a state: memory, contexts, translations, regions, records, and every staged set. -/
structure State.ReplicaFrame (s t : State) : Prop where
  mem     : t.mem = s.mem
  ctxs    : t.ctxs = s.ctxs
  tlb     : t.tlb = s.tlb
  regions : t.regions = s.regions
  vest    : t.vest = s.vest
  staged  : ∀ n, (t.expert n).staged = (s.expert n).staged

theorem State.ReplicaFrame.refl (s : State) : s.ReplicaFrame s := ⟨rfl, rfl, rfl, rfl, rfl, fun _ => rfl⟩

theorem State.ReplicaFrame.trans {s t u : State} (h : s.ReplicaFrame t) (g : t.ReplicaFrame u) : s.ReplicaFrame u :=
  ⟨g.mem.trans h.mem, g.ctxs.trans h.ctxs, g.tlb.trans h.tlb, g.regions.trans h.regions, g.vest.trans h.vest,
    fun n => (g.staged n).trans (h.staged n)⟩

/-- A fold of updates that each keep the frame keeps it. -/
theorem State.ReplicaFrame.foldl {α : Type} {f : State → α → State} (hf : ∀ (t : State) a, t.ReplicaFrame (f t a)) (l : List α) (s : State) :
    s.ReplicaFrame (l.foldl f s) :=
  foldl_keeps (fun t => s.ReplicaFrame t) f (fun t a ht => ht.trans (hf t a)) l s (.refl s)

theorem State.dropSlot_frame (s : State) (ctx n : Nat) : s.ReplicaFrame (s.dropSlot ctx n) := ⟨rfl, rfl, rfl, rfl, rfl, fun _ => rfl⟩

/-- An entry replaced by one with the same staged set. -/
theorem State.setExpert_frame {s : State} {n : Nat} {x : Expert} (h : x.staged = (s.expert n).staged) : s.ReplicaFrame (s.setExpert n x) := by
  refine ⟨rfl, rfl, rfl, rfl, rfl, fun m => ?_⟩
  rw [State.expert_setExpert]
  split
  · subst_vars; exact h
  · rfl

/-- Releasing replicas changes their slots and the lists of filled replicas only (R245). -/
theorem State.releaseReplicas_frame (s : State) (ctx : Nat) : s.ReplicaFrame (s.releaseReplicas ctx) := by
  unfold State.releaseReplicas
  refine .foldl (fun t e => ?_) _ s
  split
  · exact .refl t
  · dsimp only
    split
    · exact .refl t
    · exact .trans (State.setExpert_frame (by rfl)) (.foldl (fun (u : State) (r : BitVec 16 × Nat) => u.dropSlot_frame ctx r.2) _ _)

/-- A staged set stands in its entry, and no byte of memory changes (R341). -/
theorem State.stageSet_frame (s : State) (ctx n : Nat) (v : BitVec 64) :
    ((s.stageSet ctx n v).expert n).staged = v ∧ (s.stageSet ctx n v).mem = s.mem := by
  have h := State.releaseReplicas_frame (s.setExpert n { s.expert n with staged := v }) ctx
  exact ⟨(h.staged n).trans (by simp), h.mem⟩

/-- A key deleted is absent, and every other key keeps its value. -/
theorem tblFind_del {α : Type} (k k' : Nat) (t : Tbl α) : tblFind k' (tblDel k t) = if k = k' then none else tblFind k' t := by
  induction t with
  | nil => simp [tblDel, tblFind]
  | cons p t ih =>
    obtain ⟨a, w⟩ := p
    unfold tblDel at ih ⊢
    by_cases ha : a = k
    · subst ha
      simp only [List.filter_cons, ne_eq, not_true_eq_false, decide_false, Bool.false_eq_true, if_false, ih, tblFind]
      split <;> rfl
    · simp only [List.filter_cons, ne_eq, ha, not_false_eq_true, decide_true, if_true, tblFind, ih]
      by_cases hk : k = k'
      · subst hk; simp [ha]
      · simp [hk]

/-- What dropping an evicted expert's slots keeps: its entry, memory, the context, and that its home slot is free. -/
structure State.Evicted (s t : State) (ctx n home : Nat) : Prop where
  mem   : t.mem = s.mem
  here  : t.context ctx = s.context ctx
  entry : (t.expert n).state = .absent ∧ (t.expert n).filled = []
  free  : tblFind ((s.context ctx).slotbase + home) t.slots = none

/-- An eviction leaves the entry absent, with no replica, and its home slot free; no byte of memory changes (R343). -/
theorem State.evict_evicted {s : State} {ctx e n : Nat} (he : s.entryOf ctx e = some n) :
    s.Evicted (s.evict ctx e) ctx n (s.expert n).slot := by
  unfold State.evict
  rw [he]
  dsimp only
  refine foldl_keeps (fun t => s.Evicted t ctx n (s.expert n).slot) _ (fun t r ht => ?_) _ _ ?_
  · refine ⟨ht.mem, ht.here, ht.entry, ?_⟩
    simp only [State.dropSlot, tblFind_del, ht.free, ite_self]
  · refine ⟨rfl, rfl, by simp [State.dropSlot, State.expert, State.setExpert, tblGet_put], ?_⟩
    have hc : (s.setExpert n { s.expert n with state := .absent, slot := 0, filled := [], started := false }).context ctx = s.context ctx := rfl
    simp only [State.dropSlot, hc, tblFind_del, if_true]

/-- An expert that an eviction may take: resident, with no hold, no record and no pinned slot (R343). -/
theorem State.candidate_iff {s : State} {ctx e n : Nat} (he : s.entryOf ctx e = some n) :
    s.candidate ctx e = true ↔ (s.expert n).state = .resident ∧ s.holdsOn ctx e = 0 ∧ s.recordsOn ctx e = 0 ∧
      ¬∃ i ∈ (s.expert n).slots, s.pinsOn ctx ((s.context ctx).slotVa i) (2 ^ (s.context ctx).slotlg) = true := by
  unfold State.candidate
  rw [he]
  simp [and_assoc]

/-! ### Closing a context -/

/-- What zeroing and releasing stores leaves: translations, records and regions. -/
structure State.StoreFrame (s t : State) : Prop where
  tlb     : t.tlb = s.tlb
  vest    : t.vest = s.vest
  regions : t.regions = s.regions

theorem State.StoreFrame.refl (s : State) : s.StoreFrame s := ⟨rfl, rfl, rfl⟩

theorem State.StoreFrame.trans {s t u : State} (h : s.StoreFrame t) (g : t.StoreFrame u) : s.StoreFrame u :=
  ⟨g.tlb.trans h.tlb, g.vest.trans h.vest, g.regions.trans h.regions⟩

theorem State.freshBlock_frame (s : State) (b : Nat) : s.StoreFrame (s.freshBlock b) := by
  unfold State.freshBlock
  dsimp only
  split
  · exact ⟨rfl, rfl, rfl⟩
  · exact ⟨rfl, rfl, rfl⟩

theorem State.freeBlocks_frame (s : State) (ctx : Nat) (p : Nat → Bool) : s.StoreFrame (s.freeBlocks ctx p) := by
  unfold State.freeBlocks
  refine foldl_keeps (fun t => s.StoreFrame t) _ (fun t b ht => ?_) _ s (.refl s)
  split
  · exact ht
  · exact ht.trans (State.freshBlock_frame t b)

theorem State.leaveCluster_frame (s : State) (ctx c : Nat) : s.StoreFrame (s.leaveCluster ctx c) := by
  unfold State.leaveCluster
  split
  · exact .refl s
  · exact State.freeBlocks_frame _ _ _

/-- A region released is bound no more; the other regions, translations and records stay (R216). -/
theorem State.releaseRegion_frame (s : State) (r : Region) (zero : Bool) :
    State.StoreFrame { s with regions := s.regions.filter fun x => x != r } (s.releaseRegion r zero) := by
  have zeroed (t : State) (c : Bool) (k n : Nat) : t.StoreFrame (if c = true then t.zeroRange k n else t) := by
    split <;> exact ⟨rfl, rfl, rfl⟩
  unfold State.releaseRegion
  dsimp only
  split
  · exact ((zeroed _ r.scratch _ _).trans (zeroed _ zero _ _)).trans (State.leaveCluster_frame _ _ _)
  · exact (zeroed _ r.scratch _ _).trans (zeroed _ zero _ _)

/-- Regions released one after the other: none of them is bound any more, and no other one is bound anew. -/
theorem State.releaseRegions_frame (zero : Bool) (l : List Region) : ∀ s : State,
    let t := l.foldl (fun t r => t.releaseRegion r zero) s
    t.tlb = s.tlb ∧ t.vest = s.vest ∧ ∀ r ∈ t.regions, r ∈ s.regions ∧ r ∉ l := by
  induction l with
  | nil => intro s; exact ⟨rfl, rfl, fun r hr => ⟨hr, List.not_mem_nil⟩⟩
  | cons x l ih =>
    intro s
    obtain ⟨htlb, hvest, hreg⟩ := ih (s.releaseRegion x zero)
    have hx := State.releaseRegion_frame s x zero
    refine ⟨htlb.trans hx.tlb, hvest.trans hx.vest, fun r hr => ?_⟩
    obtain ⟨hr1, hr2⟩ := hreg r hr
    rw [hx.regions, List.mem_filter, bne_iff_ne] at hr1
    exact ⟨hr1.1, by simp [hr1.2, hr2]⟩

/-- The states from which CTXCMD closes a context (R284). -/
def State.mayClose (s : State) (ctx : Nat) : Prop :=
  ((s.context ctx).state = 1 ∧ ∀ x ∈ s.kernels, x.ctx ≠ ctx) ∨ (s.context ctx).state = 2 ∨ ((s.context ctx).state = 3 ∧ (s.context ctx).disc = false)

theorem State.mayClose_iff (s : State) (ctx : Nat) :
    (((s.context ctx).state == 1 && !s.liveIn ctx) || (s.context ctx).state == 2 || ((s.context ctx).state == 3 && !(s.context ctx).disc)) = true ↔
      s.mayClose ctx := by
  simp [State.mayClose, State.liveIn, or_assoc]

theorem State.closeContext_refused {s : State} {ctx : Nat} (h : ¬s.mayClose ctx) : s.closeContext ctx = s := by
  rw [← State.mayClose_iff, Bool.not_eq_true] at h
  unfold State.closeContext
  dsimp only
  rw [h]; rfl

/-- Step one of a close: the translations, records, page waits and images of the context go (R284). -/
def State.forgotten (s : State) (ctx : Nat) : State :=
  State.dropImages { s with tlb := s.tlb.filter fun e => e.ctx != ctx, vest := s.vest.filter fun r => r.ctx != ctx,
                            pageWaits := s.pageWaits.filter fun w => w.1 != ctx } fun i => i.ctx == ctx

/-- Step two: its regions and its blocks of the on-die stores are released (R284, R294). -/
def State.cleared (s : State) (ctx : Nat) : State :=
  (((s.forgotten ctx).regions.filter fun r => r.ctx == ctx).foldl (fun t r => t.releaseRegion r true) (s.forgotten ctx)).freeBlocks ctx fun _ => true

/-- Step three: the context is free. -/
def Context.closed (c : Context) : Context :=
  { c with fq := { c.fq with en := false }, pgq := { c.pgq with en := false }, ckill := false, state := 0, nextKid := 0,
           saved := [], savedClusters := [], savedRegions := [] }

/-- Step four: the staged sets of its entries are empty. -/
def State.unstaged (s : State) (c : Context) : State :=
  (upFrom 0 c.nexp).foldl (fun t e => t.setExpert (c.expbase + e) { t.expert (c.expbase + e) with staged := 0 }) s

/-- A close is its four steps and the release of the replicas that leave every set. -/
theorem State.closeContext_steps {s : State} {ctx : Nat} (h : s.mayClose ctx) : s.closeContext ctx =
    (((s.cleared ctx).setContext ctx (s.context ctx).closed).unstaged (s.context ctx)).releaseReplicas ctx := by
  rw [← State.mayClose_iff] at h
  unfold State.closeContext
  dsimp only
  rw [h, Bool.not_true, if_neg Bool.false_ne_true]
  rfl

theorem State.cleared_none (s : State) (ctx : Nat) : (∀ e ∈ (s.cleared ctx).tlb, e.ctx ≠ ctx) ∧
    (∀ r ∈ (s.cleared ctx).regions, r.ctx ≠ ctx) ∧ ∀ r ∈ (s.cleared ctx).vest, r.ctx ≠ ctx := by
  have hfree := State.freeBlocks_frame
    (((s.forgotten ctx).regions.filter fun r => r.ctx == ctx).foldl (fun t r => t.releaseRegion r true) (s.forgotten ctx)) ctx fun _ => true
  obtain ⟨htlb, hvest, hreg⟩ := State.releaseRegions_frame true ((s.forgotten ctx).regions.filter fun r => r.ctx == ctx) (s.forgotten ctx)
  refine ⟨fun e he => ?_, fun r hr => ?_, fun r hr => ?_⟩
  · rw [State.cleared, hfree.tlb, htlb] at he
    simpa using (List.mem_filter.1 he).2
  · rw [State.cleared, hfree.regions] at hr
    obtain ⟨hin, hout⟩ := hreg r hr
    intro e
    exact hout (List.mem_filter.2 ⟨hin, by simp [e]⟩)
  · rw [State.cleared, hfree.vest, hvest] at hr
    simpa using (List.mem_filter.1 hr).2

theorem State.unstaged_frame (s : State) (c : Context) : s.StoreFrame (s.unstaged c) ∧ (s.unstaged c).ctxs = s.ctxs := by
  unfold State.unstaged
  refine foldl_keeps (fun t => s.StoreFrame t ∧ t.ctxs = s.ctxs) _ (fun t e ht => ?_) _ s ⟨.refl s, rfl⟩
  exact ⟨⟨ht.1.tlb, ht.1.vest, ht.1.regions⟩, ht.2⟩

/-- A context closed: free, with no kill and no kernel number used, and no translation, region or record of it left (R284). -/
theorem State.closeContext_closed {s : State} {ctx : Nat} (h : s.mayClose ctx) :
    ((s.closeContext ctx).context ctx).state = 0 ∧ ((s.closeContext ctx).context ctx).ckill = false ∧
      ((s.closeContext ctx).context ctx).nextKid = 0 ∧ (∀ e ∈ (s.closeContext ctx).tlb, e.ctx ≠ ctx) ∧
      (∀ r ∈ (s.closeContext ctx).regions, r.ctx ≠ ctx) ∧ ∀ r ∈ (s.closeContext ctx).vest, r.ctx ≠ ctx := by
  rw [State.closeContext_steps h]
  obtain ⟨hu, huctx⟩ := State.unstaged_frame ((s.cleared ctx).setContext ctx (s.context ctx).closed) (s.context ctx)
  have hr := State.releaseReplicas_frame (((s.cleared ctx).setContext ctx (s.context ctx).closed).unstaged (s.context ctx)) ctx
  obtain ⟨htlb, hreg, hvest⟩ := s.cleared_none ctx
  have hctx : State.context ((((s.cleared ctx).setContext ctx (s.context ctx).closed).unstaged (s.context ctx)).releaseReplicas ctx) ctx =
      (s.context ctx).closed := by
    rw [State.context, hr.ctxs, huctx, State.setContext_ctxs, tblGet_put, if_pos rfl]
  rw [hctx, hr.tlb, hu.tlb, hr.regions, hu.regions, hr.vest, hu.vest]
  exact ⟨rfl, rfl, rfl, htlb, hreg, hvest⟩

/-! ### Caches, slot tables, debug stops -/

theorem State.die_dropImages {s : State} {d : Nat} (p : ImageEntry → Bool) (hd : d < 4) :
    ((s.dropImages p).die d).images = (s.die d).images.filter fun i => !p i := by
  simp [State.dropImages, State.die, Vector.getD, hd]

/-- A slot-table place of its own for each stack, channel and register (R346). -/
theorem sltKey_inj {st ch i st' ch' i' : Nat} (hi : i < 256) (hc : ch < 32) (hi' : i' < 256) (hc' : ch' < 32) :
    sltKey st ch i = sltKey st' ch' i' ↔ st = st' ∧ ch = ch' ∧ i = i' := by
  unfold sltKey
  omega

/-- Slot n owes a debug stop whose source is DBGHALT (4) or a divergence (5) (R353, R355). -/
def HaltDue (stops : Tbl (Nat × Bool)) (n : Nat) : Prop := ∃ m, tblFind n stops = some (4, m) ∨ tblFind n stops = some (5, m)

theorem askHalt_due (stops : Tbl (Nat × Bool)) (n : Nat) : HaltDue (askHalt stops n) n := by
  unfold askHalt HaltDue
  split
  · exact ⟨_, .inr ‹_›⟩
  · exact ⟨_, .inl (by rw [tblFind_put, if_pos rfl])⟩
  · exact ⟨_, .inl (by rw [tblFind_put, if_pos rfl])⟩

theorem askHalt_other (stops : Tbl (Nat × Bool)) {n k : Nat} (h : n ≠ k) : tblFind k (askHalt stops n) = tblFind k stops := by
  unfold askHalt
  split
  · rfl
  · rw [tblFind_put, if_neg h]
  · rw [tblFind_put, if_neg h]

theorem askHalts_other {k : Nat} (l : List Nat) (stops : Tbl (Nat × Bool)) (h : k ∉ l) : tblFind k (l.foldl askHalt stops) = tblFind k stops := by
  induction l generalizing stops with
  | nil => rfl
  | cons n l ih =>
    rw [List.mem_cons, not_or] at h
    rw [List.foldl_cons, ih _ h.2, askHalt_other _ (Ne.symm h.1)]

/-- Every slot of the list owes a stop afterwards. -/
theorem askHalts_due {k : Nat} (l : List Nat) (stops : Tbl (Nat × Bool)) (h : k ∈ l) : HaltDue (l.foldl askHalt stops) k := by
  induction l generalizing stops with
  | nil => cases h
  | cons n l ih =>
    by_cases hk : k ∈ l
    · exact ih _ hk
    · obtain rfl : k = n := by simpa [hk] using h
      unfold HaltDue
      rw [List.foldl_cons, askHalts_other l _ hk]
      exact askHalt_due stops k

/-- The slot-table value of a place after the one pending write of a channel has taken effect (R346). -/
theorem sltTurnApply_value {s : State} {stack chan : Nat} (hc : s.clkCur = false) : ∃ t, exec (.sltTurnApply stack chan) s = .next t ∧ t.mem = s.mem ∧
    (∀ w, w ∈ t.sltWaits ↔ w ∈ s.sltWaits ∧ ¬(w.stack = stack ∧ w.chan = chan)) ∧
    (∀ w, s.sltWaits.filter (fun w => w.stack == stack && w.chan == chan) = [w] → ∀ st ch i, i < 256 → ch < 32 → w.reg < 256 → chan < 32 →
      t.sltValue st ch i = if st = stack ∧ ch = chan ∧ i = w.reg then w.value else s.sltValue st ch i) := by
  rw [exec_sltTurnApply, execSltTurnApply, hc, if_neg Bool.false_ne_true]
  refine ⟨_, rfl, rfl, fun w => ?_, fun w hw st ch i hi hch hreg hchan => ?_⟩
  · simp only [List.mem_filter, Bool.not_eq_true', ← Bool.not_eq_true, Bool.and_eq_true, beq_iff_eq]
  · have hkey : sltKey stack chan w.reg = sltKey st ch i ↔ st = stack ∧ ch = chan ∧ i = w.reg := by
      rw [sltKey_inj hreg hchan hi hch, eq_comm (a := stack), eq_comm (a := chan), eq_comm (a := w.reg)]
    simp only [State.sltValue, hw, List.foldl_cons, List.foldl_nil, tblGet_put, hkey]

/-- DBGHALT asks a stop of each running hart of the kernel, and of no other slot (R353). -/
theorem dbghalt_stops (s : State) (v : BitVec 64) :
    let hit (e : Nat × Hart) : Prop := e.2.ofKernel s.dbg.sel (v.toNat % 2 ^ 16) = true ∧ e.2.state = .running
    ∃ t, exec (.dbghalt v) s = .next t ∧ t.mem = s.mem ∧ t.harts = s.harts ∧ (∀ e ∈ s.harts, hit e → HaltDue t.dbg.stops e.1) ∧
      ∀ n, (∀ e ∈ s.harts, e.1 = n → ¬hit e) → tblFind n t.dbg.stops = tblFind n s.dbg.stops := by
  intro hit
  have hslots (n : Nat) : n ∈ (s.harts.filterMap fun e =>
      if e.2.ofKernel s.dbg.sel (Word.field v 15 0) && e.2.state == .running then some e.1 else none) ↔ ∃ e ∈ s.harts, e.1 = n ∧ hit e := by
    simp only [List.mem_filterMap, hit, Option.ite_none_right_eq_some, Bool.and_eq_true, beq_iff_eq, Word.field_eq]
    simp [and_comm, and_left_comm]
  refine ⟨s.haltKernel (Word.field v 15 0), rfl, rfl, rfl, fun e he hh => askHalts_due _ _ ((hslots _).2 ⟨e, he, rfl, hh⟩), fun n hn => ?_⟩
  refine askHalts_other _ _ fun hin => ?_
  obtain ⟨e, he, hen, hh⟩ := (hslots n).1 hin
  exact hn e he hen hh

/-- PGWAKE with its bit 0 set lets the engines of the context walk again; without it nothing happens (R333). -/
theorem State.wakePager_set (s : State) (ctx : Nat) {v : Word} (h : v.getLsbD 0 = true) :
    s.wakePager ctx v = { s with pageWaits := s.pageWaits.filter (·.1 ≠ ctx) } := by
  unfold State.wakePager
  rw [if_pos h]
  simp only [bne, ne_eq, decide_not]
  rfl

theorem State.wakePager_clear (s : State) (ctx : Nat) {v : Word} (h : v.getLsbD 0 = false) : s.wakePager ctx v = s := by
  unfold State.wakePager
  rw [if_neg (by rw [h]; exact Bool.false_ne_true)]

/-- XE3 of an entry that the core selects: a replica set that R250 refuses is left (R341). -/
theorem State.setXe3_refused {s : State} {d n : Nat} {v : Word} (he : s.xselEntry d = some n) (h : replicaSetOk v = false) : s.setXe d 3 v = s := by
  unfold State.setXe
  rw [he]
  simp [h]

theorem State.setXe3_staged {s : State} {d n : Nat} {v : Word} (he : s.xselEntry d = some n) (h : replicaSetOk v = true) :
    s.setXe d 3 v = s.stageSet (s.die d).ctxsel n v := by
  unfold State.setXe
  rw [he]
  simp [h]

theorem State.setXe_none {s : State} {d i : Nat} {v : Word} (he : s.xselEntry d = none) : s.setXe d i v = s := by
  unfold State.setXe
  rw [he]

/-- A write of a slot table waits for the turns of the channels that SLTSEL names; the tables stay (R346). -/
theorem State.queueSlt_waits {s : State} (d i : Nat) (v : Word) (h : s.clkCur = false) :
    s.queueSlt d i v = { s with sltWaits := s.sltWaits ++
      (if (s.die d).sltsel.getLsbD 5 then List.range 32 else [(s.die d).sltsel.toNat % 32]).map fun c =>
        ⟨(s.die d).sltsel.toNat / 256, c, i, if i = 4 then v &&& 0xFFFF else v⟩ } := by
  unfold State.queueSlt
  rw [h, if_neg Bool.false_ne_true]
  rfl

theorem State.queueSlt_locked {s : State} (d i : Nat) (v : Word) (h : s.clkCur = true) : s.queueSlt d i v = s := by
  unfold State.queueSlt
  rw [if_pos h]

/-! ### The steps by who writes -/

/-- The writes of the core on turn, each on the fields of its map (R284, R304, R333, R341, R346, R348). -/
theorem coreWrites {s : State} {d : Nat} (v : BitVec 64) (hd : d < 4) (hp : s.cur = .scc d) :
    let x := s.die d
    let ctx := x.ctxsel
    let k := s.context ctx
    exec (.registerWrite 0x800 v) s = .next (s.setDie d { x with ctxsel := v.toNat % 64 }) ∧
    exec (.fqctlWrite 0x802 v) s = .next (s.setContext ctx { k with fq := k.fq.setCtl v }) ∧
    exec (.fqctlWrite 0x832 v) s = .next (s.setContext ctx { k with pgq := k.pgq.setCtl v }) ∧
    (v.getLsbD 0 = true → exec (.pgwake v) s = .next { s with pageWaits := s.pageWaits.filter (·.1 ≠ ctx) }) ∧
    (v.getLsbD 0 = false → exec (.pgwake v) s = .next s) ∧
    (v.getLsbD 0 = true → exec (.bdctlRestart v) s = .next (s.restartBase x.bdsel)) ∧
    (v.getLsbD 0 = false → exec (.bdctlRestart v) s = .next s) := by
  refine ⟨registerWrite_ctxsel v hp hd, fqctlWrite_fq v hp, fqctlWrite_pgq v hp, fun h => ?_, fun h => ?_, fun h => ?_, fun h => ?_⟩
  · rw [pgwake_next v hp, State.wakePager_set s _ h]
  · rw [pgwake_next v hp, State.wakePager_clear s _ h]
  · rw [bdctlRestart_next v hp, if_pos h]
  · rw [bdctlRestart_next v hp, if_neg (by rw [h]; exact Bool.false_ne_true)]

/-- CTXCMD opens a free context and reopens a stopped one that is discarded already (R284). -/
theorem State.openContext_eq (s : State) (ctx : Nat) :
    ((s.context ctx).state = 0 → s.openContext ctx = s.setContext ctx { s.context ctx with state := 1 }) ∧
    ((s.context ctx).state ≠ 0 → s.openContext ctx = s) :=
  ⟨fun h => if_pos h, fun h => if_neg h⟩

theorem State.reopenContext_eq (s : State) (ctx : Nat) :
    ((s.context ctx).state = 3 → (s.context ctx).disc = false → s.reopenContext ctx = s.setContext ctx { s.context ctx with state := 1 }) ∧
    ((s.context ctx).state ≠ 3 ∨ (s.context ctx).disc = true → s.reopenContext ctx = s) := by
  unfold State.reopenContext
  refine ⟨fun h3 hd => if_pos (by simp [h3, hd]), fun h => if_neg ?_⟩
  obtain h | h := h
  · simp [h]
  · simp [h]

/-- The state field of XE0 written (R341, R343): pin, unpin, evict, each from its own state only. -/
theorem xe0Writes {s : State} {ctx e n : Nat} (he : s.entryOf ctx e = some n) :
    let x := s.expert n
    let pinned := ∃ i ∈ x.slots, s.pinsOn ctx ((s.context ctx).slotVa i) (2 ^ (s.context ctx).slotlg) = true
    (x.state = .resident → exec (.xe0Pin ctx e) s = .next (s.setExpert n { x with state := .pinned })) ∧
    (x.state ≠ .resident → exec (.xe0Pin ctx e) s = .next s) ∧
    (x.state = .pinned → exec (.xe0Unpin ctx e) s = .next ((s.setExpert n { x with state := .resident }).releaseReplicas ctx)) ∧
    (x.state ≠ .pinned → exec (.xe0Unpin ctx e) s = .next s) ∧
    (x.state = .resident → s.holdsOn ctx e = 0 → s.recordsOn ctx e = 0 → ¬pinned → ∃ t, exec (.xe0Evict ctx e) s = .next t ∧
      (t.expert n).state = .absent ∧ (t.expert n).filled = [] ∧ t.mem = s.mem ∧ tblFind ((s.context ctx).slotbase + x.slot) t.slots = none) ∧
    (x.state ≠ .resident ∨ s.holdsOn ctx e ≠ 0 ∨ s.recordsOn ctx e ≠ 0 ∨ pinned → exec (.xe0Evict ctx e) s = .next s) := by
  have hpin : exec (.xe0Pin ctx e) s = .next (if (s.expert n).state == .resident then s.setExpert n { s.expert n with state := .pinned } else s) := by
    rw [exec_xe0Pin, execXe0Pin, he]
  have hunpin : exec (.xe0Unpin ctx e) s = .next (if (s.expert n).state == .pinned
      then (s.setExpert n { s.expert n with state := .resident }).releaseReplicas ctx else s) := by
    rw [exec_xe0Unpin, execXe0Unpin, he]
  refine ⟨fun h => ?_, fun h => ?_, fun h => ?_, fun h => ?_, fun h hholds hrec hfree => ?_, fun h => ?_⟩
  · rw [hpin, if_pos (beq_iff_eq.2 h)]
  · rw [hpin, if_neg (fun e => h (beq_iff_eq.1 e))]
  · rw [hunpin, if_pos (beq_iff_eq.2 h)]
  · rw [hunpin, if_neg (fun e => h (beq_iff_eq.1 e))]
  · obtain ⟨hmem, -, ⟨hstate, hfilled⟩, hslot⟩ := State.evict_evicted he
    rw [exec_xe0Evict, execXe0Evict, if_pos ((State.candidate_iff he).2 ⟨h, hholds, hrec, hfree⟩)]
    exact ⟨_, rfl, hstate, hfilled, hmem, hslot⟩
  · rw [exec_xe0Evict, execXe0Evict, if_neg]
    rw [State.candidate_iff he]
    rintro ⟨hstate, hholds, hrec, hfree⟩
    obtain h | h | h | h := h
    · exact h hstate
    · exact h hholds
    · exact h hrec
    · exact hfree h

/-- Settles O58: each register write of the table by its own lemma, along the conditions of the statement. -/
theorem registerEvents : Obligations.RegisterEvents := by
  unfold Obligations.RegisterEvents
  intro s v
  refine ⟨fun cr h => registerWrite_mhdm h, fun d hd hp => ?core, fun slot h o hq => ⟨srseedWrite_next v o hq, fflagsWrite_next v o hq⟩,
    fun ctx => ?context, fun die => ?lplimit, ?kcinv, rfl, fun ctx e n he => xe0Writes he, fun stack chan hc => ?frozen,
    fun stack chan hc => sltTurnApply_value hc, ?errlogSet, ?errlogKept, dbghalt_stops s v⟩
  case core =>
    obtain ⟨hsel, hfq, hpgq, hwake, hsleep, hrestart, hkept⟩ := coreWrites v hd hp
    refine ⟨hsel, hfq, hpgq, hwake, hsleep, hrestart, hkept, fun n he => ⟨fun h => ?_, fun h => ?_⟩, fun he => ?_, lpbaseWrite_next v hp hd,
      fun i hi hc => ?_, fun i hi hc => ?_⟩
    · rw [xe3Stage_next v hp, State.setXe3_refused he h]
    · rw [xe3Stage_next v hp, State.setXe3_staged he h]
      exact ⟨_, rfl, State.stageSet_frame _ _ _ _⟩
    · rw [xe3Stage_next v hp, State.setXe_none he]
    · rw [sltWrite_next v hp hi, State.queueSlt_locked d i v hc]
    · rw [sltWrite_next v hp hi, State.queueSlt_waits d i v hc]
      exact ⟨_, rfl, rfl, rfl, rfl⟩
  case context =>
    refine ⟨fun h => congrArg _ ((s.openContext_eq ctx).1 h), fun h => congrArg _ ((s.openContext_eq ctx).2 h),
      fun h3 hd => congrArg _ ((s.reopenContext_eq ctx).1 h3 hd), fun h => congrArg _ ((s.reopenContext_eq ctx).2 h),
      fun h => ⟨_, rfl, State.closeContext_closed h⟩, fun h => congrArg _ (State.closeContext_refused h)⟩
  case lplimit =>
    rw [exec_lplimitWrite, execLplimitWrite]
    refine ⟨fun h5 hd => ?_, fun h5 => ?_⟩
    · rw [if_neg (by simp; omega)]; rfl
    · rw [if_pos (by simp [h5])]
  case kcinv =>
    refine ⟨_, rfl, rfl, fun d hd => ?_⟩
    rw [State.kcinv, State.die_dropImages _ hd]
    simp [Word.field_eq]
  case frozen => rw [exec_sltTurnApply, execSltTurnApply, if_pos hc]
  case errlogSet => exact fun h => by rw [exec_errlogClear, execErrlogClear, State.clearErrlog, if_pos h]
  case errlogKept => exact fun h => by rw [exec_errlogClear, execErrlogClear, State.clearErrlog, if_neg (by rw [h]; exact Bool.false_ne_true)]

end Sys2Proof.Machine
end

section
/-! What the registers read as right after reset, and a hart's right after launch (R7, R59, R284). -/
namespace Sys2Proof.Machine

/-- Settles O44: memory lists nothing at reset. -/
theorem resetInvariant : Obligations.ResetInvariant := State.reset_wf

/-- A supervisor number that a die assigns is in the block 0x800 to 0x881, and the dies with tier rings assign it too (R336). -/
theorem supAssigned_bound {d cr : Nat} (h : supAssigned d cr = true) : 0x800 ≤ cr ∧ cr < 0x882 ∧ supAssigned 1 cr = true := by
  simp only [supAssigned, Bool.or_eq_true, Bool.and_eq_true, decide_eq_true_eq, beq_iff_eq, true_or, true_and] at h ⊢
  omega

/-- The supervisor registers of a core by number. -/
theorem supAssigned_mem {d cr : Nat} (h : supAssigned d cr = true) : cr ∈ supervisorNumbers := by
  obtain ⟨hlo, hhi, h1⟩ := supAssigned_bound h
  have hall : ∀ n < 0x82, supAssigned 1 (0x800 + n) = true → 0x800 + n ∈ supervisorNumbers := by decide
  have := hall (cr - 0x800) (by omega)
  rw [show 0x800 + (cr - 0x800) = cr by omega] at this
  exact this h1

theorem monAssigned_mem {cr : Nat} (h : monAssigned cr = true ∨ dbgAssigned cr = true) : cr ∈ monitorNumbers := by
  simp only [monAssigned, dbgAssigned, Bool.or_eq_true, Bool.and_eq_true, decide_eq_true_eq, beq_iff_eq] at h
  simp only [monitorNumbers, List.mem_cons, List.not_mem_nil, or_false]
  omega

/-- What the maps give for each supervisor register at reset (R284, R304, R336, R339, R346, R348). -/
def supResetValue (cr : Nat) : Nat :=
  if cr = 0x802 ∨ cr = 0x832 then 4 else if cr = 0x803 then 0x8010 else if cr = 0x810 ∨ cr = 0x840 then 12
    else if cr = 0x856 then 16 * 2 ^ 59 else if cr = 0x866 then 0xFFFF else if cr = 0x873 then 4096 else 0

theorem supReg_reset : ∀ d < 4, ∀ cr ∈ supervisorNumbers, State.reset.supReg d cr = supResetValue cr := by
  decide

theorem monReg_reset : ∀ cr ∈ monitorNumbers, State.reset.monReg cr = if cr = 0xC10 then 4 * 2 ^ 52 else 0 := by decide

/-- A number above the kernel level that a core reaches is a supervisor register (R113). -/
theorem supAssigned_of_core {d cr : Nat} (h8 : 0x800 ≤ cr) (h : crCause (.scc d) cr = none) : supAssigned d cr = true := by
  unfold crCause at h
  rw [if_neg (by omega)] at h
  by_cases hs : supAssigned d cr = true
  · exact hs
  · dsimp only at h
    rw [if_neg hs] at h
    split at h <;> cases h

/-- A core reads its supervisor registers at reset as their maps say. -/
theorem crValue_reset {d cr : Nat} (hd : d < 4) (h8 : 0x800 ≤ cr) (h : crCause (.scc d) cr = none) (c : Scalar) :
    State.reset.crValue (.scc d) c cr = supResetValue cr := by
  unfold State.crValue
  dsimp only
  rw [if_neg (by omega)]
  exact supReg_reset d hd cr (supAssigned_mem (supAssigned_of_core h8 h))

section
variable (ctx kid id n lanes now wall : Nat) (pc args scr : Word)

theorem Hart.launch_scopemiss : (Hart.launch ctx kid id n lanes pc args scr now wall).scopemiss = 15 := by
  simp [Hart.scopemiss, Hart.launch]

theorem Hart.launch_expstat (slot : Nat) : State.reset.expstat slot (Hart.launch ctx kid id n lanes pc args scr now wall) = 0 := by
  simp [State.expstat, State.reset, Hart.launch]

/-- A hart reads its kernel-level registers right after launch as their maps say (R59, R75, R224, R257). -/
theorem Hart.launch_reg (slot : Nat) : ∀ cr, cr ≤ 0x018 →
    let h := Hart.launch ctx kid id n lanes pc args scr now wall
    State.reset.hartReg slot h h.sc cr =
      if cr = 0x001 then 8192 / n else if cr = 0x002 then n else if cr = 0x007 then id else if cr = 0x008 then kid
      else if cr = 0x014 then args.toNat % 2 ^ 57 else if cr = 0x017 then 15 else if cr = 0x018 then scr.toNat else 0 := by
  intro cr hcr
  have hf : State.hartReg.fflagsWord' 0#10 = 0 := by decide
  dsimp only
  unfold State.hartReg
  split
  case h_25 =>
    simp only [imp_false] at *
    obtain rfl : cr = 0x003 := by omega
    rfl
  case h_22 => exact Hart.launch_expstat ctx kid id n lanes now wall pc args scr slot
  case h_23 => exact Hart.launch_scopemiss ctx kid id n lanes now wall pc args scr
  all_goals simp [Hart.launch, Scalar.launch, mvlOf, hf, Vector.getD]

theorem Hart.launch_get (r : Reg) : (Hart.launch ctx kid id n lanes pc args scr now wall).sc.get r = 0 := by
  unfold Scalar.get
  split
  · rfl
  · simp [Hart.launch, Scalar.launch, Vector.get]

theorem Hart.launch_full {r : Nat} (hr : r < 64) : (Hart.launch ctx kid id n lanes pc args scr now wall).full.getLsbD r = true := by
  rw [show (Hart.launch ctx kid id n lanes pc args scr now wall).full = BitVec.allOnes 64 from rfl, BitVec.getLsbD_allOnes, decide_eq_true hr]

theorem Hart.launch_mask {j : Nat} (hj : 1 ≤ j) (h16 : j < 16) : (Hart.launch ctx kid id n lanes pc args scr now wall).mask j = 0 := by
  simp [Hart.launch, Hart.mask, Vector.getD, h16, show j ≠ 0 by omega]

end

/-- Settles O43: the registers of the cores, the monitor and a launched hart at reset, each by its map. -/
theorem resetValues : Obligations.ResetValues := by
  unfold Obligations.ResetValues
  refine ⟨fun d cr hd h8 hc => crValue_reset hd h8 hc _, fun cr h => monReg_reset cr (monAssigned_mem h), by decide, rfl, rfl,
    fun ctx kid id n lanes now wall slot cr pc args scr hcr => Hart.launch_reg ctx kid id n lanes now wall pc args scr slot cr hcr,
    fun ctx kid id n lanes now wall pc args scr => ⟨fun r => Hart.launch_get .., fun _ _ => rfl, fun r hr => Hart.launch_full (hr := hr) ..,
      fun j hj h16 => Hart.launch_mask (hj := hj) (h16 := h16) ..⟩⟩

end Sys2Proof.Machine
end

section
/-! Bytes and tables that the platform's steps read and write: numbers as bytes, runs of bytes, tables cut down by key. -/
namespace Sys2Proof.Machine

/-! ### Numbers as bytes (R4) -/

@[simp] theorem leBytes_length (n : Nat) : ∀ v, (leBytes n v).length = n := by
  induction n with
  | zero => intro v; rfl
  | succ n ih => intro v; simp [leBytes, ih]

theorem leNat_leBytes (n : Nat) : ∀ v, leNat (leBytes n v) = v % 256 ^ n := by
  induction n with
  | zero => intro v; simp [leBytes, leNat, Nat.mod_one]
  | succ n ih =>
    intro v
    simp only [leBytes, leNat, BitVec.toNat_ofNat, ih, Nat.reducePow]
    rw [Nat.pow_succ', Nat.mod_mul]

theorem leNat_lt (bs : List Byte) : leNat bs < 256 ^ bs.length := by
  induction bs with
  | nil => simp [leNat]
  | cons b t ih =>
    have hb := b.isLt
    simp only [leNat, List.length_cons, Nat.pow_succ']
    omega

theorem leBytes_leNat (bs : List Byte) : leBytes bs.length (leNat bs) = bs := by
  induction bs with
  | nil => rfl
  | cons b t ih =>
    have hb := b.isLt
    simp only [List.length_cons, leBytes, leNat]
    rw [show (b.toNat + 256 * leNat t) / 256 = leNat t by omega, ih, BitVec.ofNat_add, BitVec.ofNat_mul]
    simp

/-! ### Runs of numbers and of bytes -/

theorem mem_upFrom {x : Nat} (n : Nat) : ∀ a, x ∈ upFrom a n ↔ a ≤ x ∧ x < a + n := by
  induction n with
  | zero => intro a; simp [upFrom]
  | succ n ih => intro a; simp only [upFrom, List.mem_cons, ih]; omega

@[simp] theorem upFrom_length (n : Nat) : ∀ a, (upFrom a n).length = n := by
  induction n with
  | zero => intro a; rfl
  | succ n ih => intro a; simp [upFrom, ih]

/-- A run whose i-th value is a list's i-th is the list. -/
theorem map_upFrom_eq {α : Type} (d : α) (f : Nat → α) (l : List α) : ∀ a, (∀ i, i < l.length → f (a + i) = nthD d l i) →
    (upFrom a l.length).map f = l := by
  induction l with
  | nil => intro a _; rfl
  | cons x l ih =>
    intro a h
    have htail : (upFrom (a + 1) l.length).map f = l := ih (a + 1) fun i hi => by
      rw [Nat.add_assoc, Nat.add_comm 1]
      exact h (i + 1) (Nat.succ_lt_succ hi)
    rw [List.length_cons, upFrom, List.map_cons, htail]
    exact congrArg (· :: l) (h 0 (Nat.succ_pos _))

@[simp] theorem Memory.reads_length (m : List Host.Cell) (k n : Nat) : (Memory.reads m k n).length = n := by simp [Memory.reads]

/-- Bytes read apart from those that are written. -/
theorem Memory.reads_writes_other {m : List Host.Cell} (bs : List Byte) (k j n : Nat) (h : Memory.wf m = true) (hj : j + n ≤ k ∨ k + bs.length ≤ j) :
    Memory.reads (Memory.writes m k bs) j n = Memory.reads m j n :=
  List.map_congr_left fun a ha => Memory.read_writes_other bs k a m h (by rw [mem_upFrom] at ha; omega)

/-- A byte of a part of memory that is cut out by key. -/
theorem Memory.read_filter (p : Nat → Bool) (k : Nat) (m : List Host.Cell) : ∀ lo, Memory.wfFrom lo m = true →
    Memory.read k (m.filter fun c => p c.1) = if p k then Memory.read k m else 0 := by
  induction m with
  | nil => intro lo _; simp [Memory.read, unlistedByte]
  | cons c t ih =>
    obtain ⟨a, v⟩ := c
    intro lo h
    have ht : Memory.wfFrom (a + 1) t = true := by
      simp only [Memory.wfFrom, Bool.and_eq_true] at h; exact h.2
    have hcut : k < a → Memory.read k (t.filter fun c => p c.1) = unlistedByte := fun hk =>
      Memory.read_below _ (Memory.wfFrom_filter _ t _ ht) (by omega)
    rw [List.filter_cons]
    by_cases ha : a = k
    · subst ha
      cases hp : p a with
      | true => simp [Memory.read]
      | false => simp [Memory.read_below _ (Memory.wfFrom_filter (fun c => p c.1) t _ ht) (Nat.lt_succ_self a), unlistedByte]
    · by_cases hk : k < a
      · have : Memory.read k ((a, v) :: t) = 0 := by simp [Memory.read, ha, hk, unlistedByte]
        rw [this, ite_self]
        split
        · simp [Memory.read, ha, hk, unlistedByte]
        · exact hcut hk
      · have hr : Memory.read k ((a, v) :: t) = Memory.read k t := by simp [Memory.read, ha, hk]
        rw [hr, ← ih _ ht]
        split
        · simp [Memory.read, ha, hk]
        · rfl

/-! ### Tables -/

/-- A table cut down by its keys. -/
theorem tblFind_filter {α : Type} (p : Nat → Bool) (k : Nat) (t : Tbl α) :
    tblFind k (t.filter fun e => p e.1) = if p k then tblFind k t else none := by
  induction t with
  | nil => simp [tblFind]
  | cons e t ih =>
    obtain ⟨a, w⟩ := e
    rw [List.filter_cons]
    by_cases ha : a = k
    · subst ha
      cases hp : p a <;> simp [tblFind, hp, ih]
    · cases hp : p a <;> simp [tblFind, ha, ih]

theorem tblGet_del {α : Type} (d : α) (k : Nat) (t : Tbl α) : tblGet d k (tblDel k t) = d := by
  simp [tblGet, tblFind_del]

/-- A list of values entered at consecutive keys. -/
def tblPutAll {α : Type} (k : Nat) (vs : List α) (t : Tbl α) : Tbl α := (numbered k vs).foldl (fun m p => tblPut p.1 p.2 m) t

theorem tblGet_putAll_other {α : Type} (d : α) (vs : List α) {i : Nat} : ∀ k (t : Tbl α), (i < k ∨ k + vs.length ≤ i) →
    tblGet d i (tblPutAll k vs t) = tblGet d i t := by
  induction vs with
  | nil => intro k t _; rfl
  | cons v vs ih =>
    intro k t hi
    simp only [List.length_cons] at hi
    show tblGet d i (tblPutAll (k + 1) vs (tblPut k v t)) = _
    rw [ih _ _ (by omega), tblGet_put, if_neg (by omega)]

theorem tblGet_putAll_same {α : Type} (d : α) (vs : List α) : ∀ k (t : Tbl α),
    ((upFrom k vs.length).map fun i => tblGet d i (tblPutAll k vs t)) = vs := by
  induction vs with
  | nil => intro k t; rfl
  | cons v vs ih =>
    intro k t
    have htail : tblPutAll k (v :: vs) t = tblPutAll (k + 1) vs (tblPut k v t) := rfl
    rw [List.length_cons, upFrom, List.map_cons, htail, ih, tblGet_putAll_other d vs _ _ (.inl (Nat.lt_succ_self k)), tblGet_put, if_pos rfl]

@[simp] theorem State.baseDie_setBaseDie (s : State) (m n : Nat) (x : BaseDie) :
    (s.setBaseDie m x).baseDie n = if m = n then x else s.baseDie n := tblGet_put _ m n x s.base

end Sys2Proof.Machine
end

section
/-! The monitor's mailboxes (R359): what a field reads after a write of the mailbox, and the answer to a request. -/
namespace Sys2Proof.Machine

/-! ### Writes at physical addresses -/

/-- A write at a key changes memory and the dirty marks of scratchpads only. -/
theorem State.poke_eq (s : State) (k : Nat) (bs : List Byte) : ∃ cl, s.poke k bs = { s with mem := Memory.writes s.mem k bs, clusters := cl } := by
  unfold State.poke
  cases keyScratch k with
  | none => exact ⟨s.clusters, rfl⟩
  | some p =>
    dsimp only
    split
    · exact ⟨s.clusters, rfl⟩
    · exact ⟨_, rfl⟩

@[simp] theorem State.poke_sent (s : State) (k : Nat) (bs : List Byte) : (s.poke k bs).sent = s.sent := by
  obtain ⟨cl, h⟩ := s.poke_eq k bs
  rw [h]

@[simp] theorem State.poke_replays (s : State) (k : Nat) (bs : List Byte) : (s.poke k bs).replays = s.replays := by
  obtain ⟨cl, h⟩ := s.poke_eq k bs
  rw [h]

theorem State.peekNat_pokeNat {s : State} (wf : Memory.wf s.mem = true) (k n v : Nat) : (s.pokeNat k n v).peekNat k n = v % 256 ^ n := by
  have h := Memory.reads_writes (leBytes n v) k s.mem wf
  rw [leBytes_length] at h
  rw [State.peekNat, State.peek, State.pokeNat_mem, h, leNat_leBytes]

theorem physOk_within {k n off m : Nat} (h : physOk k n = true) (hm : off + m ≤ n) : physOk (k + off) m = true := by
  simp only [physOk, Bool.or_eq_true, Bool.and_eq_true, decide_eq_true_eq] at h ⊢
  omega

/-! ### Fields of a mailbox -/

/-- The mailbox stands in memory that can be read and written: always the host's, the runtime's where its 4 KiB name memory. -/
def State.MboxOk (s : State) (host : Bool) : Prop := Memory.wf s.mem = true ∧ (host = false → physOk s.msvcPa 4096 = true)

/-- A write of a mailbox's field changes memory, the dirty marks and the host's mailbox only. -/
theorem State.mboxPut_eq (s : State) (host : Bool) (off n v : Nat) :
    ∃ m cl mb, s.mboxPut host off n v = { s with mem := m, clusters := cl, mbox := mb } := by
  unfold State.mboxPut State.physPut
  split
  · exact ⟨_, _, _, rfl⟩
  · split
    · obtain ⟨cl, h⟩ := s.poke_eq (s.msvcPa + off) (leBytes n v)
      exact ⟨_, cl, s.mbox, h⟩
    · exact ⟨_, _, _, rfl⟩

section
variable {s : State} {host : Bool} {off n : Nat} (v : Nat) (ok : s.MboxOk host) (hn : off + n ≤ 4096)
include ok hn

/-- A runtime's mailbox field is written to memory. -/
theorem State.mboxPut_runtime (hh : host = false) : s.mboxPut host off n v = s.poke (s.msvcPa + off) (leBytes n v) := by
  have h := physOk_within (ok.2 hh) hn
  simp [State.mboxPut, State.physPut, hh, h]

theorem State.mboxNat_runtime (hh : host = false) : s.mboxNat host off n = s.peekNat (s.msvcPa + off) n := by
  have h := physOk_within (ok.2 hh) hn
  simp [State.mboxNat, State.physNat, hh, h]

theorem State.mboxPut_ok : (s.mboxPut host off n v).MboxOk host := by
  obtain ⟨wf, hp⟩ := ok
  obtain ⟨m, cl, mb, h⟩ := s.mboxPut_eq host off n v
  refine ⟨?_, fun hh => by rw [h]; exact hp hh⟩
  cases host with
  | true => exact wf
  | false => rw [State.mboxPut_runtime v ⟨wf, hp⟩ hn rfl]; exact State.poke_wf _ _ _ wf

/-- A field written reads back, cut to its bytes. -/
theorem State.mboxNat_mboxPut_same : (s.mboxPut host off n v).mboxNat host off n = v % 256 ^ n := by
  have ok' := State.mboxPut_ok v ok hn
  rw [← leNat_leBytes]
  cases host with
  | true =>
    have h := tblGet_putAll_same (0 : Byte) (leBytes n v) off s.mbox
    rw [leBytes_length] at h
    exact congrArg leNat h
  | false =>
    have h := Memory.reads_writes (leBytes n v) (s.msvcPa + off) s.mem ok.1
    rw [leBytes_length] at h
    rw [State.mboxNat_runtime ok' hn rfl, State.mboxPut_runtime v ok hn rfl]
    obtain ⟨cl, hp⟩ := s.poke_eq (s.msvcPa + off) (leBytes n v)
    rw [hp]
    exact congrArg leNat h

/-- A write of a field leaves the fields apart from it. -/
theorem State.mboxNat_mboxPut_other {off' n' : Nat} (hn' : off' + n' ≤ 4096) (ha : off' + n' ≤ off ∨ off + n ≤ off') :
    (s.mboxPut host off n v).mboxNat host off' n' = s.mboxNat host off' n' := by
  have ok' := State.mboxPut_ok v ok hn
  cases host with
  | true =>
    refine congrArg leNat (List.map_congr_left fun i hi => tblGet_putAll_other (0 : Byte) (leBytes n v) off s.mbox ?_)
    rw [mem_upFrom] at hi
    rw [leBytes_length]
    omega
  | false =>
    rw [State.mboxNat_runtime ok' hn' rfl, State.mboxNat_runtime ok hn' rfl, State.mboxPut_runtime v ok hn rfl]
    obtain ⟨cl, hp⟩ := s.poke_eq (s.msvcPa + off) (leBytes n v)
    rw [hp]
    exact congrArg leNat (Memory.reads_writes_other _ (s.msvcPa + off) (s.msvcPa + off') n' ok.1 (by rw [leBytes_length]; omega))

end

/-- A field of n bytes holds a number below 256^n. -/
theorem State.mboxNat_lt (s : State) (host : Bool) (off n : Nat) : s.mboxNat host off n < 256 ^ n := by
  have bound (bs : List Byte) (h : bs.length = n) : leNat bs < 256 ^ n := h ▸ leNat_lt bs
  unfold State.mboxNat State.physNat
  split
  · exact bound _ (by simp [State.mboxBytes])
  · split
    · exact bound _ (by simp [State.peek])
    · exact bound _ (by simp)

/-! ### The answer -/

/-- What serving a request may not touch: the mailboxes and the order of the rings. -/
structure State.SameMbox (s t : State) : Prop where
  mem    : t.mem = s.mem
  mbox   : t.mbox = s.mbox
  msvcPa : t.msvcPa = s.msvcPa
  rung   : t.rung = s.rung

/-- t answers the request of s: status and done number stand in the mailbox, the ring is taken, and the registers are those of the served request. -/
structure State.Answered (s : State) (host : Bool) (r : Served) (t : State) : Prop where
  status : t.mboxNat host 0xA 2 = r.status % 256 ^ 2
  done   : t.mboxNat host 4 4 = s.mboxNat host 0 4
  rung   : t.rung = s.rung.drop 1
  reply  : ∀ v, r.reply = some v → t.mboxNat host 0x10 8 = v % 256 ^ 8
  regs   : t.dbg = r.st.dbg ∧ t.lnode = r.st.lnode ∧ t.sctrap = r.st.sctrap ∧ t.lbrk = r.st.lbrk ∧ t.mhdmBase = r.st.mhdmBase

/-- The answer's status and done number stand in the mailbox, and its ring is taken. -/
def State.Finished (s : State) (host : Bool) (status : Nat) (t : State) : Prop :=
  t.mboxNat host 0xA 2 = status ∧ t.mboxNat host 4 4 = s.mboxNat host 0 4 ∧ t.rung = s.rung.drop 1

theorem State.Answered.finished {s u : State} {host : Bool} {st : Nat} {o : Out} (h : ∃ t, o = .next t ∧ s.Answered host ⟨st, none, u⟩ t)
    (hs : st < 256 ^ 2 := by decide) : ∃ t, o = .next t ∧ s.Finished host st t := by
  obtain ⟨t, ho, ans⟩ := h
  exact ⟨t, ho, ans.status.trans (Nat.mod_eq_of_lt hs), ans.done, ans.rung⟩

theorem State.Answered.withReply {s u : State} {host : Bool} {v : Nat} {o : Out} (h : ∃ t, o = .next t ∧ s.Answered host ⟨0, some v, u⟩ t) :
    ∃ t, o = .next t ∧ s.Finished host 0 t ∧ t.mboxNat host 0x10 8 = v % 256 ^ 8 := by
  obtain ⟨t, ho, ans⟩ := h
  exact ⟨t, ho, ⟨ans.status, ans.done, ans.rung⟩, ans.reply v rfl⟩

theorem State.Answered.withRegs {s u : State} {host : Bool} {o : Out} (h : ∃ t, o = .next t ∧ s.Answered host ⟨0, none, u⟩ t) :
    ∃ t, o = .next t ∧ s.Finished host 0 t ∧ t.dbg = u.dbg ∧ t.lnode = u.lnode ∧ t.sctrap = u.sctrap ∧ t.lbrk = u.lbrk ∧ t.mhdmBase = u.mhdmBase := by
  obtain ⟨t, ho, ans⟩ := h
  exact ⟨t, ho, ⟨ans.status, ans.done, ans.rung⟩, ans.regs⟩

/-- The reply, where there is one, written to arg0. -/
def State.putReply (host : Bool) (reply : Option Nat) (s : State) : State :=
  match reply with
  | some v => s.mboxPut host 0x10 8 v
  | none => s

/-- The state that carries the answer to a request of number ring. -/
def State.answer (host : Bool) (ring : Nat) (r : Served) : State :=
  let done := ((r.st.putReply host r.reply).mboxPut host 0xA 2 r.status).mboxPut host 4 4 ring
  { done with rung := done.rung.drop 1 }

theorem State.putReply_eq (s : State) (host : Bool) (reply : Option Nat) :
    ∃ m cl mb, s.putReply host reply = { s with mem := m, clusters := cl, mbox := mb } := by
  cases reply with
  | none => exact ⟨_, _, _, rfl⟩
  | some v => exact s.mboxPut_eq host 0x10 8 v

theorem State.putReply_ok {s : State} {host : Bool} (ok : s.MboxOk host) (reply : Option Nat) : (s.putReply host reply).MboxOk host := by
  cases reply with
  | none => exact ok
  | some v => exact State.mboxPut_ok v ok (by decide)

/-- An answer changes memory, the dirty marks, the host's mailbox and the rings only. -/
theorem State.answer_eq (host : Bool) (ring : Nat) (r : Served) :
    ∃ m cl mb, State.answer host ring r = { r.st with mem := m, clusters := cl, mbox := mb, rung := r.st.rung.drop 1 } := by
  obtain ⟨m, cl, mb, h⟩ := r.st.putReply_eq host r.reply
  obtain ⟨m1, cl1, mb1, h1⟩ := (r.st.putReply host r.reply).mboxPut_eq host 0xA 2 r.status
  obtain ⟨m2, cl2, mb2, h2⟩ := ((r.st.putReply host r.reply).mboxPut host 0xA 2 r.status).mboxPut_eq host 4 4 ring
  refine ⟨m2, cl2, mb2, ?_⟩
  rw [State.answer, h2, h1, h]

/-- An answer's status, done number and reply stand in the mailbox of its request (R359). -/
theorem State.answered {s : State} {host : Bool} {r : Served} (ok : s.MboxOk host) (same : s.SameMbox r.st) :
    s.Answered host r (State.answer host (s.mboxNat host 0 4) r) := by
  have okr : (r.st.putReply host r.reply).MboxOk host := State.putReply_ok ⟨same.mem ▸ ok.1, same.msvcPa ▸ ok.2⟩ r.reply
  have okst := State.mboxPut_ok r.status okr (off := 0xA) (n := 2) (by decide)
  have hnum (off n : Nat) : (State.answer host (s.mboxNat host 0 4) r).mboxNat host off n =
      (((r.st.putReply host r.reply).mboxPut host 0xA 2 r.status).mboxPut host 4 4 (s.mboxNat host 0 4)).mboxNat host off n := rfl
  obtain ⟨m, cl, mb, hframe⟩ := State.answer_eq host (s.mboxNat host 0 4) r
  refine ⟨?_, ?_, ?_, fun v hv => ?_, ?_⟩
  · rw [hnum, State.mboxNat_mboxPut_other _ okst (by decide) (by decide) (by decide), State.mboxNat_mboxPut_same _ okr (by decide)]
  · rw [hnum, State.mboxNat_mboxPut_same _ okst (by decide), Nat.mod_eq_of_lt (s.mboxNat_lt host 0 4)]
  · rw [hframe, ← same.rung]
  · rw [hnum, State.mboxNat_mboxPut_other _ okst (by decide) (by decide) (by decide),
      State.mboxNat_mboxPut_other _ okr (by decide) (by decide) (by decide), hv]
    exact State.mboxNat_mboxPut_same v ⟨same.mem ▸ ok.1, same.msvcPa ▸ ok.2⟩ (by decide)
  · rw [hframe]
    exact ⟨rfl, rfl, rfl, rfl, rfl⟩

section
variable {s : State} {host : Bool} {ops : Nat → Bool} {act : Nat → Nat → State → Served}
  (hr : s.mboxRung host = true) (hop : ops (s.mboxNat host 8 2) = true)
include hr hop

/-- A rung request of an op that the step serves, from boot stage 5 on or of an op that needs no stage, is served. -/
theorem mboxStep_served (hst : 5 ≤ s.stage ∨ s.mboxNat host 8 2 = 0 ∨ s.mboxNat host 8 2 = 5) :
    mboxStep host ops act s = .next (State.answer host (s.mboxNat host 0 4) (act (s.mboxNat host 0x10 8) (s.mboxNat host 0x18 8) s)) := by
  have hserved : (decide (s.stage < 5) && s.mboxNat host 8 2 != 0 && s.mboxNat host 8 2 != 5) = false := by
    rw [Bool.eq_false_iff]
    simp only [ne_eq, Bool.and_eq_true, decide_eq_true_eq, bne_iff_ne]
    omega
  unfold mboxStep State.answer
  simp only [hr, hop, hserved, Bool.not_true, Bool.false_eq_true, if_false]
  rfl

/-- Before boot stage 5 every other request is answered with status 4. -/
theorem mboxStep_early (hst : s.stage < 5) (h0 : s.mboxNat host 8 2 ≠ 0) (h5 : s.mboxNat host 8 2 ≠ 5) :
    mboxStep host ops act s = .next (State.answer host (s.mboxNat host 0 4) ⟨4, none, s⟩) := by
  unfold mboxStep State.answer
  simp only [hr, hop, hst, bne_iff_ne.2 h0, bne_iff_ne.2 h5, decide_true, Bool.and_self, Bool.not_true, Bool.false_eq_true, if_false, if_true]
  rfl

end

section
variable {s : State} {host : Bool} {ops : Nat → Bool} {act : Nat → Nat → State → Served} {r : Served}
  (ok : s.MboxOk host) (hr : s.mboxRung host = true) (hop : ops (s.mboxNat host 8 2) = true)
include ok hr hop

theorem mboxStep_answers (hst : 5 ≤ s.stage ∨ s.mboxNat host 8 2 = 0 ∨ s.mboxNat host 8 2 = 5)
    (hact : act (s.mboxNat host 0x10 8) (s.mboxNat host 0x18 8) s = r) (same : s.SameMbox r.st) :
    ∃ t, mboxStep host ops act s = .next t ∧ s.Answered host r t :=
  ⟨_, mboxStep_served hr hop hst, by rw [hact]; exact State.answered ok same⟩

theorem mboxStep_refuses (hst : s.stage < 5) (h0 : s.mboxNat host 8 2 ≠ 0) (h5 : s.mboxNat host 8 2 ≠ 5) :
    ∃ t, mboxStep host ops act s = .next t ∧ s.Answered host ⟨4, none, s⟩ t :=
  ⟨_, mboxStep_early hr hop hst h0 h5, State.answered ok ⟨rfl, rfl, rfl, rfl⟩⟩

end

/-! ### The monitor's and the debug registers -/

theorem State.SameMbox.refl (s : State) : s.SameMbox s := ⟨rfl, rfl, rfl, rfl⟩

/-- A debug register's write changes the debug state only. -/
theorem State.dbgWrite_eq (s : State) (n : Nat) (v : Word) : ∃ g, s.dbgWrite n v = { s with dbg := g } := by
  unfold State.dbgWrite State.haltKernel
  repeat' split
  all_goals exact ⟨_, rfl⟩

theorem State.dbgWrite_sameMbox (s : State) (n : Nat) (v : Word) : s.SameMbox (s.dbgWrite n v) := by
  obtain ⟨g, h⟩ := s.dbgWrite_eq n v
  rw [h]
  exact ⟨rfl, rfl, rfl, rfl⟩

theorem State.monWrite_sameMbox (s : State) (n : Nat) (v : Word) : s.SameMbox (s.monWrite n v) := by
  unfold State.monWrite
  split
  · exact ⟨rfl, rfl, rfl, rfl⟩
  · exact ⟨rfl, rfl, rfl, rfl⟩
  · split <;> exact ⟨rfl, rfl, rfl, rfl⟩

/-! ### The mailbox steps -/

section
variable {s : State} {host : Bool} (ok : s.MboxOk host) (hr : s.mboxRung host = true)
include ok hr

theorem mboxNop_answers (hop : s.mboxNat host 8 2 = 0) :
    ∃ t, exec (.mboxNop host) s = .next t ∧ s.Answered host ⟨0, none, s⟩ t := by
  rw [exec_mboxNop, execMboxNop]
  exact mboxStep_answers ok hr (by simp [hop]) (.inr (.inl hop)) (by simp [hop]) (.refl s)

theorem mboxReadStage_answers (hop : s.mboxNat host 8 2 = 5) :
    ∃ t, exec (.mboxReadStage host) s = .next t ∧ s.Answered host ⟨0, some (s.monReg 0xB00), s⟩ t := by
  rw [exec_mboxReadStage, execMboxReadStage]
  exact mboxStep_answers ok hr (decide_eq_true hop) (.inr (.inr hop)) rfl (.refl s)

section
variable (hst : 5 ≤ s.stage)
include hst

theorem mboxReadDebug_assigned (hop : s.mboxNat host 8 2 = 1) (hn : dbgAssigned (s.mboxNat host 0x10 8) = true) :
    ∃ t, exec (.mboxReadDebug host) s = .next t ∧ s.Answered host ⟨0, some (s.monReg (s.mboxNat host 0x10 8)), s⟩ t := by
  rw [exec_mboxReadDebug, execMboxReadDebug]
  exact mboxStep_answers ok hr (decide_eq_true hop) (.inl hst) (if_pos hn) (.refl s)

theorem mboxReadDebug_unassigned (hop : s.mboxNat host 8 2 = 1) (hn : dbgAssigned (s.mboxNat host 0x10 8) = false) :
    ∃ t, exec (.mboxReadDebug host) s = .next t ∧ s.Answered host ⟨2, none, s⟩ t := by
  rw [exec_mboxReadDebug, execMboxReadDebug]
  exact mboxStep_answers ok hr (decide_eq_true hop) (.inl hst) (if_neg (Bool.eq_false_iff.1 hn)) (.refl s)

theorem mboxWriteDebug_assigned (hop : s.mboxNat host 8 2 = 2) (hn : dbgAssigned (s.mboxNat host 0x10 8) = true) :
    ∃ t, exec (.mboxWriteDebug host) s = .next t ∧
      s.Answered host ⟨0, none, s.dbgWrite (s.mboxNat host 0x10 8) (BitVec.ofNat 64 (s.mboxNat host 0x18 8))⟩ t := by
  rw [exec_mboxWriteDebug, execMboxWriteDebug]
  exact mboxStep_answers ok hr (decide_eq_true hop) (.inl hst) (if_pos hn) (s.dbgWrite_sameMbox _ _)

theorem mboxReadMonitor_assigned (hop : s.mboxNat host 8 2 = 3) (hn : monAssigned (s.mboxNat host 0x10 8) = true) :
    ∃ t, exec (.mboxReadMonitor host) s = .next t ∧ s.Answered host ⟨0, some (s.monReg (s.mboxNat host 0x10 8)), s⟩ t := by
  rw [exec_mboxReadMonitor, execMboxReadMonitor]
  exact mboxStep_answers ok hr (decide_eq_true hop) (.inl hst) (if_pos hn) (.refl s)

section
variable (hop : s.mboxNat host 8 2 = 4)
include hop

theorem mboxWriteMonitor_unassigned (hn : monAssigned (s.mboxNat host 0x10 8) = false) :
    ∃ t, exec (.mboxWriteMonitor host) s = .next t ∧ s.Answered host ⟨2, none, s⟩ t := by
  rw [exec_mboxWriteMonitor, execMboxWriteMonitor]
  exact mboxStep_answers ok hr (decide_eq_true hop) (.inl hst) (if_pos (by rw [hn]; rfl)) (.refl s)

/-- A write of MSTAT that sets a bit outside its W1C fields is not permitted (log 29). -/
theorem mboxWriteMonitor_mstat (hn : s.mboxNat host 0x10 8 = 0xB00) (hv : BitVec.ofNat 64 (s.mboxNat host 0x18 8) &&& ~~~(0xF800 : Word) ≠ 0) :
    ∃ t, exec (.mboxWriteMonitor host) s = .next t ∧ s.Answered host ⟨3, none, s⟩ t := by
  rw [exec_mboxWriteMonitor, execMboxWriteMonitor]
  exact mboxStep_answers ok hr (decide_eq_true hop) (.inl hst)
    ((if_neg (by rw [hn]; decide)).trans (if_pos (by simpa [hn] using hv))) (.refl s)

theorem mboxWriteMonitor_permitted (hn : monAssigned (s.mboxNat host 0x10 8) = true)
    (hv : s.mboxNat host 0x10 8 = 0xB00 → BitVec.ofNat 64 (s.mboxNat host 0x18 8) &&& ~~~(0xF800 : Word) = 0) :
    ∃ t, exec (.mboxWriteMonitor host) s = .next t ∧
      s.Answered host ⟨0, none, s.monWrite (s.mboxNat host 0x10 8) (BitVec.ofNat 64 (s.mboxNat host 0x18 8))⟩ t := by
  rw [exec_mboxWriteMonitor, execMboxWriteMonitor]
  exact mboxStep_answers ok hr (decide_eq_true hop) (.inl hst)
    ((if_neg (by rw [hn]; decide)).trans (if_neg (by simpa using hv))) (s.monWrite_sameMbox _ _)

end

end

theorem mboxReadDebug_early (hst : s.stage < 5) (hop : s.mboxNat host 8 2 = 1) :
    ∃ t, exec (.mboxReadDebug host) s = .next t ∧ s.Answered host ⟨4, none, s⟩ t := by
  rw [exec_mboxReadDebug, execMboxReadDebug]
  exact mboxStep_refuses ok hr (decide_eq_true hop) hst (by omega) (by omega)

theorem mboxWriteMonitor_early (hst : s.stage < 5) (hop : s.mboxNat host 8 2 = 4) :
    ∃ t, exec (.mboxWriteMonitor host) s = .next t ∧ s.Answered host ⟨4, none, s⟩ t := by
  rw [exec_mboxWriteMonitor, execMboxWriteMonitor]
  exact mboxStep_refuses ok hr (decide_eq_true hop) hst (by omega) (by omega)

end

end Sys2Proof.Machine
end

section
/-! The base dies' steps (R347 to R350). -/
namespace Sys2Proof.Machine

/-! ### Refresh and its fallback (R348) -/

section
variable {s : State} {die : Nat}

/-- Refresh, its heartbeats and its fallback start at boot stage 3 (R363). -/
theorem baseDie_unstarted (h : s.stage < 3) : exec (.refresh die) s = .next s ∧ exec (.fallbackTakeover die) s = .next s ∧
    ∀ pointer, exec (.heartbeat die pointer) s = .next s := by
  simp [execRefresh, execFallbackTakeover, execHeartbeat, h]

theorem heartbeat_ignored (pointer : Nat) (hb : (s.baseDie die).fb = true) (hr : (s.baseDie die).restarted = false) :
    exec (.heartbeat die pointer) s = .next s := by
  simp [execHeartbeat, hb, hr]

section
variable (hd : die < 12) (h : 3 ≤ s.stage)
include hd h

/-- A base die that exists acts from boot stage 3 on. -/
theorem baseDie_started : ¬(decide (12 ≤ die) || decide (s.stage < 3)) = true := by
  simp only [Bool.or_eq_true, decide_eq_true_eq]
  omega

theorem heartbeat_taken (pointer : Nat) (hb : (s.baseDie die).fb = false) : exec (.heartbeat die pointer) s =
    .next (s.setBaseDie die { s.baseDie die with pointer := pointer, beat := pointer, beatAt := s.wall }) := by
  rw [exec_heartbeat, execHeartbeat, if_neg (baseDie_started hd h), if_pos (by rw [hb]; rfl)]

theorem heartbeat_counts (pointer : Nat) (hb : (s.baseDie die).fb = true) (hr : (s.baseDie die).restarted = true) : exec (.heartbeat die pointer) s =
    .next (s.setBaseDie die { s.baseDie die with beats := if s.beatsMissed (s.baseDie die) = true then 1 else (s.baseDie die).beats + 1,
                                                 beat := pointer, beatAt := s.wall }) := by
  rw [exec_heartbeat, execHeartbeat, if_neg (baseDie_started hd h), if_neg (by rw [hb]; decide), if_pos hr]

/-- The row at the pointer is refreshed in every bank, which clears its counters and no other (R348, R349). -/
theorem refresh_row : ∃ t, exec (.refresh die) s = .next t ∧ t.mem = s.mem ∧
    (t.baseDie die).pointer = ((s.baseDie die).pointer + 1) % 2 ^ 20 ∧
    ∀ bank row, row < 2 ^ 20 → tblFind (2 ^ 20 * bank + row) (t.baseDie die).acts =
      if row = (s.baseDie die).pointer then none else tblFind (2 ^ 20 * bank + row) (s.baseDie die).acts := by
  refine ⟨_, by rw [exec_refresh, execRefresh, if_neg (baseDie_started hd h)], ?_⟩
  refine ⟨rfl, by simp, fun bank row hrow => ?_⟩
  have hkey : (2 ^ 20 * bank + row) % 2 ^ 20 = row := by omega
  rw [State.baseDie_setBaseDie, if_pos rfl, tblFind_filter fun e => e % 2 ^ 20 != (s.baseDie die).pointer, hkey]
  by_cases e : row = (s.baseDie die).pointer <;> simp [e]

/-- Two heartbeats missed: the fallback sequencer holds refresh from the last heartbeat's pointer, and the monitor is interrupted (R348). -/
theorem fallbackTakeover_takes (hb : (s.baseDie die).fb = false) (hm : s.beatsMissed (s.baseDie die) = true) :
    ∃ t, exec (.fallbackTakeover die) s = .next t ∧ (t.baseDie die).fb = true ∧ (t.baseDie die).qpause = decide (die < 8) ∧
      (t.baseDie die).fbcount = min ((s.baseDie die).fbcount + 1) 0xFFFF ∧ (t.baseDie die).pointer = (s.baseDie die).beat ∧
      t.monIrq = s.monIrq ++ [die] ∧ t.mem = s.mem := by
  have hguard : ¬(decide (12 ≤ die) || decide (s.stage < 3) || (s.baseDie die).fb || !s.beatsMissed (s.baseDie die)) = true := by
    rw [hb, hm, Bool.not_true, Bool.or_false, Bool.or_false]
    exact baseDie_started hd h
  refine ⟨_, by rw [exec_fallbackTakeover, execFallbackTakeover, if_neg hguard], ?_⟩
  simp [State.baseDie, tblGet_put]

end

theorem fallbackTakeover_idle (h : (s.baseDie die).fb = true ∨ s.beatsMissed (s.baseDie die) = false) :
    exec (.fallbackTakeover die) s = .next s := by
  rcases h with h | h <;> simp [execFallbackTakeover, h]

/-- After a restart and two heartbeats refresh goes back (R348). -/
theorem refreshHandback_returns (hb : (s.baseDie die).fb = true) (hr : (s.baseDie die).restarted = true) (h2 : 2 ≤ (s.baseDie die).beats) :
    ∃ t, exec (.refreshHandback die) s = .next t ∧ (t.baseDie die).fb = false ∧ (t.baseDie die).qpause = false ∧ t.mem = s.mem := by
  refine ⟨_, by rw [exec_refreshHandback, execRefreshHandback, if_pos (by simp [hb, hr, h2])], ?_⟩
  simp

theorem refreshHandback_waits (h : (s.baseDie die).fb = false ∨ (s.baseDie die).restarted = false ∨ (s.baseDie die).beats < 2) :
    exec (.refreshHandback die) s = .next s := by
  have : ¬((s.baseDie die).fb = true ∧ (s.baseDie die).restarted = true ∧ 2 ≤ (s.baseDie die).beats) := by
    rintro ⟨hb, hr, h2⟩
    simp [hb, hr] at h
    omega
  simp [execRefreshHandback, and_assoc, this]

end

/-! ### Latches, limits and alerts (R347, R349) -/

/-- The rows of a bank that the alert of one row refreshes: two on each side, by the keys of their counters (R349). -/
def nearRows (bank row : Nat) : List Nat :=
  ([row + 1, row + 2].filter (· < 2 ^ 20)).map (2 ^ 20 * bank + ·) ++ (if 1 ≤ row then [2 ^ 20 * bank + (row - 1)] else []) ++
    (if 2 ≤ row then [2 ^ 20 * bank + (row - 2)] else [])

theorem mem_nearRows {bank row x : Nat} : x ∈ nearRows bank row ↔
    (row + 1 < 2 ^ 20 ∧ x = 2 ^ 20 * bank + (row + 1)) ∨ (row + 2 < 2 ^ 20 ∧ x = 2 ^ 20 * bank + (row + 2)) ∨
    (1 ≤ row ∧ x = 2 ^ 20 * bank + (row - 1)) ∨ (2 ≤ row ∧ x = 2 ^ 20 * bank + (row - 2)) := by
  have hif (c : Prop) [Decidable c] (y : Nat) : x ∈ (if c then [y] else []) ↔ c ∧ x = y := by
    split <;> simp [*]
  simp only [nearRows, List.mem_append, hif, List.mem_map, List.mem_filter, List.mem_cons, List.not_mem_nil, or_false, decide_eq_true_eq]
  constructor
  · rintro ((⟨r, ⟨rfl | rfl, hr⟩, rfl⟩ | h) | h)
    · exact .inl ⟨hr, rfl⟩
    · exact .inr (.inl ⟨hr, rfl⟩)
    · exact .inr (.inr (.inl h))
    · exact .inr (.inr (.inr h))
  · rintro (⟨hr, rfl⟩ | ⟨hr, rfl⟩ | h | h)
    · exact .inl (.inl ⟨_, ⟨.inl rfl, hr⟩, rfl⟩)
    · exact .inl (.inl ⟨_, ⟨.inr rfl, hr⟩, rfl⟩)
    · exact .inl (.inr h)
    · exact .inr h

section
variable {s : State} {die : Nat} (hd : die < 12)
include hd

theorem subarrayClose_closes (bank latch : Nat) : exec (.subarrayClose die bank latch) s =
    .next (s.setBaseDie die { s.baseDie die with opened := (s.baseDie die).opened.filter fun x => !(x.1 == bank && x.2.1 == latch) }) := by
  rw [exec_subarrayClose, execSubarrayClose, if_neg (Nat.not_le.2 hd)]

theorem throttleEnd_ends (bank : Nat) : exec (.throttleEnd die bank) s =
    .next (s.setBaseDie die { s.baseDie die with throttled := (s.baseDie die).throttled.filter (· ≠ bank) }) := by
  have hkeep : (s.baseDie die).throttled.filter (· ≠ bank) = (s.baseDie die).throttled.filter (· != bank) :=
    List.filter_congr fun x _ => by rw [Bool.eq_iff_iff, decide_eq_true_eq, bne_iff_ne]
  rw [exec_throttleEnd, execThrottleEnd, if_neg (Nat.not_le.2 hd), hkeep]

/-- An alert's base die: the alert is gone and the counters of the rows beside are cleared; an alert of the query sequencer limits the bank. -/
def BaseDie.alerted (b : BaseDie) (die bank row : Nat) (query : Bool) : BaseDie :=
  let served := { b with alerts := b.alerts.erase (bank, row, query), acts := b.acts.filter fun e => !(nearRows bank row).contains e.1 }
  if query && die < 8 then
    { served with throttled := if b.throttled.contains bank then b.throttled else b.throttled ++ [bank], qthr := b.qthr + 1 }
  else served

theorem activationAlert_served {bank row : Nat} {query : Bool} (h : (bank, row, query) ∈ (s.baseDie die).alerts) :
    exec (.activationAlert die bank row query) s = .next (s.setBaseDie die ((s.baseDie die).alerted die bank row query)) := by
  rw [exec_activationAlert, execActivationAlert, if_neg (by simp [hd, h])]
  rfl

end

theorem activationAlert_absent {s : State} {die bank row : Nat} {query : Bool} (h : (bank, row, query) ∉ (s.baseDie die).alerts) :
    exec (.activationAlert die bank row query) s = .next s := by
  simp [execActivationAlert, h]

section
variable (b : BaseDie) (die bank row : Nat) (query : Bool)

theorem BaseDie.alerted_alerts : (b.alerted die bank row query).alerts = b.alerts.erase (bank, row, query) := by
  unfold BaseDie.alerted; split <;> rfl

theorem BaseDie.alerted_acts (x : Nat) :
    tblFind x (b.alerted die bank row query).acts = if x ∈ nearRows bank row then none else tblFind x b.acts := by
  have h : (b.alerted die bank row query).acts = b.acts.filter fun e => !(nearRows bank row).contains e.1 := by
    unfold BaseDie.alerted; split <;> rfl
  rw [h, tblFind_filter fun e => !(nearRows bank row).contains e]
  by_cases hx : x ∈ nearRows bank row <;> simp [hx]

theorem BaseDie.alerted_query (hq : query = true) (hd : die < 8) :
    bank ∈ (b.alerted die bank row query).throttled ∧ (b.alerted die bank row query).qthr = b.qthr + 1 := by
  simp only [BaseDie.alerted, hq, hd, decide_true, Bool.and_self, if_true, and_true]
  split
  next h => simpa using h
  next => simp

theorem BaseDie.alerted_plain (h : query = false ∨ 8 ≤ die) :
    (b.alerted die bank row query).throttled = b.throttled ∧ (b.alerted die bank row query).qthr = b.qthr := by
  have : (query && decide (die < 8)) = false := by
    rcases h with h | h
    · simp [h]
    · simp [Nat.not_lt.2 h]
  simp [BaseDie.alerted, this]

end

/-- An alert that is served: it is gone, its own row's counter and those of other banks stay, the counters of two rows on each side are cleared, and
one of the query sequencer's on a Cellar stack limits the bank and counts (R349). -/
theorem activationAlert_serves {s : State} {die bank row : Nat} {query : Bool} (hd : die < 12) (hrow : row < 2 ^ 20)
    (h : (bank, row, query) ∈ (s.baseDie die).alerts) : ∃ t, exec (.activationAlert die bank row query) s = .next t ∧ t.mem = s.mem ∧
    (t.baseDie die).alerts = (s.baseDie die).alerts.erase (bank, row, query) ∧
    tblFind (2 ^ 20 * bank + row) (t.baseDie die).acts = tblFind (2 ^ 20 * bank + row) (s.baseDie die).acts ∧
    (row + 1 < 2 ^ 20 → tblFind (2 ^ 20 * bank + (row + 1)) (t.baseDie die).acts = none) ∧
    (row + 2 < 2 ^ 20 → tblFind (2 ^ 20 * bank + (row + 2)) (t.baseDie die).acts = none) ∧
    (∀ x, x / 2 ^ 20 ≠ bank → tblFind x (t.baseDie die).acts = tblFind x (s.baseDie die).acts) ∧
    (1 ≤ row → tblFind (2 ^ 20 * bank + (row - 1)) (t.baseDie die).acts = none) ∧
    (2 ≤ row → tblFind (2 ^ 20 * bank + (row - 2)) (t.baseDie die).acts = none) ∧
    (query = true → die < 8 → bank ∈ (t.baseDie die).throttled ∧ (t.baseDie die).qthr = (s.baseDie die).qthr + 1) ∧
    (query = false ∨ 8 ≤ die → (t.baseDie die).throttled = (s.baseDie die).throttled ∧ (t.baseDie die).qthr = (s.baseDie die).qthr) := by
  refine ⟨_, activationAlert_served hd h, rfl, ?_⟩
  rw [State.baseDie_setBaseDie, if_pos rfl]
  generalize s.baseDie die = b
  have cleared {x : Nat} (hx : x ∈ nearRows bank row) : tblFind x (b.alerted die bank row query).acts = none := by
    rw [BaseDie.alerted_acts, if_pos hx]
  have kept {x : Nat} (hx : x ∉ nearRows bank row) : tblFind x (b.alerted die bank row query).acts = tblFind x b.acts := by
    rw [BaseDie.alerted_acts, if_neg hx]
  exact ⟨b.alerted_alerts die bank row query, kept (by rw [mem_nearRows]; omega), fun h1 => cleared (by rw [mem_nearRows]; omega),
    fun h2 => cleared (by rw [mem_nearRows]; omega), fun x hx => kept (by rw [mem_nearRows]; omega),
    fun h1 => cleared (by rw [mem_nearRows]; omega), fun h2 => cleared (by rw [mem_nearRows]; omega),
    b.alerted_query die bank row query, b.alerted_plain die bank row query⟩

/-! ### Scrubbing (R350) -/

theorem State.badBlock_isSome {s : State} {k : Nat} : (s.badBlock k).isSome = true ↔ ∃ x ∈ s.bad, x ≤ k ∧ k < x + 64 := by
  simp [State.badBlock]

/-- An uncorrectable block that scrubbing finds is logged. -/
theorem scrub_logs {s : State} {die block : Nat} (hd : die < 12) (hk : isWorking block = true ∨ isCellar block = true)
    (hb : ∃ x ∈ s.bad, x ≤ block ∧ block < x + 64) :
    exec (.scrub die block) s = .next { s with errValid := true, errPa := block / 64 * 64 } := by
  have hlow : block < 2 ^ 52 := by
    simp only [isWorking, isCellar, Bool.and_eq_true, decide_eq_true_eq] at hk
    omega
  rw [exec_scrub, execScrub, if_pos (by simp [hd, hk, State.badBlock_isSome.2 hb]), State.logError, if_pos hlow]

theorem scrub_clean {s : State} {die block : Nat} (h : ∀ x ∈ s.bad, block < x ∨ x + 64 ≤ block) : exec (.scrub die block) s = .next s := by
  have hno : ¬(s.badBlock block).isSome = true := by
    rw [State.badBlock_isSome]
    rintro ⟨x, hx, h1, h2⟩
    have := h x hx
    omega
  simp [execScrub, Option.not_isSome_iff_eq_none.1 hno]

end Sys2Proof.Machine
end

section
/-! Clocks, boot, links, the host's accesses and SPDM (R16, R357 to R366). -/
namespace Sys2Proof.Machine

/-! ### Clocks and heat (R16, R366) -/

/-- Neither clock step changes a locked clock (R16). -/
theorem clock_locked {s : State} (h : s.clkCur = true) : exec .clockLower s = .next s ∧ exec .clockRaise s = .next s := by
  simp [execClockLower, execClockRaise, h]

theorem clock_moves {s : State} (h : s.clkCur = false) : exec .clockLower s = .next { s with clkMHz := max 1200 (s.clkMHz - 100) } ∧
    exec .clockRaise s = .next { s with clkMHz := min 2100 (s.clkMHz + 100) } := by
  simp [execClockLower, execClockRaise, h]

/-- Heat ends locked-clock mode and marks the running kernels (R366). -/
theorem heatBreak_ends {s : State} (h : s.clkCur = true) : exec .heatBreak s =
    .next { s with clkCur := false, clkReq := false, clkMHz := 2100, lbrk := true,
                   kernels := s.kernels.map fun k => if k.state = .running then { k with broken := true } else k } := by
  simp [execHeatBreak, h]

theorem heatBreak_idle {s : State} (h : s.clkCur = false) : exec .heatBreak s = .next s := by
  simp [execHeatBreak, h]

/-! ### Reset of every store, and boot (R363, R366) -/

/-- Of memory only what stands outside the device is left. -/
theorem Memory.read_outsideMem {m : List Host.Cell} (h : Memory.wf m = true) (k : Nat) :
    Memory.read k (outsideMem m) = if k < 3 * 2 ^ 64 then 0 else Memory.read k m := by
  rw [outsideMem, Memory.read_filter (fun a => decide (3 * 2 ^ 64 ≤ a)) k m 0 h]
  by_cases hk : k < 3 * 2 ^ 64
  · rw [if_neg (by rw [decide_eq_true_eq]; omega), if_pos hk]
  · rw [if_pos (by rw [decide_eq_true_eq]; omega), if_neg hk]

section
variable {s : State}

theorem boot_ended (h : s.fail = true ∨ 5 ≤ s.stage) : exec .boot s = .next s := by
  rcases h with h | h <;> simp [execBoot, h]

theorem verifiesAt_iff (n : Nat) : verifiesAt n = true ↔ n = 2 ∨ n = 3 ∨ n = 5 := by
  simp [verifiesAt, or_assoc]

section
variable (hf : s.fail = false) (hst : s.stage < 5)
include hf hst

theorem boot_stops (hv : s.stage + 1 = 2 ∨ s.stage + 1 = 3 ∨ s.stage + 1 = 5) (hc : Config.bootVerifies (s.stage + 1) = false) :
    exec .boot s = .next { s with fail := true, sideband := s.sideband ++ [0x200 + (s.stage + 1)] } := by
  rw [exec_boot, execBoot, if_neg (by simp [hf, hst]), if_pos (by rw [hc, (verifiesAt_iff _).2 hv]; rfl)]
  rfl

theorem boot_completes (hv : s.stage + 1 = 2 ∨ s.stage + 1 = 3 ∨ s.stage + 1 = 5 → Config.bootVerifies (s.stage + 1) = true) :
    exec .boot s = .next (s.stageDone (s.stage + 1)) := by
  have hok : ¬(verifiesAt (s.stage + 1) && !Config.bootVerifies (s.stage + 1)) = true := by
    rw [Bool.and_eq_true, verifiesAt_iff, Bool.not_eq_true', not_and]
    intro h
    rw [hv h]
    decide
  rw [exec_boot, execBoot, if_neg (by simp [hf, hst]), if_neg hok]

end

/-- Starting refresh on base dies changes the base dies only. -/
theorem State.foldl_setBaseDie_frame (f : State → Nat → BaseDie) (l : List Nat) (s : State) :
    let t := l.foldl (fun t d => t.setBaseDie d (f t d)) s
    t.mem = s.mem ∧ t.stage = s.stage ∧ t.fail = s.fail :=
  foldl_keeps (fun t : State => t.mem = s.mem ∧ t.stage = s.stage ∧ t.fail = s.fail) (fun t d => t.setBaseDie d (f t d)) (fun _ _ h => h) l s ⟨rfl, rfl, rfl⟩

/-- A completed stage is reached, and only stage 4 touches memory. -/
theorem State.stageDone_frame (s : State) (n : Nat) : (s.stageDone n).stage = n ∧ (s.stageDone n).fail = s.fail ∧
    (s.stageDone n).mem = if n = 4 then outsideMem s.mem else s.mem := by
  unfold State.stageDone
  split
  · obtain ⟨hmem, hstage, hfail⟩ := State.foldl_setBaseDie_frame (fun t d => { t.baseDie d with beatAt := t.wall }) (upFrom 0 12) { s with stage := 3 }
    exact ⟨hstage, hfail, hmem⟩
  · exact ⟨rfl, rfl, rfl⟩
  · exact ⟨rfl, rfl, rfl⟩
  next h _ => exact ⟨rfl, rfl, (if_neg h).symm⟩

/-- Stage 5 starts each core at its launch program area (log 7). -/
theorem State.stageDone_core (s : State) {d : Nat} (hd : d < 4) :
    (s.stageDone 5).die d = { s.die d with running := true, core := { (s.die d).core with pc := BitVec.ofNat 64 (s.die d).areaAddr } } := by
  simp [State.stageDone, State.die, Vector.getD, hd]

end

/-- A boot stage that its verification does not stop: stage 4 leaves memory outside the device alone, stage 5 starts the cores (R363). -/
theorem boot_reaches {s : State} (wf : Memory.wf s.mem = true) (hf : s.fail = false) (hst : s.stage < 5)
    (hv : s.stage + 1 = 2 ∨ s.stage + 1 = 3 ∨ s.stage + 1 = 5 → Config.bootVerifies (s.stage + 1) = true) :
    ∃ t, exec .boot s = .next t ∧ t.stage = s.stage + 1 ∧ t.fail = false ∧
      (s.stage + 1 = 4 → ∀ k, Memory.read k t.mem = if k < 3 * 2 ^ 64 then 0 else Memory.read k s.mem) ∧ (s.stage + 1 ≠ 4 → t.mem = s.mem) ∧
      (s.stage + 1 = 5 → ∀ d, d < 4 → (t.die d).running = true ∧ (t.die d).core.pc = BitVec.ofNat 64 (s.die d).areaAddr) := by
  obtain ⟨hstage, hfail, hmem⟩ := s.stageDone_frame (s.stage + 1)
  refine ⟨_, boot_completes hf hst hv, hstage, hfail.trans hf, fun h4 k => ?_, fun h4 => by rw [hmem, if_neg h4], fun h5 d hd => ?_⟩
  · rw [hmem, if_pos h4]
    exact Memory.read_outsideMem wf k
  · rw [h5, State.stageDone_core s hd]
    exact ⟨rfl, rfl⟩

/-! ### Links (R361, R362) -/

section
variable {s : State} {port : Nat}

theorem linkDown_falls (hp : port < 12) (h : port ∉ s.portDown) : exec (.linkDown port) s = .next { s with portDown := s.portDown ++ [port] } := by
  simp [execLinkDown, hp, h]

theorem linkDown_idle (h : 12 ≤ port ∨ port ∈ s.portDown) : exec (.linkDown port) s = .next s := by
  have : ¬(port < 12 ∧ port ∉ s.portDown) := by
    rintro ⟨h1, h2⟩
    exact h.elim (Nat.not_le.2 h1) h2
  simp [execLinkDown, this]

variable {f : Flit} (hp : port < 12) (hup : port ∉ s.portDown)
include hp hup

/-- A flit whose check fails is replayed; after sixteen replays that failed the port is down (R361). -/
theorem flitReceive_replay (hc : f.crcOk = false) : ∃ t, exec (.flitReceive port f) s = .next t ∧ t.mem = s.mem ∧
    tblGet 0 port t.replays = tblGet 0 port s.replays + 1 ∧ (port ∈ t.portDown ↔ 17 ≤ tblGet 0 port s.replays + 1) := by
  rw [exec_flitReceive, execFlitReceive, if_neg (by simp [hp, hup]), if_pos (by rw [hc]; rfl)]
  dsimp only
  split
  next h => exact ⟨_, linkDown_falls hp (by exact hup), rfl, by simp [tblGet_put], by simp [h]⟩
  next h => exact ⟨_, rfl, rfl, by simp [tblGet_put], by simp [hup, h]⟩

/-- A request for this device is performed and answered, and the count of replays begins anew (R361, R362). -/
theorem flitReceive_serves (hc : f.crcOk = true) (hd : f.dst = Config.ownNode) (hr : ∀ data, f.op ≠ .reply data) :
    let served := State.serveFlit { s with replays := tblDel port s.replays } f.op
    exec (.flitReceive port f) s =
      .next { served.1 with sent := served.1.sent ++ [⟨f.src, f.dst, f.tag, .reply served.2, true⟩] } := by
  rw [exec_flitReceive, execFlitReceive, if_neg (by simp [hp, hup]), if_neg (by rw [hc]; decide)]
  cases hop : f.op with
  | reply data => exact absurd hop (hr data)
  | read pa len => simp [hd]
  | write pa data => simp [hd]
  | amo pa op double b cmp => simp [hd]

end

theorem State.serveFlit_read {s : State} {pa len : Nat} (h : pa + len ≤ 2 ^ 38) (hl : len ≤ 192) :
    s.serveFlit (.read pa len) = (s, Memory.reads s.mem pa len) := by
  rw [State.serveFlit, if_pos (by simp only [Bool.and_eq_true, decide_eq_true_eq]; omega)]
  rfl

theorem State.serveFlit_write {s : State} {pa : Nat} {data : List Byte} (h : pa + data.length ≤ 2 ^ 38) (hl : data.length ≤ 192) :
    s.serveFlit (.write pa data) = (s.poke pa data, []) := by
  rw [State.serveFlit, if_pos (by simp only [Bool.and_eq_true, decide_eq_true_eq]; omega)]

/-- A peer's amo of op 0 adds in 8 bytes and is answered with the bytes before. -/
theorem State.serveFlit_add {s : State} {pa : Nat} (x cmp : Word) (ha : pa % 8 = 0) (h : pa + 8 ≤ 2 ^ 38) :
    s.serveFlit (.amo pa 0 true x cmp) = (s.pokeNat pa 8 ((s.peekNat pa 8 + x.toNat) % 2 ^ 64), Memory.reads s.mem pa 8) := by
  have hold : leBytes 8 (s.peekNat pa 8) = Memory.reads s.mem pa 8 := by
    have := leBytes_leNat (Memory.reads s.mem pa 8)
    rwa [Memory.reads_length] at this
  have hnew : (amoValue 0 (BitVec.ofNat 64 (s.peekNat pa 8)) x cmp).toNat = (s.peekNat pa 8 + x.toNat) % 2 ^ 64 := by
    show (BitVec.ofNat 64 (s.peekNat pa 8) + x).toNat = _
    rw [BitVec.toNat_add, BitVec.toNat_ofNat, Nat.mod_add_mod]
  rw [State.serveFlit]
  simp only [if_true]
  rw [if_neg (by simp only [Bool.or_eq_true, bne_iff_ne, ne_eq, decide_eq_true_eq]; omega), hold, hnew]

section
variable {s : State} (wf : Memory.wf s.mem = true) {port : Nat} {f : Flit}

/-- t is the state after a flit that this device answers with some data. -/
def State.AnswersFlit (s : State) (port : Nat) (f : Flit) (t : State) (data : List Byte) : Prop :=
  exec (.flitReceive port f) s = .next t ∧ tblGet 0 port t.replays = 0 ∧ t.sent = s.sent ++ [⟨f.src, f.dst, f.tag, .reply data, true⟩]

variable (hp : port < 12) (hup : port ∉ s.portDown) (hc : f.crcOk = true) (hd : f.dst = Config.ownNode)
include hp hup hc hd

theorem flitReceive_read {pa len : Nat} (hop : f.op = .read pa len) (h : pa + len ≤ 2 ^ 38) (hl : len ≤ 192) :
    ∃ t, s.AnswersFlit port f t (Memory.reads s.mem pa len) ∧ t.mem = s.mem := by
  have serves := flitReceive_serves hp hup hc hd (by simp [hop])
  rw [hop, State.serveFlit_read h hl] at serves
  exact ⟨_, ⟨serves, tblGet_del _ _ _, rfl⟩, rfl⟩

include wf

theorem flitReceive_write {pa : Nat} {data : List Byte} (hop : f.op = .write pa data) (h : pa + data.length ≤ 2 ^ 38) (hl : data.length ≤ 192) :
    ∃ t, s.AnswersFlit port f t [] ∧ Memory.reads t.mem pa data.length = data ∧
      ∀ k, k < pa ∨ pa + data.length ≤ k → Memory.read k t.mem = Memory.read k s.mem := by
  have serves := flitReceive_serves hp hup hc hd (by simp [hop])
  rw [hop, State.serveFlit_write h hl] at serves
  refine ⟨_, ⟨serves, by simp [tblGet_del], by simp⟩, ?_⟩
  rw [State.poke_mem]
  exact ⟨Memory.reads_writes data pa s.mem wf, fun k hk => Memory.read_writes_other data pa k s.mem wf hk⟩

theorem flitReceive_add {pa : Nat} {x cmp : Word} (hop : f.op = .amo pa 0 true x cmp) (ha : pa % 8 = 0) (h : pa + 8 ≤ 2 ^ 38) :
    ∃ t, s.AnswersFlit port f t (Memory.reads s.mem pa 8) ∧ t.peekNat pa 8 = (s.peekNat pa 8 + x.toNat) % 2 ^ 64 := by
  have serves := flitReceive_serves hp hup hc hd (by simp [hop])
  rw [hop, State.serveFlit_add x cmp ha h] at serves
  refine ⟨_, ⟨serves, by simp [State.pokeNat, tblGet_del], by simp [State.pokeNat]⟩, ?_⟩
  exact (State.peekNat_pokeNat (s := { s with replays := tblDel port s.replays }) wf pa 8 _).trans (Nat.mod_mod _ _)

end

/-! ### The host's memory range (R357) -/

section
variable {s : State} {pa : Nat}

theorem hostMemAccess_read (h : s.mhdmBase ≤ pa) (hi : pa + 64 ≤ min (s.mhdmBase + s.mhdmGib * 2 ^ 30) (2 ^ 38)) :
    exec (.hostMemAccess pa none) s = .next { s with hostReply := some (Memory.reads s.mem pa 64) } := by
  rw [exec_hostMemAccess, execHostMemAccess, if_neg (by simp only [Bool.or_eq_true, decide_eq_true_eq]; omega)]
  rfl

theorem hostMemAccess_write {bs : List Byte} (h : s.mhdmBase ≤ pa) (hi : pa + bs.length ≤ min (s.mhdmBase + s.mhdmGib * 2 ^ 30) (2 ^ 38)) :
    exec (.hostMemAccess pa (some bs)) s = .next (s.poke pa bs) := by
  rw [exec_hostMemAccess, execHostMemAccess, if_neg (by simp only [Bool.or_eq_true, decide_eq_true_eq]; omega)]

theorem hostMemAccess_below (h : pa < s.mhdmBase) (data : Option (List Byte)) : exec (.hostMemAccess pa data) s = .next s := by
  cases data with
  | none => rw [exec_hostMemAccess, execHostMemAccess, if_pos (by simp only [Bool.or_eq_true, decide_eq_true_eq]; omega)]
  | some bs => rw [exec_hostMemAccess, execHostMemAccess, if_pos (by simp only [Bool.or_eq_true, decide_eq_true_eq]; omega)]

end

/-! ### BAR0 (R358) -/

/-- The bytes of a number that the host reads from an aligned place of BAR0, when the bytes there are that number's. -/
theorem State.barRead {s : State} {off : Nat} (v : Nat) (h : ∀ i, i < 8 → s.barByte (off + i) = nthD 0 (leBytes 8 v) i) :
    s.run (.bar off none) = .next { s with hostReply := some (leBytes 8 v) } := by
  have hbytes := map_upFrom_eq 0 s.barByte (leBytes 8 v) off (by simpa using h)
  rw [leBytes_length] at hbytes
  rw [State.run, State.barAccess, hbytes]

theorem bar_mstat (s : State) : s.run (.bar 0x2000 none) = .next { s with hostReply := some (leBytes 8 (s.monReg 0xB00)) } := by
  refine State.barRead _ fun i hi => ?_
  rw [State.barByte, if_pos (by simp only [Bool.and_eq_true, decide_eq_true_eq]; omega), show (0x2000 + i) % 8 = i by omega]

section
variable {s : State} {d : Nat} (hd : d < 4)
include hd

/-- LPLIMIT and LPPOS of a die as the host reads them. -/
theorem State.barByte_area (hf : s.fail = false) {o : Nat} (ho : o < 16) : s.barByte (0x100 * d + o) =
    nthD 0 (leBytes 8 (if o < 8 then (s.die d).lpLimit.toNat else (s.die d).lpPos.toNat)) (o % 8) := by
  rw [State.barByte, if_neg (by simp only [Bool.and_eq_true, decide_eq_true_eq]; omega), if_neg (by rw [hf]; decide),
    if_pos (by simp only [Bool.and_eq_true, decide_eq_true_eq]; omega), show (0x100 * d + o) / 0x100 = d by omega,
    show (0x100 * d + o) % 0x100 = o by omega, show (0x100 * d + o) % 8 = o % 8 by omega]

theorem bar_lplimit (hf : s.fail = false) :
    s.run (.bar (0x100 * d) none) = .next { s with hostReply := some (leBytes 8 (s.die d).lpLimit.toNat) } :=
  State.barRead _ fun i hi => by rw [State.barByte_area hd hf (by omega), if_pos hi, Nat.mod_eq_of_lt hi]

theorem bar_lppos (hf : s.fail = false) :
    s.run (.bar (0x100 * d + 8) none) = .next { s with hostReply := some (leBytes 8 (s.die d).lpPos.toNat) } :=
  State.barRead _ fun i hi => by
    rw [Nat.add_assoc, State.barByte_area hd hf (by omega), if_neg (by omega), show (8 + i) % 8 = i by omega]

/-- The host writes LPLIMIT from boot stage 5 on, and before it nothing (R358). -/
theorem bar_writes {bs : List Byte} (hn : bs.length = 8) : s.run (.bar (0x100 * d) (some bs)) =
    .next (if s.stage < 5 then s else s.setDie d { s.die d with lpLimit := BitVec.ofNat 64 (leNat bs) &&& ~~~3 }) := by
  rw [State.run, State.barAccess, State.barWrite, if_pos (by simp only [Bool.and_eq_true, decide_eq_true_eq]; omega),
    show 0x100 * d / 0x100 = d by omega, show 0x100 * d % 0x100 = 0 by omega]
  simp [hn, List.drop_eq_nil_of_le, Die.setLplimit]

end

/-! ### SPDM (R364) -/

theorem spdm_replies {s : State} (code : Nat) (req : List Byte) (h : s.doe = none) (hw : s.doeWait = []) :
    spdm code req s = .next { s with doe := some (spdmReply code req) } := by
  simp [spdm, h, hw]

theorem spdm_waits {s : State} (code : Nat) (req : List Byte) (h : s.doe ≠ none ∨ s.doeWait ≠ []) :
    spdm code req s = .next { s with doeWait := s.doeWait ++ [(code, req)] } := by
  have : s.doe.isSome = true ∨ s.doeWait.isEmpty = false := by
    simpa [Option.isSome_iff_ne_none] using h
  rw [spdm, if_pos (by simpa using this)]

end Sys2Proof.Machine
end

section
/-! The platform (R16, R347 to R350, R357 to R366): its steps, part by part. -/
namespace Sys2Proof.Machine

/-- Settles O60: each part of the platform by the lemmas on its steps. -/
theorem platformEvents : Obligations.PlatformEvents := by
  unfold Obligations.PlatformEvents
  intro s wf
  refine ⟨?mailbox, ?base, ?locked, ?moving, ?trip, boot_ended, ?boot, ?ports, ?flits, ?host, ?bar, bar_mstat s, ?spdm, fun req => ⟨rfl, rfl, rfl⟩⟩
  case mailbox =>
    intro host hr hp num op n v done
    have ok : s.MboxOk host := ⟨wf, hp⟩
    refine ⟨fun h => State.Answered.finished (mboxNop_answers ok hr h), fun h => State.Answered.withReply (mboxReadStage_answers ok hr h),
      fun hst => ⟨fun h ha => State.Answered.withReply (mboxReadDebug_assigned ok hr hst h ha), fun h ha => ?_,
        fun h ha => State.Answered.withReply (mboxReadMonitor_assigned ok hr hst h ha),
        fun h hn hv => State.Answered.finished (mboxWriteMonitor_mstat ok hr hst h hn hv), fun h ha hv => ?_,
        fun h ha => State.Answered.finished (mboxReadDebug_unassigned ok hr hst h ha),
        fun h ha => State.Answered.finished (mboxWriteMonitor_unassigned ok hr hst h ha)⟩,
      fun hst => ⟨fun h => State.Answered.finished (mboxReadDebug_early ok hr hst h),
        fun h => State.Answered.finished (mboxWriteMonitor_early ok hr hst h)⟩⟩
    · obtain ⟨t, ht, hdone, hdbg, -⟩ := State.Answered.withRegs (mboxWriteDebug_assigned ok hr hst h ha)
      exact ⟨t, ht, hdone, hdbg⟩
    · obtain ⟨t, ht, hdone, -, hregs⟩ := State.Answered.withRegs (mboxWriteMonitor_permitted ok hr hst h ha hv)
      exact ⟨t, ht, hdone, hregs⟩
  case base =>
    intro die hd b
    exact ⟨baseDie_unstarted, fun pointer h3 => ⟨heartbeat_taken hd h3 pointer, heartbeat_counts hd h3 pointer, heartbeat_ignored pointer⟩,
      fun h3 _ => refresh_row hd h3, fallbackTakeover_idle, fallbackTakeover_takes hd, refreshHandback_returns, refreshHandback_waits,
      subarrayClose_closes hd, throttleEnd_ends hd, fun _ _ _ => activationAlert_absent, fun _ _ _ => activationAlert_serves hd,
      fun block => ⟨scrub_logs hd, scrub_clean⟩⟩
  case locked => exact fun h => ⟨(clock_locked h).1, (clock_locked h).2, heatBreak_ends h⟩
  case moving => exact fun h => ⟨(clock_moves h).1, (clock_moves h).2, heatBreak_idle h⟩
  case trip => exact ⟨_, rfl, Memory.read_outsideMem wf, rfl, rfl, rfl, rfl, rfl⟩
  case boot => exact fun hf hst => ⟨boot_stops hf hst, boot_reaches wf hf hst⟩
  case ports => exact fun port => ⟨linkDown_falls, linkDown_idle⟩
  case flits =>
    exact fun port f hp hup => ⟨flitReceive_replay hp hup, fun hc hd => ⟨fun pa len => flitReceive_read hp hup hc hd,
      fun pa data => flitReceive_write wf hp hup hc hd, fun pa x cmp => flitReceive_add wf hp hup hc hd⟩⟩
  case host =>
    intro pa lo hi
    refine ⟨hostMemAccess_read, fun bs h hh => ⟨_, hostMemAccess_write h hh, ?_⟩,
      fun h => ⟨hostMemAccess_below h none, fun bs => hostMemAccess_below h (some bs)⟩⟩
    rw [State.poke_mem]
    exact ⟨Memory.reads_writes bs pa s.mem wf, fun k hk => Memory.read_writes_other bs pa k s.mem wf hk⟩
  case bar =>
    intro d hd bar
    refine ⟨fun hf => ⟨bar_lplimit hd hf, bar_lppos hd hf⟩, fun bs hn hst => ?_, fun bs hn hst => ?_⟩
    · exact (bar_writes hd hn).trans (by rw [if_neg (Nat.not_lt.2 hst)])
    · exact (bar_writes hd hn).trans (by rw [if_pos hst])
  case spdm =>
    intro req x hx
    have hexec : exec x.2 s = spdm x.1 req s := by
      simp only [List.mem_cons, List.not_mem_nil, or_false] at hx
      rcases hx with rfl | rfl | rfl | rfl | rfl | rfl | rfl <;> rfl
    rw [hexec]
    exact ⟨spdm_replies x.1 req, spdm_waits x.1 req⟩

end Sys2Proof.Machine
end
